-- ==== Sys2Proof/Word.lean ====
section
/-! DEFINITION. Bytes, the numbers of the part's instances, tables indexed by them, sets of them, and time stamps. -/

namespace Sys2Proof

/-- One byte of a frame, an item or a record (R170). -/
abbrev Byte := BitVec 8

/-- Channels LS0 to LS23 (R1). -/
abbrev ChanId := Fin 24
/-- Zones Z0 to Z11 (R29). -/
abbrev ZoneId := Fin 12
/-- Link slots L0 to L15 (R31). -/
abbrev LinkId := Fin 16
/-- Breakers B0 to B7 (R33). -/
abbrev BreakerId := Fin 8
/-- Ports P0 to P2 (R159). -/
abbrev PortId := Fin 3
/-- Slots of the order table, 0 to 11 (R58). -/
abbrev SlotId := Fin 12
/-- Upstream transfer-trip lines UT0 to UT3 (R84). -/
abbrev UtId := Fin 4

/-- All instances, in ascending number: the order in which the rules take them (R22, R25, R55, R86). -/
abbrev ids (n : Nat) : List (Fin n) := List.finRange n

/-- The record of instance `i`. -/
def look {α : Type} {n : Nat} (t : Vector α n) (i : Fin n) : α := t[i.val]

/-- The table with the record of instance `i` replaced. -/
def put {α : Type} {n : Nat} (t : Vector α n) (i : Fin n) (x : α) : Vector α n := t.set i.val x i.isLt

/-- A set of numbered members, bit `i` for member `i` (the bitmap of R171). -/
abbrev Marks (n : Nat) := BitVec n

namespace Marks

/-- Member `i` is in the set. -/
def has {n : Nat} (m : Marks n) (i : Fin n) : Bool := m.getLsbD i.val

/-- The set with member `i`. -/
def add {n : Nat} (m : Marks n) (i : Fin n) : Marks n := m ||| BitVec.twoPow n i.val

/-- The set without member `i`. -/
def drop {n : Nat} (m : Marks n) (i : Fin n) : Marks n := m &&& ~~~ (BitVec.twoPow n i.val)

/-- The members in ascending number. -/
def members {n : Nat} (m : Marks n) : List (Fin n) := (ids n).filter (fun i => m.has i)

/-- The set of the members that pass `p`. -/
def collect {n : Nat} (p : Fin n → Bool) : Marks n :=
  (ids n).foldl (fun m i => if p i then m.add i else m) 0

end Marks

/-- A time stamp: seconds 0 to 4,294,967,295 and microseconds 0 to 999,999 (R141). -/
structure Stamp where
  sec : Nat
  us : Nat
  deriving DecidableEq, Repr

/-- A stamp read as one number (R141). -/
def Stamp.micros (t : Stamp) : Nat := t.sec * 1000000 + t.us

/-- The later value less the earlier, 0 where that is negative (R141). -/
def Stamp.since (later earlier : Stamp) : Nat := later.micros - earlier.micros

end Sys2Proof
end

