-- ==== Sys2Proof/Config.lean ====
section
/-! DEFINITION. The free values: what the spec leaves open, as constants without a body, so that a statement holds for
every value of them. -/

namespace Sys2Proof

/-- Which of the timers that end in the same microsecond is taken first, when no command waits. The argument is the
counter `State.ties`. The spec gives the outcome of either order and no order (R46, R137, R157). Assumption log 3. -/
opaque Config.firstOfTies : Nat → Nat

end Sys2Proof
end

