-- ==== Sys2Proof/Syntax.lean ====
section
/-! DEFINITION. The commands: one constructor per row of spec/opcode_table.json, with the operands that the outside
gives. A row that is the completion of a request carries none: its operands stand in the EXECUTING slot (R165). -/

namespace Sys2Proof

/-- The state of the sensor wiring as seen with a sample: OK, OPEN or SHORT (R5). -/
inductive LineStatus where
  | ok
  | openLoop
  | short
  deriving DecidableEq, Repr

/-- The commands of the part. -/
inductive Instr where
  /-- SAMPLE_ARRIVAL (R5): sample `s` with line status `line` arrives at channel `ch`. -/
  | sampleArrival (ch : ChanId) (s : Nat) (line : LineStatus)
  /-- LINE_FAULT (R7): the non-OK sample that brings the non-OK run count of `ch` to 200. -/
  | lineFault (ch : ChanId)
  /-- LINE_RECOVERY (R8): the OK sample that brings the OK run count of `ch` to 20,000. -/
  | lineRecovery (ch : ChanId)
  /-- CONTACT_LINE_CHANGE (R36): the contact lines of breaker `b` now stand at `bpc` and `bpo`. -/
  | contactLineChange (b : BreakerId) (bpc bpo : Bool)
  /-- POSITION_CHANGE (R37): the stability timer of breaker `b` runs out. -/
  | positionChange (b : BreakerId)
  /-- POSITION_FAULT_TIMER_EXPIRY (R39): the 1 s UNKNOWN timer of breaker `b` runs out. -/
  | positionFaultTimerExpiry (b : BreakerId)
  /-- CURRENT_LINE_CHANGE (R41): the line CURb now stands at `level`. -/
  | currentLineChange (b : BreakerId) (level : Bool)
  /-- FILTERED_CURRENT_CHANGE (R42): the 100 µs filter timer of breaker `b` runs out. -/
  | filteredCurrentChange (b : BreakerId)
  /-- LIGHT_ALARM_TIMER_EXPIRY (R52). -/
  | lightAlarmTimerExpiry (z : ZoneId)
  /-- CLOSE_TIMER_EXPIRY (R70). -/
  | closeTimerExpiry (o : SlotId)
  /-- BF_TIMER_EXPIRY (R74). -/
  | bfTimerExpiry (b : BreakerId)
  /-- MINIMUM_PULSE_TIMER_EXPIRY (R66). -/
  | minimumPulseTimerExpiry (b : BreakerId)
  /-- PULSE_CEILING_TIMER_EXPIRY (R77). -/
  | pulseCeilingTimerExpiry (b : BreakerId)
  /-- UT_MINIMUM_TIMER_EXPIRY (R84). -/
  | utMinimumTimerExpiry (u : UtId)
  /-- LOCKOUT_UPDATE_COMPLETION (R99). -/
  | lockoutUpdateCompletion
  /-- LOCKOUT_UPDATE_TIMER_EXPIRY (R100). -/
  | lockoutUpdateTimerExpiry
  /-- HOLD_EXPIRY (R112): the expiry of port `p`'s entry on zone `z`, and of every entry placed for the same point. -/
  | holdExpiry (z : ZoneId) (p : PortId)
  /-- GATHERING_WINDOW_EXPIRY (R120). -/
  | gatheringWindowExpiry
  /-- SETTLE_TIMER_EXPIRY (R125). -/
  | settleTimerExpiry
  /-- DARKEN_TIMER_EXPIRY (R126). -/
  | darkenTimerExpiry
  /-- QUIET_TIMER_EXPIRY (R134). -/
  | quietTimerExpiry
  /-- ROLLOVER (R152). -/
  | rollover
  /-- SYNC_PULSE (R153): a rising edge on SYNC. -/
  | syncPulse
  /-- FREEWHEEL_TIMER_EXPIRY (R155). -/
  | freewheelTimerExpiry
  /-- TRANSACTION_START (R161): SELp_N is asserted. -/
  | transactionStart (p : PortId)
  /-- TRANSACTION_END (R162): SELp_N is released after the whole bytes `bytes` and `extraBits` bits of one more. -/
  | transactionEnd (p : PortId) (bytes : List Byte) (extraBits : Nat)
  /-- READ_ITEM (R172): the completion of a Read Item. -/
  | readItem
  /-- WRITE_CHANNEL_RECORD (R2): the completion of a Write Item of a channel record. -/
  | writeChannelRecord
  /-- WRITE_ZONE_RECORD (R30). -/
  | writeZoneRecord
  /-- WRITE_LINK_SLOT (R32). -/
  | writeLinkSlot
  /-- WRITE_BREAKER_RECORD (R33). -/
  | writeBreakerRecord
  /-- WRITE_PORT_RECORD (R167). -/
  | writePortRecord
  /-- WRITE_GLOBAL_RECORD (R176). -/
  | writeGlobalRecord
  /-- HOLD_ZONE (R106). -/
  | holdZone
  /-- FREE_ZONE (R111). -/
  | freeZone
  /-- RELEASE_LOCKOUT (R94). -/
  | releaseLockout
  /-- TEST_CHANNELS (R119). -/
  | testChannels
  /-- SUSPEND_TEST (R132). -/
  | suspendTest
  /-- RESUME_TEST (R135). -/
  | resumeTest
  /-- FETCH_RECORD (R149). -/
  | fetchRecord
  /-- PEEK_ORDER (R150). -/
  | peekOrder
  /-- COMMIT_SETTINGS (R179). -/
  | commitSettings
  /-- SET_SECONDS (R156). -/
  | setSeconds
  /-- UNKNOWN_REQUEST (R163): the completion of a request of unknown kind. -/
  | unknownRequest
  /-- COMMIT_COMPLETION (R180). -/
  | commitCompletion
  /-- COMMIT_TIMER_EXPIRY (R180). -/
  | commitTimerExpiry
  /-- POWER_ON_RESET (R182). -/
  | powerOnReset
  /-- RESET_N (R182): RESET_N has been low for 10 µs. -/
  | resetN
  /-- RESET_END (R182): the reset condition ends. -/
  | resetEnd
  /-- LOADING_END (R183): both store reads have finished. -/
  | loadingEnd
  /-- TRIP_SUPPLY_READING (R187): the TSUP comparator reads GOOD (`good`) or LOW. -/
  | tripSupplyReading (good : Bool)
  /-- LOSS_OF_POWER (R102): the supplies fail. -/
  | lossOfPower
  deriving DecidableEq, Repr

end Sys2Proof
end

