-- ==== Sys2Proof/WellFormed.lean ====
section
/-! DEFINITION. Which commands can exist. Instance numbers are bounded by their types; what is left to check is the
range of a light sample and the number of bits of a partial byte. -/

namespace Sys2Proof

/-- A sample is 0 to 4095 LU (R5), and a partial byte has fewer than 8 bits (R159). Every other command is well formed. -/
def Instr.wellFormed : Instr → Bool
  | .sampleArrival _ s _ => decide (s ≤ 4095)
  | .transactionEnd _ _ extraBits => decide (extraBits < 8)
  | .lineFault _ | .lineRecovery _ | .contactLineChange _ _ _ | .positionChange _ | .positionFaultTimerExpiry _
  | .currentLineChange _ _ | .filteredCurrentChange _ | .lightAlarmTimerExpiry _ | .closeTimerExpiry _
  | .bfTimerExpiry _ | .minimumPulseTimerExpiry _ | .pulseCeilingTimerExpiry _ | .utMinimumTimerExpiry _
  | .lockoutUpdateCompletion | .lockoutUpdateTimerExpiry | .holdExpiry _ _ | .gatheringWindowExpiry
  | .settleTimerExpiry | .darkenTimerExpiry | .quietTimerExpiry | .rollover | .syncPulse | .freewheelTimerExpiry
  | .transactionStart _ | .readItem | .writeChannelRecord | .writeZoneRecord | .writeLinkSlot | .writeBreakerRecord
  | .writePortRecord | .writeGlobalRecord | .holdZone | .freeZone | .releaseLockout | .testChannels | .suspendTest
  | .resumeTest | .fetchRecord | .peekOrder | .commitSettings | .setSeconds | .unknownRequest | .commitCompletion
  | .commitTimerExpiry | .powerOnReset | .resetN | .resetEnd | .loadingEnd | .tripSupplyReading _
  | .lossOfPower => true

end Sys2Proof
end

