-- ==== Sys2Proof/Machine/Settings.lean ====
section
/-! DEFINITION. The settings records (R1, R29, R31, R33, R167, Table 10-1) and the BACKSTOP defaults (Table 10-6). -/

namespace Sys2Proof.Machine

open Sys2Proof

/-- Channel record (Table 1-1). The fields are as a Write Item carries them until they are clamped (R176). -/
structure ChannelRecord where
  inUse : Bool
  primary : ZoneId
  secondary : Option ZoneId
  ta : Nat
  g : Nat
  m : Nat
  k : Nat
  n : Nat
  ref : Nat
  deriving DecidableEq, Repr

/-- Zone record (Table 2-1). -/
structure ZoneRecord where
  inUse : Bool
  lightOnly : Bool
  deriving DecidableEq, Repr

/-- Role of a breaker (Table 2-3). -/
inductive Role where
  | incomer
  | coupler
  deriving DecidableEq, Repr

/-- Side A of a breaker: the external source or a zone (Table 2-3). -/
inductive Side where
  | external
  | zone (z : ZoneId)
  deriving DecidableEq, Repr

/-- Breaker record (Table 2-3). The BF time is in ms. -/
structure BreakerRecord where
  inUse : Bool
  role : Role
  sideA : Side
  sideB : ZoneId
  owner : PortId
  ccUsed : Bool
  bfTime : Nat
  utLine : Option UtId
  deriving DecidableEq, Repr

/-- Port record (R167). -/
structure PortRecord where
  priority : Nat
  ceiling : Nat
  deriving DecidableEq, Repr

/-- The working settings (Table 10-1). A filled link slot holds its pair with the lower zone number first (R31: the pair
is unordered). -/
structure Settings where
  channels : Vector ChannelRecord 24
  zones : Vector ZoneRecord 12
  links : Vector (Option (ZoneId × ZoneId)) 16
  breakers : Vector BreakerRecord 8
  ports : Vector PortRecord 3
  fast : Bool
  deriving DecidableEq, Repr

/-- The zones a channel watches, in ascending zone number (R1, R22). -/
def ChannelRecord.zones (r : ChannelRecord) : List ZoneId :=
  match r.secondary with
  | none => [r.primary]
  | some z => if z < r.primary then [z, r.primary] else [r.primary, z]

/-- The channel watches the zone as primary or secondary (R23). -/
def ChannelRecord.watches (r : ChannelRecord) (z : ZoneId) : Bool := r.primary == z || r.secondary == some z

/-- The zones a breaker record names as a side (R93, R177): side A of an INCOMER names none, also where a record not in
use holds a zone there (R33). -/
def BreakerRecord.sideZones (r : BreakerRecord) : List ZoneId :=
  match r.role, r.sideA with
  | .incomer, _ => [r.sideB]
  | .coupler, .external => [r.sideB]
  | .coupler, .zone z => [z, r.sideB]

/-- Table 10-6, a channel record. -/
def defaultChannel : ChannelRecord :=
  { inUse := true, primary := 0, secondary := none, ta := 2048, g := 32, m := 200, k := 8, n := 2, ref := 0 }

/-- Table 10-6, a breaker record with UT line `u`. -/
def defaultBreaker (u : Option UtId) : BreakerRecord :=
  { inUse := true, role := .incomer, sideA := .external, sideB := 0, owner := 2, ccUsed := true, bfTime := 120, utLine := u }

/-- The BACKSTOP defaults (Table 10-6, Table 9-2a), which are also the settings of the factory image (R181). -/
def backstopDefaults : Settings :=
  { channels := Vector.replicate 24 defaultChannel
    zones := put (Vector.replicate 12 { inUse := false, lightOnly := false }) 0 { inUse := true, lightOnly := false }
    links := Vector.replicate 16 none
    breakers := #v[defaultBreaker (some 0), defaultBreaker (some 1), defaultBreaker (some 2), defaultBreaker (some 3),
      defaultBreaker none, defaultBreaker none, defaultBreaker none, defaultBreaker none]
    ports := #v[{ priority := 2, ceiling := 4 }, { priority := 2, ceiling := 4 }, { priority := 3, ceiling := 0 }]
    fast := true }

/-- A number moved to the nearer end of its range (conventions of 00). -/
def clampTo (lo hi x : Nat) : Nat := max lo (min hi x)

/-- Every number of a channel record clamped to its range (R2, R176). -/
def ChannelRecord.clamped (r : ChannelRecord) : ChannelRecord :=
  { r with
    ta := clampTo 64 4000 r.ta
    g := clampTo 8 64 r.g
    m := clampTo 0 1023 r.m
    k := clampTo 4 12 r.k
    n := clampTo 1 8 r.n
    ref := clampTo 0 4095 r.ref }

/-- The BF time clamped to 30–500 ms (R34). -/
def BreakerRecord.clamped (r : BreakerRecord) : BreakerRecord := { r with bfTime := clampTo 30 500 r.bfTime }

/-- Priority clamped to 0–3 and ceiling to 0–15 (R167). -/
def PortRecord.clamped (r : PortRecord) : PortRecord :=
  { priority := clampTo 0 3 r.priority, ceiling := clampTo 0 15 r.ceiling }

/-- R2: a secondary zone equal to the primary is a structural error. -/
def channelStructureOk (r : ChannelRecord) : Bool := r.secondary != some r.primary

/-- R30: a zone may leave use only when no filled link and no in-use breaker names it. -/
def zoneStructureOk (w : Settings) (z : ZoneId) (r : ZoneRecord) : Bool :=
  r.inUse ||
    (w.links.toList.all (fun l => match l with
        | none => true
        | some (a, b) => a != z && b != z)
      && w.breakers.toList.all (fun b => !b.inUse || !b.sideZones.contains z))

/-- R32: emptying is always valid; a pair must join two distinct zones in use and stand in no other filled slot. -/
def linkStructureOk (w : Settings) (i : LinkId) (l : Option (ZoneId × ZoneId)) : Bool :=
  match l with
  | none => true
  | some (a, b) =>
    a != b && (look w.zones a).inUse && (look w.zones b).inUse
      && (ids 16).all (fun j => j == i || (look w.links j != some (a, b) && look w.links j != some (b, a)))

/-- R33: an in-use breaker must be one that the map can place. -/
def breakerStructureOk (w : Settings) (r : BreakerRecord) : Bool :=
  !r.inUse ||
    (match r.role, r.sideA with
      | .incomer, .external => (look w.zones r.sideB).inUse
      | .incomer, .zone _ => false
      | .coupler, .external => false
      | .coupler, .zone a =>
        (look w.zones a).inUse && (look w.zones r.sideB).inUse && a != r.sideB && r.utLine.isNone)

/-- The external source stands as side A of an INCOMER only (Table 2-3, R34; log 11). -/
def breakerSideOk (r : BreakerRecord) : Bool := !(r.role == .coupler && r.sideA == .external)

/-- R181: contents that Write Item could have built: every field in its range and every structural condition met. -/
def Settings.buildable (w : Settings) : Bool :=
  w.channels.toList.all (fun r => r.clamped == r && channelStructureOk r)
    && (ids 12).all (fun z => zoneStructureOk w z (look w.zones z))
    && (ids 16).all (fun i => linkStructureOk w i (look w.links i)
        && match look w.links i with
          | none => true
          | some (a, b) => decide (a < b))
    && w.breakers.toList.all (fun r => r.clamped == r && breakerSideOk r && breakerStructureOk w r)
    && w.ports.toList.all (fun r => r.clamped == r)

end Sys2Proof.Machine
end

