-- ==== Sys2Proof/Machine/Wire.lean ====
section
/-! DEFINITION. Bytes on the wire: the field encodings of R171, the check byte of R160, the CRC-16 of R181, and the
settings fields of each item (Table 9-5). -/

namespace Sys2Proof.Machine

open Sys2Proof

/-- A number in one byte. -/
def num1 (x : Nat) : List Byte := [BitVec.ofNat 8 x]
/-- A number in two bytes, most significant first (R170). -/
def num2 (x : Nat) : List Byte := [BitVec.ofNat 8 (x / 256), BitVec.ofNat 8 x]
/-- A number in three bytes. -/
def num3 (x : Nat) : List Byte := [BitVec.ofNat 8 (x / 65536), BitVec.ofNat 8 (x / 256), BitVec.ofNat 8 x]
/-- A number in four bytes. -/
def num4 (x : Nat) : List Byte :=
  [BitVec.ofNat 8 (x / 16777216), BitVec.ofNat 8 (x / 65536), BitVec.ofNat 8 (x / 256), BitVec.ofNat 8 x]

/-- yes or no, set or clear, running or stopped: 1 or 0 (R171). -/
def flag1 (b : Bool) : List Byte := num1 (if b then 1 else 0)

/-- An optional number or code of one byte, 0xFF when absent (R171). -/
def opt1 (x : Option Nat) : List Byte := num1 (x.getD 0xFF)
/-- An optional number of two bytes, 0xFFFF when absent (R171). -/
def opt2 (x : Option Nat) : List Byte := num2 (x.getD 0xFFFF)

/-- A time stamp in seven bytes, all 0xFF when absent (R171). -/
def stamp7 (t : Option Stamp) : List Byte :=
  match t with
  | none => List.replicate 7 0xFF#8
  | some t => num4 t.sec ++ num3 t.us

/-- The bits of a byte, most significant first (R160). -/
def byteBits (x : Byte) : List Bool :=
  [x.getLsbD 7, x.getLsbD 6, x.getLsbD 5, x.getLsbD 4, x.getLsbD 3, x.getLsbD 2, x.getLsbD 1, x.getLsbD 0]

/-- One message bit taken into a CRC register with generator `poly`: shift left, and add the generator where the outgoing
top bit and the message bit differ (R160, R181). -/
def crcBit {w : Nat} (poly : BitVec w) (r : BitVec w) (b : Bool) : BitVec w :=
  if r.getLsbD (w - 1) != b then (r <<< 1) ^^^ poly else r <<< 1

/-- `k r`, with `r` computed first. (It equals `k r`; the match keeps Lean's kernel from piling up unevaluated
registers over a long message.) -/
def forced {α : Type} {w : Nat} (r : BitVec w) (k : BitVec w → α) : α :=
  match r.toNat with
  | 0 => k 0#w
  | n + 1 => k (BitVec.ofNat w (n + 1))

/-- The register after all the bits of a message. -/
def crcRun {w : Nat} (poly : BitVec w) : List Bool → BitVec w → BitVec w
  | [], r => r
  | b :: bs, r => forced (crcBit poly r b) (crcRun poly bs)

/-- The check byte of a frame: CRC-8, generator 0x07, initial value 0xFF (R160). -/
def crc8 (bytes : List Byte) : Byte := crcRun 0x07#8 (bytes.flatMap byteBits) 0xFF#8

/-- The CRC-16 of the settings image: generator 0x1021, initial value 0xFFFF (R181). -/
def crc16 (bytes : List Byte) : BitVec 16 := crcRun 0x1021#16 (bytes.flatMap byteBits) 0xFFFF#16

/-- Settings fields of a channel item, in Table 1-1 order. -/
def encodeChannel (r : ChannelRecord) : List Byte :=
  flag1 r.inUse ++ num1 r.primary.val ++ opt1 (r.secondary.map (·.val)) ++ num2 r.ta ++ num1 r.g ++ num2 r.m
    ++ num1 r.k ++ num1 r.n ++ num2 r.ref

/-- Settings fields of a zone item (Table 2-1). -/
def encodeZone (r : ZoneRecord) : List Byte := flag1 r.inUse ++ flag1 r.lightOnly

/-- Settings fields of a link item: filled, then the pair, lower number first, 0xFF each when empty (Table 9-5). -/
def encodeLink (l : Option (ZoneId × ZoneId)) : List Byte :=
  match l with
  | none => [0#8, 0xFF#8, 0xFF#8]
  | some (a, b) => [1#8, BitVec.ofNat 8 (min a.val b.val), BitVec.ofNat 8 (max a.val b.val)]

/-- Code of a role (Table 2-3 order). -/
def Role.code : Role → Nat
  | .incomer => 0
  | .coupler => 1

/-- Code of side A: 0xFE for the external source, else the zone number (R171). -/
def Side.code : Side → Nat
  | .external => 0xFE
  | .zone z => z.val

/-- Settings fields of a breaker item, in Table 2-3 order. -/
def encodeBreaker (r : BreakerRecord) : List Byte :=
  flag1 r.inUse ++ num1 r.role.code ++ num1 r.sideA.code ++ num1 r.sideB.val ++ num1 r.owner.val ++ flag1 r.ccUsed
    ++ num2 r.bfTime ++ opt1 (r.utLine.map (·.val))

/-- Settings fields of a port item. -/
def encodePort (r : PortRecord) : List Byte := num1 r.priority ++ num1 r.ceiling

/-- The bytes of a settings image. The layout is internal and is not given (R179); the model's order is that of
Table 10-1, each record as R171 encodes it. Assumption log 9. -/
def imageBytes (w : Settings) (generation : Nat) : List Byte :=
  w.channels.toList.flatMap encodeChannel ++ w.zones.toList.flatMap encodeZone ++ w.links.toList.flatMap encodeLink
    ++ w.breakers.toList.flatMap encodeBreaker ++ w.ports.toList.flatMap encodePort ++ flag1 w.fast ++ num2 generation

end Sys2Proof.Machine
end

