-- ==== Sys2Proof/Machine/State.lean ====
section
/-! DEFINITION. The state of the part, its faults and refusals, and the state after power-on reset. -/

namespace Sys2Proof.Machine

open Sys2Proof

/-- Why a command cannot be taken at all. The part has no fault of its own that stops it (log 19). -/
inductive Fault where
  /-- Raised by SAMPLE_ARRIVAL with a sample above 4095 LU, which a 12-bit conversion cannot give (R5). Safe. -/
  | sampleOutOfRange
  /-- Raised by TRANSACTION_END with more than 7 bits of a partial byte (R159). Safe. -/
  | partialByteOutOfRange
  deriving DecidableEq, Repr

/-- Why the model gives no meaning. -/
inductive Refusal where
  /-- Raised by exec's arm of a command that has no meaning yet. Safe. No arm does so. -/
  | notModelled (mnemonic : String)
  deriving DecidableEq, Repr

/-- Unit mode (Table 10-4). -/
inductive UnitMode where
  | reset
  | loading
  | protecting
  | backstop
  deriving DecidableEq, Repr

/-! ### Light channels -/

/-- Channel states (Table 1-3). -/
inductive ChannelPhase where
  | off
  | warmup
  | quiet
  | pickup
  | confirmed
  | testing
  | faulted
  deriving DecidableEq, Repr

/-- Fault cause of a channel. -/
inductive FaultCause where
  | line
  | optical
  deriving DecidableEq, Repr

/-- Verdict of a test (Tables 7-3, 7-4). -/
inductive Verdict where
  | pass
  | weak
  | fail
  | stuck
  | learned
  deriving DecidableEq, Repr

/-- Last test result of a channel (Table 1-2). -/
structure LastTest where
  verdict : Verdict
  response : Nat
  time : Stamp
  deriving DecidableEq, Repr

/-- Live state of a channel (Table 1-2). `bfp` is b_fp and `count` is c. -/
structure Channel where
  phase : ChannelPhase
  cause : Option FaultCause
  early : Bool
  bfp : Nat
  count : Nat
  pickupTime : Option Stamp
  peak : Nat
  glare : Bool
  warmSum : Nat
  warmCount : Nat
  warmLength : Nat
  nonOkRun : Nat
  okRun : Nat
  lastTest : Option LastTest
  deriving DecidableEq, Repr

/-! ### The map's live inputs -/

/-- Debounced position (R37). `opened` is OPEN. -/
inductive Position where
  | closed
  | opened
  | unknown
  deriving DecidableEq, Repr

/-- Live inputs of a breaker (R36 to R41). A timer holds the running time at which it ends. -/
structure Inputs where
  bpc : Bool
  bpo : Bool
  stability : Option Nat
  position : Position
  positionFault : Bool
  unknownTimer : Option Nat
  current : Bool
  curLine : Bool
  filterTimer : Option Nat
  closedAgainstLockout : Bool
  deriving DecidableEq, Repr

/-! ### Zones and orders -/

/-- Protection state of a zone (section 3.1). -/
inductive Prot where
  | dark
  | lit
  | arc
  | held
  deriving DecidableEq, Repr

/-- Zone live state (Table 3-1) with its hold list (Table 6-1): for each port, the running time at which its entry
expires, if it has one. -/
structure Zone where
  prot : Prot
  confirmed : Marks 24
  litSince : Option Stamp
  alarmSent : Bool
  noSourceSent : Bool
  alarmTimer : Option Nat
  orderSlot : Option SlotId
  holds : Vector (Option Nat) 3
  heldLightSent : Bool
  deriving DecidableEq, Repr

/-- Outcome of a breaker for an order (R60). -/
inductive BreakerOutcome where
  | opened
  | failedThenOpened
  | spent
  deriving DecidableEq, Repr

/-- TMB status (R152). -/
inductive TimeStatus where
  | unset
  | synced
  | freewheel
  deriving DecidableEq, Repr

/-- One entry of an order's breaker list, with the outcome time and open offset that the record keeps (R60, R144). -/
structure Entry where
  breaker : BreakerId
  level : Nat
  outcome : Option BreakerOutcome
  outcomeTime : Option Stamp
  offset : Option Nat
  deriving DecidableEq, Repr

/-- One channel entry of an ARC record (R143); the offset is absent while the record is open (R142). -/
structure ChannelEntry where
  chan : ChanId
  pickup : Option Stamp
  offset : Option Nat
  peak : Nat
  deriving DecidableEq, Repr

/-- An active order (Table 3-3) together with what its open record holds beside it (Table 8-3): `decisionStatus`,
`channels`, `noUpstream`, `timeStep`, and the outcome times and offsets of the entries. -/
structure Order where
  zones : List ZoneId
  span : Marks 12
  level : Nat
  entries : List Entry
  ut : Marks 4
  decision : Stamp
  source : Option BreakerId
  resolution : Option Stamp
  closeTimer : Option Nat
  escLimit : Bool
  supplyLow : Bool
  decisionStatus : TimeStatus
  channels : List ChannelEntry
  noUpstream : Marks 8
  timeStep : Bool
  deriving DecidableEq, Repr

/-- Trip states (Table 3-5). -/
inductive TripPhase where
  | idle
  | driving
  | holding
  | openDone
  | failed
  | spent
  deriving DecidableEq, Repr

/-- Breaker trip record (Table 3-4). -/
structure Trip where
  phase : TripPhase
  demands : Marks 12
  bfTimer : Option Nat
  minTimer : Option Nat
  ceilTimer : Option Nat
  failed : Bool
  deriving DecidableEq, Repr

/-- Minimum timer of a UT line (Table 4-4). -/
inductive MinimumTimer where
  | stopped
  | running (until_ : Nat)
  | runOut
  deriving DecidableEq, Repr

/-- UT line state (Table 4-4). -/
structure UtLine where
  asserted : Bool
  claims : Marks 12
  since : Option Stamp
  minimum : MinimumTimer
  deriving DecidableEq, Repr

/-! ### Lockouts -/

/-- State of the lockout store (Table 5-1). -/
inductive LockoutStore where
  | idle
  | updating
  | updatingAgain
  deriving DecidableEq, Repr

/-- The lockout word (R96). -/
structure LockoutWord where
  marks : Marks 8
  complement : Marks 8
  marker : Bool
  deriving DecidableEq, Repr

/-- Lockout unit state (Table 5-1). A set mark is LOCKED. `abandonedAt` is the model's own: the running time at which the
last abandoned update was abandoned, whose completion does not follow (R100; log 39). -/
structure Lockout where
  marks : Marks 8
  store : LockoutStore
  snapshot : Option (Marks 8)
  timer : Option Nat
  fault : Bool
  word : LockoutWord
  abandonedAt : Option Nat
  deriving DecidableEq, Repr

/-! ### Test engine -/

/-- Batch state (Table 7-1). -/
inductive BatchState where
  | idle
  | gathering
  | running
  | suspended
  deriving DecidableEq, Repr

/-- What a batch has found for a channel (Tables 7-1, 7-3). -/
inductive TestResult where
  | none
  | pending
  | skippedOff
  | skippedLine
  | skippedWarmup
  | skippedBusy
  | skippedSole
  | withdrawn
  | verdict (v : Verdict)
  deriving DecidableEq, Repr

/-- Step of the current channel's test. -/
inductive TestStep where
  | emit
  | darken
  deriving DecidableEq, Repr

/-- Why the batch is suspended. -/
inductive SuspendCause where
  | request
  | light
  deriving DecidableEq, Repr

/-- Batch record (Table 7-1). `windowLimit` is the running time 50 ms after the gathering start (R119). -/
structure Batch where
  state : BatchState
  selected : Marks 24
  learn : Bool
  results : Vector TestResult 24
  current : Option ChanId
  step : Option TestStep
  settleTimer : Option Nat
  emitSum : Nat
  emitCount : Nat
  darkenTimer : Option Nat
  darkenCount : Nat
  cause : Option SuspendCause
  quietTimer : Option Nat
  gatherStart : Option Stamp
  windowExpiry : Option Nat
  windowLimit : Option Nat
  deriving DecidableEq, Repr

/-! ### Records and time -/

/-- The fields of an ARC record (Table 8-3). -/
structure ArcRecord where
  slot : SlotId
  zones : List ZoneId
  span : Marks 12
  level : Nat
  decision : Stamp
  decisionStatus : TimeStatus
  source : Option BreakerId
  resolution : Option Stamp
  channels : List ChannelEntry
  origin : Option ChanId
  breakers : List Entry
  ut : Marks 4
  noUpstream : Marks 8
  escLimit : Bool
  supplyLow : Bool
  timeStep : Bool
  deriving DecidableEq, Repr

/-- The fields of each kind of record (Table 8-2). -/
inductive RecordBody where
  | arc (r : ArcRecord)
  | noSource (zone : ZoneId) (origin : Option ChanId) (channels : Marks 24)
  | lightAlarm (zone : ZoneId) (origin : Option ChanId) (litSince : Option Stamp)
  | heldLight (zone : ZoneId) (chan : ChanId)
  | channelFault (chan : ChanId) (cause : FaultCause) (verdict : Option Verdict)
  | holdExpired (zone : ZoneId) (port : PortId)
  | timeStep (oldSec oldUs newSec : Nat)
  deriving DecidableEq, Repr

/-- A sealed record (Table 8-1). -/
structure SealedRecord where
  seq : Nat
  time : Stamp
  status : TimeStatus
  body : RecordBody
  deriving DecidableEq, Repr

/-- Time base state (Table 8-5). -/
structure TimeBase where
  seconds : Nat
  micros : Nat
  status : TimeStatus
  pendingSeconds : Option Nat
  applied : Bool
  offWindow : Bool
  freewheel : Option Nat
  deriving DecidableEq, Repr

/-! ### Ports -/

/-- Result codes (Table 9-2b). -/
inductive ResultCode where
  | done
  | doneClamped
  | doneLost
  | busy
  | notHeld
  | notOwner
  | state
  | item
  | value
  | mode
  | empty
  deriving DecidableEq, Repr

/-- A request as taken from its frame: kind, tag and data bytes 0 to 20 (Table 9-3). -/
structure Request where
  kind : Byte
  tag : Byte
  data : List Byte
  deriving DecidableEq, Repr

/-- The answer of a request: result code and response data (bytes past the list are 0, R168). -/
structure Answer where
  code : ResultCode
  data : List Byte
  deriving DecidableEq, Repr

/-- A port's slot (Table 9-1). -/
inductive Slot where
  | empty
  | queued (r : Request)
  | executing (r : Request)
  | answered (r : Request) (a : Answer)
  deriving DecidableEq, Repr

/-- The frame fixed at a transaction's start (R161). A STATUS frame keeps which flags it showed set (R162). -/
inductive OutFrame where
  | response (bytes : List Byte)
  | status (frameError dropped : Bool) (bytes : List Byte)
  deriving DecidableEq, Repr

/-- One port: select line, frame being sent, slot and flags (Table 9-1), the test engine's toggles (R138), and the record
unit's cursor and LOST flag (R148). -/
structure Port where
  selected : Bool
  outgoing : Option OutFrame
  slot : Slot
  frameError : Bool
  dropped : Bool
  skip : Nat
  run : Bool
  halt : Bool
  cursor : Nat
  lost : Bool
  deriving DecidableEq, Repr

/-! ### Settings unit and supervision -/

/-- State of the settings store (Table 10-2). -/
inductive SettingsStore where
  | idle
  | writing
  deriving DecidableEq, Repr

/-- What the settings store holds (R179, R181). -/
structure StoredImage where
  erased : Bool
  settings : Settings
  generation : Nat
  crc : BitVec 16
  deriving DecidableEq, Repr

/-- Settings unit state (Table 10-2). -/
structure SettingsUnit where
  working : Settings
  store : SettingsStore
  snapshot : Option (Settings × Nat)
  timer : Option Nat
  failed : Bool
  generation : Nat
  dirty : Bool
  writtenSince : Bool
  image : StoredImage
  deriving DecidableEq, Repr

/-- Trip-supply state (Table 11-1). -/
inductive SupplyState where
  | unknown
  | ok
  | low
  deriving DecidableEq, Repr

/-- Supervision state (Table 11-1). `lastReading` is GOOD (`true`) or LOW. -/
structure Supervision where
  supply : SupplyState
  lastReading : Option Bool
  deriving DecidableEq, Repr

/-- The state of the part, and the model's own fields `pending` (the commands that wait), `now` (running time in µs),
`ties` (the counter of free choices), `execLimit` and `loadLimit` (the ends of the 20 µs of R165 and the 5 ms of R182). -/
structure State where
  pending : List Instr
  powered : Bool
  mode : UnitMode
  now : Nat
  ties : Nat
  channels : Vector Channel 24
  inputs : Vector Inputs 8
  zones : Vector Zone 12
  orders : Vector (Option Order) 12
  trips : Vector Trip 8
  ut : Vector UtLine 4
  lockout : Lockout
  batch : Batch
  ring : List SealedRecord
  nextSeq : Nat
  time : TimeBase
  ports : Vector Port 3
  sets : SettingsUnit
  sup : Supervision
  execLimit : Option Nat
  loadLimit : Option Nat
  deriving DecidableEq, Repr

/-! ### Values in RESET -/

/-- A channel in OFF, with the values of Table 1-2. -/
def Channel.atReset : Channel :=
  { phase := .off, cause := none, early := false, bfp := 0, count := 0, pickupTime := none, peak := 0, glare := false,
    warmSum := 0, warmCount := 0, warmLength := 256, nonOkRun := 0, okRun := 0, lastTest := none }

/-- Live inputs with the values of R38 and the line levels `bpc`, `bpo` and `cur`. -/
def Inputs.atReset (bpc bpo cur : Bool) : Inputs :=
  { bpc := bpc, bpo := bpo, stability := none, position := .unknown, positionFault := false, unknownTimer := none,
    current := false, curLine := cur, filterTimer := none, closedAgainstLockout := false }

/-- A zone as R48 and R105 start it. -/
def Zone.atReset : Zone :=
  { prot := .dark, confirmed := 0, litSince := none, alarmSent := false, noSourceSent := false, alarmTimer := none,
    orderSlot := none, holds := Vector.replicate 3 none, heldLightSent := false }

/-- A trip record as R62 starts it. -/
def Trip.atReset : Trip :=
  { phase := .idle, demands := 0, bfTimer := none, minTimer := none, ceilTimer := none, failed := false }

/-- A UT line as Table 4-4 starts it. -/
def UtLine.atReset : UtLine := { asserted := false, claims := 0, since := none, minimum := .stopped }

/-- The batch record as R118 starts it. -/
def Batch.atReset : Batch :=
  { state := .idle, selected := 0, learn := false, results := Vector.replicate 24 .none, current := none, step := none,
    settleTimer := none, emitSum := 0, emitCount := 0, darkenTimer := none, darkenCount := 0, cause := none,
    quietTimer := none, gatherStart := none, windowExpiry := none, windowLimit := none }

/-- The time base after either reset (Table 8-5). -/
def TimeBase.atReset : TimeBase :=
  { seconds := 0, micros := 0, status := .unset, pendingSeconds := none, applied := false, offWindow := false,
    freewheel := none }

/-- A port after a reset (R164, R118, R151) with its select line at `selected` and its cursor at `cursor`. -/
def Port.atReset (selected : Bool) (cursor : Nat) : Port :=
  { selected := selected, outgoing := none, slot := .empty, frameError := false, dropped := false, skip := 0, run := false,
    halt := false, cursor := cursor, lost := false }

/-- The lockout unit after a reset, with the word `w` (R102). The lockout set is not held in RESET (R101): the value here
is read by nothing until the load (log 8). -/
def Lockout.atReset (w : LockoutWord) : Lockout :=
  { marks := BitVec.allOnes 8, store := .idle, snapshot := none, timer := none, fault := false, word := w,
    abandonedAt := none }

/-- The settings unit after a reset, with the store's image `i`. The working settings are lost (R186): the value here is
read by nothing until the load (log 8). -/
def SettingsUnit.atReset (i : StoredImage) : SettingsUnit :=
  { working := backstopDefaults, store := .idle, snapshot := none, timer := none, failed := false, generation := 0,
    dirty := false, writtenSince := false, image := i }

/-- Supervision after a reset (R187). -/
def Supervision.atReset : Supervision := { supply := .unknown, lastReading := none }

/-- The image with which the part leaves the factory (R181). -/
def factoryImage : StoredImage :=
  { erased := false, settings := backstopDefaults, generation := 0, crc := crc16 (imageBytes backstopDefaults 0) }

/-- A lockout word that is not valid: how the part leaves the factory is not given (log 2). -/
def factoryWord : LockoutWord := { marks := 0, complement := 0, marker := false }

/-- The part right after power-on reset, in RESET (R182), as it left the factory, with no command waiting. -/
def State.reset : State :=
  { pending := []
    powered := true
    mode := .reset
    now := 0
    ties := 0
    channels := Vector.replicate 24 Channel.atReset
    inputs := Vector.replicate 8 (Inputs.atReset false false false)
    zones := Vector.replicate 12 Zone.atReset
    orders := Vector.replicate 12 none
    trips := Vector.replicate 8 Trip.atReset
    ut := Vector.replicate 4 UtLine.atReset
    lockout := Lockout.atReset factoryWord
    batch := Batch.atReset
    ring := []
    nextSeq := 0
    time := TimeBase.atReset
    ports := Vector.replicate 3 (Port.atReset false 0)
    sets := SettingsUnit.atReset factoryImage
    sup := Supervision.atReset
    execLimit := none
    loadLimit := none }

end Sys2Proof.Machine
end

