-- ==== Sys2Proof/Machine/Channel.lean ====
section
/-! DEFINITION. One channel's arithmetic and transitions (chapter 1), as functions of its record and live state. Reports
to the zones are made by `putChannel` in Machine/Reports.lean, from the change of the channel. -/

namespace Sys2Proof.Machine

open Sys2Proof

/-- b_int = floor(b_fp / 16). -/
def Channel.bInt (c : Channel) : Nat := c.bfp / 16

/-- A channel is confirmed while it is in CONFIRMED, with either value of the early flag (R23). -/
def Channel.isConfirmed (c : Channel) : Bool := c.phase == .confirmed

/-- The states in which a channel can cover its zones (Table 1-3, R23). -/
def Channel.covers (c : Channel) : Bool := c.phase == .quiet || c.phase == .pickup || c.phase == .confirmed

/-- The states in which a channel has a threshold (Table 1-3, R10). -/
def Channel.hasThreshold (c : Channel) : Bool :=
  match c.phase with
  | .quiet | .pickup | .testing => true
  | .confirmed => !c.early
  | .faulted => c.cause == some .optical
  | .off | .warmup => false

/-- T = max(T_a, min(4094, floor(b_int × g / 8) + m)) (R10). -/
def threshold (r : ChannelRecord) (c : Channel) : Nat := max r.ta (min 4094 (c.bInt * r.g / 8 + r.m))

/-- D = T − floor(T / 8) (R11). -/
def dropLevel (t : Nat) : Nat := t - t / 8

/-- The level above which a channel confirmed in warm-up stays confirmed (R21). -/
def earlyDropLevel : Nat := 3583

/-- The glare flag that a background write gives (R13). -/
def glareOf (bfp : Nat) : Bool := decide (3000 ≤ bfp / 16)

/-- Warm-up length latched at an entry (R18). -/
def warmupLength (fast : Bool) : Nat := if fast then 16 else 256

/-- A fresh entry to WARMUP (R18); the fault cause is left by whoever enters. -/
def Channel.freshWarmup (fast : Bool) (c : Channel) : Channel :=
  { c with
    phase := .warmup, early := false, bfp := 0, count := 0, glare := false, warmSum := 0, warmCount := 0,
    warmLength := warmupLength fast }

/-- Back to QUIET with c = 0; background, pickup time and peak kept. -/
def Channel.toQuiet (c : Channel) : Channel := { c with phase := .quiet, early := false, count := 0 }

/-- b_fp + floor(d / 2^k) with d = 16 × s − b_fp, floor toward minus infinity (R12). -/
def filtered (k s bfp : Nat) : Nat := ((bfp : Int) + ((16 * s : Int) - bfp) / (2 ^ k : Nat)).toNat

/-- An ambient sample in QUIET (R12, R13). -/
def Channel.ambient (r : ChannelRecord) (s : Nat) (c : Channel) : Channel :=
  let b := filtered r.k s c.bfp
  { c with bfp := b, glare := glareOf b, count := 0 }

/-- Light in QUIET: the start of an episode, in state `p` (R14, R17). -/
def Channel.startEpisode (p : ChannelPhase) (t : Stamp) (s : Nat) (c : Channel) : Channel :=
  { c with phase := p, early := false, count := 1, pickupTime := some t, peak := s }

/-- An OK sample in QUIET (R14). -/
def Channel.quietSample (r : ChannelRecord) (t : Stamp) (s : Nat) (c : Channel) : Channel :=
  if s ≤ threshold r c then c.ambient r s
  else if s = 4095 ∨ r.n = 1 then c.startEpisode .confirmed t s
  else c.startEpisode .pickup t s

/-- An OK sample in PICKUP (R15). -/
def Channel.pickupSample (r : ChannelRecord) (s : Nat) (c : Channel) : Channel :=
  if s ≤ threshold r c then c.toQuiet
  else if s = 4095 then { c with phase := .confirmed, early := false, count := c.count + 1, peak := 4095 }
  else
    let c' := { c with count := c.count + 1, peak := max c.peak s }
    if c'.count = r.n then { c' with phase := .confirmed, early := false } else c'

/-- An OK sample in CONFIRMED with the early flag no (R16). -/
def Channel.confirmedSample (r : ChannelRecord) (s : Nat) (c : Channel) : Channel :=
  let c' := { c with peak := max c.peak s }
  if s < dropLevel (threshold r c) then c'.toQuiet else c'

/-- An OK sample in CONFIRMED with the early flag yes (R21). -/
def Channel.earlySample (fast : Bool) (s : Nat) (c : Channel) : Channel :=
  if earlyDropLevel < s then { c with peak := max c.peak s }
  else { c with peak := max c.peak s }.freshWarmup fast

/-- An OK sample in WARMUP (R19, R20). -/
def Channel.warmupSample (t : Stamp) (s : Nat) (c : Channel) : Channel :=
  if s = 4095 then
    { c with
      phase := .confirmed, early := true, count := 1, pickupTime := some t, peak := 4095, warmSum := 0, warmCount := 0 }
  else
    let sum := c.warmSum + s
    let cnt := c.warmCount + 1
    let c' := { c with warmSum := sum, warmCount := cnt }
    if cnt = c.warmLength then
      let b := sum * 16 / c.warmLength
      { c' with phase := .quiet, bfp := b, glare := glareOf b, count := 0 }
    else c'

/-- What an OK sample does to the detection state (R5, R9, R14 to R16, R19 to R21, R26). -/
def Channel.okDetect (r : ChannelRecord) (fast : Bool) (t : Stamp) (s : Nat) (c : Channel) : Channel :=
  match c.phase with
  | .off | .testing | .faulted => c
  | .warmup => c.warmupSample t s
  | .quiet => c.quietSample r t s
  | .pickup => c.pickupSample r s
  | .confirmed => if c.early then c.earlySample fast s else c.confirmedSample r s

/-- In FAULTED(LINE) (R8). -/
def Channel.lineFaulted (c : Channel) : Bool := c.phase == .faulted && c.cause == some .line

/-- The line run counts of an OK sample (R7, R8, R9). -/
def Channel.okRuns (c : Channel) : Channel :=
  if c.phase = .off then c
  else if c.lineFaulted then { c with okRun := c.okRun + 1 }
  else { c with nonOkRun := 0 }

/-- The OK sample that completes 20,000 in FAULTED(LINE) (R8). -/
def okRunLimit : Nat := 20000

/-- Recovery from a line fault (R8). -/
def Channel.recover (fast : Bool) (c : Channel) : Channel :=
  if c.lineFaulted && c.okRun == okRunLimit then { c with cause := none }.freshWarmup fast else c

/-- An OK sample taken whole: the line status first, then the detection (R5, R8). -/
def Channel.okSample (r : ChannelRecord) (fast : Bool) (t : Stamp) (s : Nat) (c : Channel) : Channel :=
  if c.lineFaulted then c.okRuns.recover fast else c.okRuns.okDetect r fast t s

/-- What a non-OK sample does to the detection state (Table 1-4). -/
def Channel.nonOkDetect (fast : Bool) (c : Channel) : Channel :=
  match c.phase with
  | .off | .testing | .faulted => c
  | .warmup => c.freshWarmup fast
  | .quiet => { c with count := 0 }
  | .pickup => c.toQuiet
  | .confirmed => if c.early then c.freshWarmup fast else c.toQuiet

/-- The length of a run of non-OK samples that faults the line (R7). -/
def nonOkRunLimit : Nat := 200

/-- Entry to FAULTED(LINE) (R7). -/
def Channel.faultLine (c : Channel) : Channel :=
  { c with phase := .faulted, cause := some .line, early := false, count := 0, nonOkRun := 0, okRun := 0 }

/-- The line run counts of a non-OK sample, with the entry to FAULTED(LINE) at the 200th (R7, R8, R9). -/
def Channel.nonOkRuns (c : Channel) : Channel :=
  if c.phase = .off then c
  else if c.lineFaulted then { c with okRun := 0 }
  else if c.nonOkRun + 1 = nonOkRunLimit then c.faultLine
  else { c with nonOkRun := c.nonOkRun + 1 }

/-- A non-OK sample taken whole (R6, R7). -/
def Channel.nonOkSample (fast : Bool) (c : Channel) : Channel := (c.nonOkDetect fast).nonOkRuns

/-- The channel has just entered FAULTED(LINE). -/
def Channel.enteredLineFault (before after : Channel) : Bool := !before.lineFaulted && after.lineFaulted

/-- Restart by an accepted settings write: `inUse` is the field after the write (R3). -/
def Channel.restart (inUse fast : Bool) (c : Channel) : Channel :=
  if inUse then { c with cause := none }.freshWarmup fast
  else
    { c with
      phase := .off, cause := none, early := false, bfp := 0, count := 0, pickupTime := none, peak := 0, glare := false,
      nonOkRun := 0, okRun := 0 }

/-- Count clear (R24). -/
def Channel.countClear (c : Channel) : Channel :=
  if c.phase = .pickup ∨ c.phase = .confirmed then { c with count := 0 } else c

/-- Forced quiet (R25). -/
def Channel.forcedQuiet (fast : Bool) (c : Channel) : Channel :=
  match c.phase with
  | .pickup => c.toQuiet
  | .confirmed => if c.early then c.freshWarmup fast else c.toQuiet
  | .off | .warmup | .quiet | .testing | .faulted => c

/-- Entry to TESTING (R26): the fault cause is kept. -/
def Channel.enterTesting (c : Channel) : Channel := { c with phase := .testing, early := false, count := 0 }

/-- Release from TESTING to QUIET, or to WARMUP for a channel whose fault cause is OPTICAL (R27). -/
def Channel.release (fast : Bool) (c : Channel) : Channel :=
  if c.cause = some .optical then { c with cause := none }.freshWarmup fast else c.toQuiet

/-- Release from TESTING to FAULTED(OPTICAL) (R27). -/
def Channel.releaseFaulted (c : Channel) : Channel :=
  { c with phase := .faulted, cause := some .optical, early := false, count := 0 }

/-- The values at the entry to PROTECTING or BACKSTOP (Table 1-2, R4). -/
def Channel.atEntry (r : ChannelRecord) (fast : Bool) : Channel :=
  { Channel.atReset with
    phase := if r.inUse then .warmup else .off
    warmLength := warmupLength fast }

end Sys2Proof.Machine
end

