-- ==== Sys2Proof/Machine/Ops.lean ====
section
/-! DEFINITION. Reading and updating the parts of the state, time stamps, the settings in force, sealing a record
(R147), and the lockout set with its store (R97, R98). -/

namespace Sys2Proof.Machine

open Sys2Proof

/-! ### Parts of the state -/

def State.chan (s : State) (c : ChanId) : Channel := look s.channels c
def State.input (s : State) (b : BreakerId) : Inputs := look s.inputs b
def State.zone (s : State) (z : ZoneId) : Zone := look s.zones z
def State.order (s : State) (o : SlotId) : Option Order := look s.orders o
def State.trip (s : State) (b : BreakerId) : Trip := look s.trips b
def State.utLine (s : State) (u : UtId) : UtLine := look s.ut u
def State.port (s : State) (p : PortId) : Port := look s.ports p

def State.setChan (s : State) (c : ChanId) (x : Channel) : State := { s with channels := put s.channels c x }
def State.setInput (s : State) (b : BreakerId) (x : Inputs) : State := { s with inputs := put s.inputs b x }
def State.setZone (s : State) (z : ZoneId) (x : Zone) : State := { s with zones := put s.zones z x }
def State.setOrder (s : State) (o : SlotId) (x : Option Order) : State := { s with orders := put s.orders o x }
def State.setTrip (s : State) (b : BreakerId) (x : Trip) : State := { s with trips := put s.trips b x }
def State.setUt (s : State) (u : UtId) (x : UtLine) : State := { s with ut := put s.ut u x }
def State.setPort (s : State) (p : PortId) (x : Port) : State := { s with ports := put s.ports p x }
def State.setBatch (s : State) (x : Batch) : State := { s with batch := x }
def State.setLockout (s : State) (x : Lockout) : State := { s with lockout := x }
def State.setSets (s : State) (x : SettingsUnit) : State := { s with sets := x }
def State.setTime (s : State) (x : TimeBase) : State := { s with time := x }

/-- The state with the commands that wait replaced. -/
def State.setPending (s : State) (q : List Instr) : State := { s with pending := q }

/-! ### Readings -/

/-- The time stamp of an event (R157). -/
def State.stamp (s : State) : Stamp := { sec := s.time.seconds, us := s.time.micros }

/-- PROTECTING or BACKSTOP: the modes in which the blocks act. -/
def State.inService (s : State) : Bool := s.mode == .protecting || s.mode == .backstop

/-- The settings in force (R175): the working settings, or the BACKSTOP defaults in BACKSTOP. -/
def State.inForce (s : State) : Settings := if s.mode = .backstop then backstopDefaults else s.sets.working

def State.chanRec (s : State) (c : ChanId) : ChannelRecord := look s.inForce.channels c
def State.zoneRec (s : State) (z : ZoneId) : ZoneRecord := look s.inForce.zones z
def State.breakerRec (s : State) (b : BreakerId) : BreakerRecord := look s.inForce.breakers b
/-- A port's priority and ceiling (R167). DESIGN CHOICE, unsafe (log 35): a grant made in LOADING, before the load restores
the port records, reads the defaults of Table 9-2a. -/
def State.portRec (s : State) (p : PortId) : PortRecord := look s.inForce.ports p

/-- A port's hold list in port order: the ports that hold the zone, each with its expiry (R105). -/
def Zone.holdList (z : Zone) : List (PortId × Nat) :=
  (ids 3).filterMap (fun p => (look z.holds p).map (fun e => (p, e)))

/-- The zone's hold list is not empty (chapter 6 calls it held). -/
def Zone.hasHold (z : Zone) : Bool := (ids 3).any (fun p => (look z.holds p).isSome)

/-- LIT or ARC: a zone that keeps a batch from running (R120, R134). -/
def Zone.isBright (z : Zone) : Bool := z.prot == .lit || z.prot == .arc

/-- Some zone is LIT or ARC. -/
def State.anyBright (s : State) : Bool := (ids 12).any (fun z => (s.zone z).isBright)

/-- The channel is in use, watches the zone and is in a state that covers it (R23). -/
def State.ableToCover (s : State) (c : ChanId) (z : ZoneId) : Bool :=
  (s.chanRec c).inUse && (s.chanRec c).watches z && (s.chan c).covers

/-- The channels that watch a zone, in ascending number. -/
def State.watchers (s : State) (z : ZoneId) : List ChanId := (ids 24).filter (fun c => (s.chanRec c).watches z)

/-! ### Timers, in µs of running time -/

/-- Milliseconds. -/
def ms (x : Nat) : Nat := x * 1000

def stabilityTime : Nat := ms 3
def filterTime : Nat := 100
def unknownTime : Nat := ms 1000
def lightAlarmTime : Nat := ms 2000
def closeTime : Nat := ms 5000
def minimumPulseTime : Nat := ms 100
def pulseCeilingTime : Nat := ms 2000
def utMinimumTime : Nat := ms 200
def lockoutUpdateTime : Nat := ms 60
def gatherStep : Nat := ms 5
def gatherLimit : Nat := ms 50
def settleTime : Nat := ms 2
def darkenTime : Nat := ms 20
def quietTime : Nat := ms 1000
def freewheelTime : Nat := ms 1500
def commitTime : Nat := ms 800
def executionTime : Nat := 20
def loadTime : Nat := ms 5
def minuteTime : Nat := 60000000

/-- The end of a timer of length `d` started now. -/
def State.after (s : State) (d : Nat) : Nat := s.now + d

/-- The timer runs and its end has come. The expiries that the spec gives beside an event which moves or restarts the timer
are tested so (R100, R114, R120; log 4). -/
def State.ranOut (s : State) (t : Option Nat) : Bool := t.any (fun e => decide (e ≤ s.now))

/-! ### Records -/

/-- The oldest record is dropped and each cursor on it moves to the next number, with the port's LOST flag set (R148). -/
def State.dropOldest (s : State) : State :=
  match s.ring with
  | [] => s
  | r :: rest =>
    { s with
      ring := rest
      ports := s.ports.map (fun p =>
        if p.cursor = r.seq then { p with cursor := (r.seq + 1) % 65536, lost := true } else p) }

/-- How many records the ring holds at most (R147). -/
def ringSize : Nat := 16

/-- Seal a record: the four steps of R147, with the common fields of Table 8-1 (R140). -/
def State.seal (s : State) (body : RecordBody) : State :=
  let r : SealedRecord := { seq := s.nextSeq, time := s.stamp, status := s.time.status, body := body }
  let s1 := { s with nextSeq := (s.nextSeq + 1) % 65536 }
  let s2 := if ringSize ≤ s1.ring.length then s1.dropOldest else s1
  { s2 with ring := s2.ring ++ [r] }

/-- The unfetched count of a port (R148). -/
def State.unfetched (s : State) (p : PortId) : Nat := (s.nextSeq + 65536 - (s.port p).cursor) % 65536

/-- The earlier of two candidates for the origin: the earlier pickup time, a tie to the lower channel number (R141). An
absent pickup time counts as later than any other. -/
def earlierOf (a b : ChanId × Option Stamp) : ChanId × Option Stamp :=
  match a.2, b.2 with
  | some ta, some tb =>
    if ta.micros < tb.micros then a
    else if tb.micros < ta.micros then b
    else if a.1 ≤ b.1 then a else b
  | some _, none => a
  | none, some _ => b
  | none, none => if a.1 ≤ b.1 then a else b

/-- The origin channel of a list of channels with their pickup times (R141). -/
def originOf : List (ChanId × Option Stamp) → Option ChanId
  | [] => none
  | x :: xs => some (xs.foldl earlierOf x).1

/-- The origin channel of a zone's confirmed set (R52, R57). -/
def State.zoneOrigin (s : State) (z : ZoneId) : Option ChanId :=
  originOf ((s.zone z).confirmed.members.map (fun c => (c, (s.chan c).pickupTime)))

/-! ### The lockout set and its store -/

/-- Start an update: the marker becomes invalid first, and the snapshot is the set as it stands (R96, R97). -/
def State.startUpdate (s : State) : State :=
  s.setLockout { s.lockout with
    store := .updating
    snapshot := some s.lockout.marks
    timer := some (s.after lockoutUpdateTime)
    word := { s.lockout.word with marker := false } }

/-- A change of the lockout set handed to the store (R97, R98). -/
def State.lockoutChanged (s : State) : State :=
  match s.lockout.store with
  | .idle => s.startUpdate
  | .updating => s.setLockout { s.lockout with store := .updatingAgain }
  | .updatingAgain => s

/-- Breaker `b` is LOCKED (R90). -/
def State.locked (s : State) (b : BreakerId) : Bool := s.lockout.marks.has b

/-- The breaker becomes LOCKED (R91); a breaker already LOCKED is no change (R90). -/
def State.lock (s : State) (b : BreakerId) : State :=
  if s.locked b then s else (s.setLockout { s.lockout with marks := s.lockout.marks.add b }).lockoutChanged

/-- The breaker becomes UNLOCKED (R94). -/
def State.unlock (s : State) (b : BreakerId) : State :=
  if s.locked b then (s.setLockout { s.lockout with marks := s.lockout.marks.drop b }).lockoutChanged else s

/-- The lockout word is valid (R96). -/
def LockoutWord.valid (w : LockoutWord) : Bool := w.marker && w.complement == ~~~ w.marks

/-! ### Settings marked changed -/

/-- The working settings have changed (R178 step 3, R128). -/
def SettingsUnit.touched (u : SettingsUnit) : SettingsUnit :=
  { u with dirty := true, writtenSince := u.writtenSince || u.store == .writing }

end Sys2Proof.Machine
end

