-- ==== Sys2Proof/Machine/Map.lean ====
section
/-! DEFINITION. Islands, boundaries and trip sets (section 2.6). -/

namespace Sys2Proof.Machine

open Sys2Proof

/-- One pass over the link slots: a filled slot that joins two zones in use adds both when one of them is in the set. -/
def growOnce (w : Settings) (z : Marks 12) : Marks 12 :=
  w.links.toList.foldl (fun m l =>
    match l with
    | none => m
    | some (a, b) =>
      if (look w.zones a).inUse && (look w.zones b).inUse && (m.has a || m.has b) then (m.add a).add b else m) z

/-- `n` passes. -/
def growTimes (w : Settings) : Nat → Marks 12 → Marks 12
  | 0, m => m
  | n + 1, m => growTimes w n (growOnce w m)

/-- The island of a zone: what links reach from it; empty for a zone not in use (R43). Each pass that adds anything adds
a zone, so eleven passes reach every zone. -/
def islandIn (w : Settings) (z : ZoneId) : Marks 12 :=
  if (look w.zones z).inUse then growTimes w 11 (Marks.add 0 z) else 0

def State.island (s : State) (z : ZoneId) : Marks 12 := islandIn s.inForce z

/-- The zone on side A lies in the set; the external source lies in none (R44). -/
def Side.isIn (a : Side) (m : Marks 12) : Bool :=
  match a with
  | .external => false
  | .zone z => m.has z

/-- The breaker is in use and has exactly one side in the set (R44). -/
def BreakerRecord.onBoundary (r : BreakerRecord) (m : Marks 12) : Bool :=
  r.inUse &&
    match r.role with
    | .incomer => m.has r.sideB
    | .coupler => r.sideA.isIn m != m.has r.sideB

/-- The boundary of a set of zones, in ascending breaker number (R44, R45). -/
def State.boundary (s : State) (m : Marks 12) : List BreakerId :=
  (ids 8).filter (fun b => (s.breakerRec b).onBoundary m)

/-- The position is OPEN. -/
def State.isOpen (s : State) (b : BreakerId) : Bool := (s.input b).position == .opened

/-- The boundary without the breakers whose position is OPEN (R45). -/
def State.tripSet (s : State) (m : Marks 12) : List BreakerId := (s.boundary m).filter (fun b => !s.isOpen b)

/-- The current condition of an in-use zone (R54). -/
def State.currentCondition (s : State) (z : ZoneId) : Bool :=
  let cc := (s.tripSet (s.island z)).filter (fun b => (s.breakerRec b).ccUsed)
  (s.zoneRec z).lightOnly || cc.isEmpty || cc.any (fun b => (s.input b).current)

/-- The opened condition (R64). -/
def State.hasOpened (s : State) (b : BreakerId) : Bool :=
  s.isOpen b && (!(s.breakerRec b).ccUsed || !(s.input b).current)

end Sys2Proof.Machine
end

