-- ==== Sys2Proof/Machine/Suspend.lean ====
section
/-! DEFINITION. The test engine's suspension by light or by request (R131, R133), and the quiet timer (R134). A channel
under test is not confirmed, so nothing here makes a report to a zone. -/

namespace Sys2Proof.Machine

open Sys2Proof

/-- The batch without its current channel, step, counts and timers (R129, R130, R133). DESIGN CHOICE (log 37): the emit sum
is set to 0 with them; the rules do not name it, R124 sets it to 0 at the next test, and nothing reads it between. -/
def Batch.cleared (b : Batch) : Batch :=
  { b with
    current := none, step := none, settleTimer := none, emitSum := 0, emitCount := 0, darkenTimer := none,
    darkenCount := 0 }

/-- Release the current channel without a verdict (R133, R27). -/
def State.releaseCurrent (s : State) : State :=
  match s.batch.current with
  | none => s
  | some c => s.setChan c ((s.chan c).release s.inForce.fast)

/-- The batch is suspended with a cause (R133). -/
def State.suspend (s : State) (cause : SuspendCause) : State :=
  let s1 := s.releaseCurrent
  s1.setBatch { s1.batch.cleared with
    state := .suspended, cause := some cause, gatherStart := none, windowExpiry := none, windowLimit := none }

/-- The zone is a zone of the current channel (the exception of R131). -/
def State.isTestZone (s : State) (z : ZoneId) : Bool :=
  match s.batch.current with
  | none => false
  | some c => (s.chanRec c).watches z

/-- The test engine is told that a zone entered LIT (R131). -/
def State.noteLit (s : State) (z : ZoneId) : State :=
  match s.batch.state with
  | .gathering => s.suspend .light
  | .running => if s.isTestZone z then s else s.suspend .light
  | .idle | .suspended => s

/-- The test engine is told that a zone entered ARC (R131). -/
def State.noteArc (s : State) : State :=
  match s.batch.state with
  | .gathering | .running => s.suspend .light
  | .idle | .suspended => s

/-- The quiet timer after an event: it runs exactly while the batch is suspended by light and no zone is LIT or ARC, and
it starts afresh at 1 s (R134). -/
def State.settleQuiet (s : State) : State :=
  if s.batch.state = .suspended ∧ s.batch.cause = some .light then
    if s.anyBright then s.setBatch { s.batch with quietTimer := none }
    else if s.batch.quietTimer.isNone then s.setBatch { s.batch with quietTimer := some (s.after quietTime) }
    else s
  else s

end Sys2Proof.Machine
end

