-- ==== Sys2Proof/Machine/Orders.lean ====
section
/-! DEFINITION. Zones and orders: entry to a protection state, outcomes, resolution and close, demands, escalation, and
the evaluation of a lit zone (chapters 3, 4 and section 8.2). -/

namespace Sys2Proof.Machine

open Sys2Proof

/-! ### Zone protection states -/

/-- A zone without a lit period and without an order (R51, R53, R71). -/
def Zone.unlit (z : Zone) (p : Prot) : Zone :=
  { z with prot := p, litSince := none, alarmSent := false, noSourceSent := false, alarmTimer := none, orderSlot := none }

/-- Entry to DARK. -/
def State.enterDark (s : State) (z : ZoneId) : State := s.setZone z ((s.zone z).unlit .dark)

/-- Entry to LIT: a lit period begins (R50, R71), and the test engine is told (R131). -/
def State.enterLit (s : State) (z : ZoneId) : State :=
  (s.setZone z { (s.zone z).unlit .lit with
    litSince := some s.stamp, alarmTimer := some (s.after lightAlarmTime) }).noteLit z

/-- Count clear on every channel that watches the zone (R24, R109). -/
def State.countClear (s : State) (z : ZoneId) : State :=
  (s.watchers z).foldl (fun s c => s.setChan c (s.chan c).countClear) s

/-- Entry to HELD (R53), with what the hold unit does at it (R109). -/
def State.enterHeld (s : State) (z : ZoneId) : State :=
  (s.setZone z { (s.zone z).unlit .held with heldLightSent := false }).countClear z

/-- Entry to ARC with an order (R58, R59): the lit period goes on and the light-alarm timer stops. -/
def State.enterArc (s : State) (z : ZoneId) (o : SlotId) : State :=
  (s.setZone z { s.zone z with prot := .arc, alarmTimer := none, orderSlot := some o }).noteArc

/-! ### The order table and its records -/

/-- A change of an active order; an empty slot stays empty. -/
def State.modifyOrder (s : State) (o : SlotId) (f : Order → Order) : State :=
  match s.order o with
  | none => s
  | some x => s.setOrder o (some (f x))

/-- The resolution is withdrawn (R69). -/
def Order.withdrawn (x : Order) : Order := { x with resolution := none, closeTimer := none }

/-- The breaker stands in the order's list. -/
def Order.lists (x : Order) (b : BreakerId) : Bool := x.entries.any (fun e => e.breaker == b)

/-- Entries without outcome for breakers of the list `bs` (R60): an order that was resolved loses its resolution (R69). -/
def Order.append (x : Order) (bs : List BreakerId) : Order :=
  if bs.isEmpty then x
  else
    { x.withdrawn with
      entries := x.entries ++ bs.map (fun b =>
        { breaker := b, level := x.level, outcome := none, outcomeTime := none, offset := none }) }

/-- The open offset of an outcome in tenths of a ms, capped (R144). -/
def openOffset (decision outcome : Stamp) : Nat := min 65535 (outcome.since decision / 100)

/-- The outcome of a breaker written in an order, with its time and offset (R60, R144). -/
def Order.withOutcome (x : Order) (b : BreakerId) (v : BreakerOutcome) (t : Stamp) : Order :=
  { x with
    entries := x.entries.map (fun e =>
      if e.breaker = b then
        { e with outcome := some v, outcomeTime := some t, offset := some (openOffset x.decision t) }
      else e) }

/-- The outcome of a breaker cleared back to absent (R60, R144), which withdraws a resolution (R69). -/
def Order.clearOutcome (x : Order) (b : BreakerId) : Order :=
  if x.entries.any (fun e => e.breaker == b && e.outcome.isSome) then
    { x.withdrawn with
      entries := x.entries.map (fun e =>
        if e.breaker = b then { e with outcome := none, outcomeTime := none, offset := none } else e) }
  else x

/-- Channel entries added to an order's open record; a channel that has one gets no second (R143). -/
def State.addChannels (s : State) (x : Order) (cs : List ChanId) : Order :=
  { x with
    channels := cs.foldl (fun l c =>
      if l.any (fun e => e.chan == c) then l
      else l ++ [{ chan := c, pickup := (s.chan c).pickupTime, offset := none, peak := (s.chan c).peak }]) x.channels }

/-- The peaks refreshed: a channel still in the entry's light episode gives its current peak (R143). -/
def State.refreshPeaks (s : State) (es : List ChannelEntry) : List ChannelEntry :=
  es.map (fun e => if (s.chan e.chan).pickupTime = e.pickup then { e with peak := (s.chan e.chan).peak } else e)

/-- A pickup offset from the origin's pickup time, in µs, capped (R146). -/
def pickupOffset (origin pickup : Option Stamp) : Option Nat :=
  match origin, pickup with
  | some a, some b => some (min 65535 (b.since a))
  | _, _ => none

/-- The ARC record of an order as it stands, with peaks refreshed, origin chosen and offsets computed (R146, R150). -/
def State.arcRecord (s : State) (o : SlotId) (x : Order) : ArcRecord :=
  let es := s.refreshPeaks x.channels
  let origin := originOf (es.map (fun e => (e.chan, e.pickup)))
  let first := (es.find? (fun e => some e.chan == origin)).bind (·.pickup)
  { slot := o, zones := x.zones, span := x.span, level := x.level, decision := x.decision,
    decisionStatus := x.decisionStatus, source := x.source, resolution := x.resolution,
    channels := es.map (fun e => { e with offset := pickupOffset first e.pickup }), origin := origin,
    breakers := x.entries, ut := x.ut, noUpstream := x.noUpstream, escLimit := x.escLimit, supplyLow := x.supplyLow,
    timeStep := x.timeStep }

/-! ### Close -/

/-- Release of a UT line (R85). -/
def UtLine.released (u : UtLine) : UtLine := { u with asserted := false, since := none, minimum := .stopped }

/-- An order's claim on a line is withdrawn; the line is released if none is left and its minimum has run out (R85). -/
def State.withdrawClaim (s : State) (o : SlotId) (u : UtId) : State :=
  let x := { s.utLine u with claims := (s.utLine u).claims.drop o }
  s.setUt u (if x.claims = 0 ∧ x.minimum = .runOut then x.released else x)

/-- The order is removed from a breaker's demand set (R71 step 3). -/
def State.dropDemand (s : State) (o : SlotId) (b : BreakerId) : State :=
  s.setTrip b { s.trip b with demands := (s.trip b).demands.drop o }

/-- A zone leaves ARC at its order's close (R71 step 4). -/
def State.leaveArc (s : State) (z : ZoneId) : State :=
  if (s.zone z).hasHold then s.enterHeld z
  else if !(s.zoneRec z).inUse || (s.zone z).confirmed == 0 then s.enterDark z
  else s.enterLit z

/-- The close of an order, in the five steps of R71. -/
def State.closeOrder (s : State) (o : SlotId) : State :=
  match s.order o with
  | none => s
  | some x =>
    let s1 := x.ut.members.foldl (fun s u => s.withdrawClaim o u) s
    let s2 := s1.seal (.arc (s1.arcRecord o x))
    let s3 := x.entries.foldl (fun s e => s.dropDemand o e.breaker) s2
    let s4 := x.zones.foldl (fun s z => s.leaveArc z) s3
    s4.setOrder o none

/-! ### Resolution -/

/-- Every zone of the order is unlit (R70). -/
def State.orderUnlit (s : State) (x : Order) : Bool := x.zones.all (fun z => (s.zone z).confirmed == 0)

/-- Every entry has an outcome and every line of the UT set has been asserted for its minimum (R69). -/
def State.orderResolved (s : State) (x : Order) : Bool :=
  x.entries.all (fun e => e.outcome.isSome) && x.ut.members.all (fun u => (s.utLine u).minimum == .runOut)

/-- The resolution test (R69), with the close test that follows it at once (R70). -/
def State.testResolved (s : State) (o : SlotId) : State :=
  match s.order o with
  | none => s
  | some x =>
    if x.resolution.isNone && s.orderResolved x then
      let s1 := s.setOrder o (some { x with resolution := some s.stamp })
      if s1.orderUnlit x then s1.closeOrder o
      else s1.setOrder o (some { x with resolution := some s.stamp, closeTimer := some (s.after closeTime) })
    else s

/-- The close test at a drop that empties the confirmed set of one of the order's zones (R70). -/
def State.testDarkClose (s : State) (o : SlotId) : State :=
  match s.order o with
  | none => s
  | some x => if x.resolution.isSome && s.orderUnlit x then s.closeOrder o else s

/-- An outcome of a breaker written for one order, and the order tested for resolution (R60, R69). -/
def State.writeOutcome (s : State) (b : BreakerId) (v : BreakerOutcome) (o : SlotId) : State :=
  (s.modifyOrder o (fun x => x.withOutcome b v s.stamp)).testResolved o

/-- An outcome written for every order of the demand set, each tested for resolution as its outcome is written, in
ascending slot number: R77 gives that order for SPENT. DESIGN CHOICE, unsafe (log 34): for an opening, R60, R65 and R75
give no order of slots, and the model takes the same one; it fixes the sequence numbers of ARC records sealed together. -/
def State.writeOutcomes (s : State) (b : BreakerId) (v : BreakerOutcome) : State :=
  (s.trip b).demands.members.foldl (fun s o => s.writeOutcome b v o) s

/-- The outcomes of a breaker cleared in every order of its demand set (R63, R66). -/
def State.clearOutcomes (s : State) (b : BreakerId) : State :=
  (s.trip b).demands.members.foldl (fun s o => s.modifyOrder o (fun x => x.clearOutcome b)) s

/-- The outcome that an opening gives (R76). -/
def State.openingOutcome (s : State) (b : BreakerId) : BreakerOutcome :=
  if (s.trip b).failed then .failedThenOpened else .opened

/-! ### Escalation -/

/-- An order claims a UT line (R83, R84). -/
def State.claimUt (s : State) (o : SlotId) (u : UtId) : State :=
  let x := { s.utLine u with claims := (s.utLine u).claims.add o }
  let x' := if x.asserted then x
    else { x with asserted := true, since := some s.stamp, minimum := .running (s.after utMinimumTime) }
  (s.setUt u x').modifyOrder o (fun y => { y with ut := y.ut.add u })

/-- The breakers of a set's boundary that are not OPEN and not yet in the order's list (R59, R68, R80, R178). -/
def State.missing (s : State) (x : Order) (m : Marks 12) : List BreakerId :=
  (s.tripSet m).filter (fun b => !x.lists b)

/-- The span grows by the island of the far side, the level rises, and the new boundary is appended (R80). The breakers
appended are answered: they are to be demanded. -/
def State.growSpan (s : State) (o : SlotId) (x : Order) (far : ZoneId) : State × List BreakerId :=
  let x1 := { x with span := x.span ||| s.island far, level := x.level + 1 }
  let bs := s.missing x1 x1.span
  (s.setOrder o (some (x1.append bs)), bs)

/-- Escalation of an order across a breaker (Table 4-3). The breakers appended are answered. -/
def State.escalate (s : State) (o : SlotId) (b : BreakerId) : State × List BreakerId :=
  match s.order o with
  | none => (s, [])
  | some x =>
    let r := s.breakerRec b
    match r.role with
    | .incomer =>
      match r.utLine with
      | some u => (s.claimUt o u, [])
      | none => (s.setOrder o (some { x with noUpstream := x.noUpstream.add b }), [])
    | .coupler =>
      match r.sideA.isIn x.span, x.span.has r.sideB with
      | true, true => (s, [])
      | false, false => (s, [])
      | true, false =>
        if x.level < 2 then s.growSpan o x r.sideB else (s.setOrder o (some { x with escLimit := true }), [])
      | false, true =>
        match r.sideA with
        | .external => (s, [])
        | .zone far =>
          if x.level < 2 then s.growSpan o x far else (s.setOrder o (some { x with escLimit := true }), [])

/-! ### Demands -/

/-- Entry to DRIVING from IDLE or OPEN_DONE: the three timers start and the flag is cleared (R63, R73, R77). -/
def State.drive (s : State) (b : BreakerId) : State :=
  s.setTrip b { s.trip b with
    phase := .driving
    bfTimer := some (s.after (ms (s.breakerRec b).bfTime))
    minTimer := some (s.after minimumPulseTime)
    ceilTimer := some (s.after pulseCeilingTime)
    failed := false }

/-- The order joins the breaker's demand set (R63). -/
def State.addDemand (s : State) (o : SlotId) (b : BreakerId) : State :=
  s.setTrip b { s.trip b with demands := (s.trip b).demands.add o }

/-- A demand from an order for a breaker (Table 3-6). The breakers that an escalation appended are answered. -/
def State.demand (s : State) (o : SlotId) (b : BreakerId) : State × List BreakerId :=
  let s1 := s.addDemand o b
  match (s1.trip b).phase with
  | .idle => (((s1.drive b).lock b).clearOutcomes b, [])
  | .driving => (s1, [])
  | .holding => (s1.writeOutcome b (s1.openingOutcome b) o, [])
  | .failed => s1.escalate o b
  | .openDone =>
    if s1.isOpen b then (s1.writeOutcome b (s1.openingOutcome b) o, [])
    else ((s1.drive b).clearOutcomes b, [])
  | .spent =>
    let (s2, added) := s1.escalate o b
    (s2.writeOutcome b .spent o, added)

/-- The demands of a list, from the front, with the breakers that their escalations appended (R86). -/
def State.demandAll (s : State) (o : SlotId) : List BreakerId → State × List BreakerId
  | [] => (s, [])
  | b :: bs =>
    let (s1, added) := s.demand o b
    let (s2, more) := s1.demandAll o bs
    (s2, added ++ more)

/-- An order's demand queue, until it is empty (R86). Demands that escalations add stand at the end of the queue, so they
are taken after the whole list before them. An escalation adds demands only by raising the level, which it can do at
most twice, so `n = 2` further lists are enough. -/
def State.runQueue (s : State) (o : SlotId) : Nat → List BreakerId → State
  | 0, q => (s.demandAll o q).1
  | n + 1, q =>
    let (s1, added) := s.demandAll o q
    if added.isEmpty then s1 else s1.runQueue o n added

/-- The queue of one event's demands for an order (R86). -/
def State.demandQueue (s : State) (o : SlotId) (q : List BreakerId) : State := s.runQueue o 2 q

/-! ### Evaluation -/

/-- The lowest-numbered breaker of a trip set that has current-confirm used and its current ASSERTED (R61). -/
def State.currentSource (s : State) (trip : List BreakerId) : Option BreakerId :=
  trip.find? (fun b => (s.breakerRec b).ccUsed && (s.input b).current)

/-- The order that a creation fills in (R58, R61, R142). -/
def State.newOrder (s : State) (z : ZoneId) (trip : List BreakerId) : Order :=
  s.addChannels
    { zones := [z], span := s.island z, level := 0,
      entries := trip.map (fun b => { breaker := b, level := 0, outcome := none, outcomeTime := none, offset := none }),
      ut := 0, decision := s.stamp,
      source := if (s.zoneRec z).lightOnly then none else s.currentSource trip,
      resolution := none, closeTimer := none, escLimit := false,
      supplyLow := s.sup.supply == .low, decisionStatus := s.time.status, channels := [], noUpstream := 0,
      timeStep := false }
    (s.zone z).confirmed.members

/-- Creation of an order for a lit zone in the lowest-numbered empty slot (R58). -/
def State.createOrder (s : State) (z : ZoneId) (trip : List BreakerId) : State :=
  match (ids 12).find? (fun o => (s.order o).isNone) with
  | none => s
  | some o => ((s.setOrder o (some (s.newOrder z trip))).enterArc z o).demandQueue o trip

/-- A lit zone joins an active order (R59). A join to a resolved order makes no new demand and keeps the resolution: the
span grows, and nothing is appended, since an entry without outcome would withdraw the resolution (R69; DEDUCED, log 14). -/
def State.joinOrder (s : State) (z : ZoneId) (o : SlotId) : State :=
  match s.order o with
  | none => s
  | some x =>
    let isl := s.island z
    let x1 := s.addChannels { x with zones := x.zones ++ [z] } (s.zone z).confirmed.members
    if isl &&& ~~~ x.span = 0 then (s.setOrder o (some x1)).enterArc z o
    else
      let x2 := { x1 with span := x1.span ||| isl }
      let bs := if x.resolution.isNone then s.missing x2 x2.span else []
      ((s.setOrder o (some (x2.append bs))).enterArc z o).demandQueue o bs

/-- The lowest-numbered slot whose order has a zone of the set (R56). -/
def State.orderIn (s : State) (m : Marks 12) : Option SlotId :=
  (ids 12).find? (fun o =>
    match s.order o with
    | none => false
    | some x => x.zones.any (fun z => m.has z))

/-- Light accepted as real with no source: a NO_SOURCE record once in a lit period (R57). -/
def State.noSource (s : State) (z : ZoneId) : State :=
  if (s.zone z).noSourceSent then s
  else
    let s1 := s.seal (.noSource z (s.zoneOrigin z) (s.zone z).confirmed)
    s1.setZone z { s1.zone z with noSourceSent := true }

/-- The evaluation of a zone: a zone that is not LIT is passed over (R55), and a LIT zone ends in one of the four
outcomes of R56. -/
def State.evaluate (s : State) (z : ZoneId) : State :=
  if (s.zone z).prot = .lit then
    if s.currentCondition z then
      match s.tripSet (s.island z) with
      | [] => s.noSource z
      | trip =>
        match s.orderIn (s.island z) with
        | some o => s.joinOrder z o
        | none => s.createOrder z trip
    else s
  else s

/-- The zones of a list that pass a test, evaluated in ascending zone number; the test is read when the zone's turn
comes (R55). -/
def State.evaluateWhere (s : State) (p : State → ZoneId → Bool) : State :=
  (ids 12).foldl (fun s z => if p s z then s.evaluate z else s) s

end Sys2Proof.Machine
end

