-- ==== Sys2Proof/Machine/Reports.lean ====
section
/-! DEFINITION. Reports: a channel's confirmation and drop at its zones (R22, R49 to R51), and a breaker's position and
current at the trip supervision unit and the arc decision unit (R37, R42, R55, R64 to R68, R75). -/

namespace Sys2Proof.Machine

open Sys2Proof

/-! ### Channels and zones -/

/-- What a confirmation does at a zone in use, after the channel has joined its set (Table 3-2, R110). -/
def State.confirmedAt (s : State) (c : ChanId) (z : ZoneId) : State :=
  match (s.zone z).prot with
  | .dark => (s.enterLit z).evaluate z
  | .lit => s
  | .arc =>
    match (s.zone z).orderSlot with
    | none => s
    | some o => s.modifyOrder o (fun x => s.addChannels x [c])
  | .held =>
    if (s.zone z).heldLightSent then s
    else
      let s1 := s.seal (.heldLight z c)
      s1.setZone z { s1.zone z with heldLightSent := true }

/-- A confirmation report for a zone (R49, R50): a channel already in the set is not added twice, and a zone not in use
keeps its state. -/
def State.confirmReport (s : State) (c : ChanId) (z : ZoneId) : State :=
  if (s.zone z).confirmed.has c then s
  else
    let s1 := s.setZone z { s.zone z with confirmed := (s.zone z).confirmed.add c }
    if (s.zoneRec z).inUse then s1.confirmedAt c z else s1

/-- What an emptied confirmed set does at a zone (R51). -/
def State.darkenedAt (s : State) (z : ZoneId) : State :=
  match (s.zone z).prot with
  | .lit => s.enterDark z
  | .arc =>
    match (s.zone z).orderSlot with
    | none => s
    | some o => s.testDarkClose o
  | .dark | .held => s

/-- A drop report for a zone (R51). -/
def State.dropReport (s : State) (c : ChanId) (z : ZoneId) : State :=
  if (s.zone z).confirmed.has c then
    let s1 := s.setZone z { s.zone z with confirmed := (s.zone z).confirmed.drop c }
    if (s1.zone z).confirmed = 0 then s1.darkenedAt z else s1
  else s

/-- A channel's new live state, with the reports that its entry to or exit from CONFIRMED makes to `zones`, one whole
after another (R22). -/
def State.putChannel (s : State) (c : ChanId) (zones : List ZoneId) (x : Channel) : State :=
  let before := (s.chan c).isConfirmed
  let s1 := s.setChan c x
  if !before && x.isConfirmed then zones.foldl (fun s z => s.confirmReport c z) s1
  else if before && !x.isConfirmed then zones.foldl (fun s z => s.dropReport c z) s1
  else s1

/-! ### Breakers -/

/-- A breaker has opened (R65, R75): HOLDING while its minimum pulse runs, else OPEN_DONE. -/
def State.breakerOpened (s : State) (b : BreakerId) : State :=
  let t := s.trip b
  let t' := if t.minTimer.isSome then { t with phase := .holding, bfTimer := none }
    else { t with phase := .openDone, bfTimer := none, ceilTimer := none }
  (s.setTrip b t').writeOutcomes b (s.openingOutcome b)

/-- A breaker in HOLDING is no longer opened (R66). -/
def State.returnToDriving (s : State) (b : BreakerId) : State :=
  (s.setTrip b { s.trip b with
    phase := .driving, bfTimer := some (s.after (ms (s.breakerRec b).bfTime)) }).clearOutcomes b

/-- The opened condition tested at a report (R64 to R67, R75, R78). -/
def State.tripReport (s : State) (b : BreakerId) : State :=
  match (s.trip b).phase with
  | .driving | .failed => if s.hasOpened b then s.breakerOpened b else s
  | .holding => if s.hasOpened b then s else s.returnToDriving b
  | .idle | .openDone | .spent => s

/-- The breakers missing from the list of an order's boundary are appended at its level and demanded (R178). -/
def State.demandMissing (s : State) (o : SlotId) : State :=
  match s.order o with
  | none => s
  | some x =>
    let bs := s.missing x x.span
    (s.setOrder o (some (x.append bs))).demandQueue o bs

/-- A breaker that left OPEN on the boundary of an active order's span is appended, if it is not listed, and demanded
(R68). -/
def State.closeOnto (s : State) (b : BreakerId) (o : SlotId) : State :=
  match s.order o with
  | none => s
  | some x =>
    if (s.breakerRec b).onBoundary x.span then
      (s.setOrder o (some (if x.lists b then x else x.append [b]))).demandQueue o [b]
    else s

/-- What the arc decision unit does with a breaker that left OPEN: first the active orders in ascending slot number
(R68), then the LIT zones (R55). -/
def State.leftOpen (s : State) (b : BreakerId) : State :=
  let s1 := if (s.breakerRec b).inUse then (ids 12).foldl (fun s o => s.closeOnto b o) s else s
  s1.evaluateWhere (fun s z => (s.boundary (s.island z)).contains b)

/-- What the arc decision unit does with a current assertion (R55). -/
def State.currentAsserted (s : State) (b : BreakerId) : State :=
  s.evaluateWhere (fun s z => (s.tripSet (s.island z)).contains b)

end Sys2Proof.Machine
end

