-- ==== Sys2Proof/Machine/Batch.lean ====
section
/-! DEFINITION. The test engine's running order, steps and verdicts (sections 7.3 to 7.6). -/

namespace Sys2Proof.Machine

open Sys2Proof

/-- A channel's result in the batch. -/
def State.result (s : State) (c : ChanId) : TestResult := look s.batch.results c

/-- A channel's result in the batch is set. -/
def State.setResult (s : State) (c : ChanId) (r : TestResult) : State :=
  s.setBatch { s.batch with results := put s.batch.results c r }

/-- The channel is the sole one able to cover the zone (R123). -/
def State.soleCover (s : State) (c : ChanId) (z : ZoneId) : Bool :=
  (s.zoneRec z).inUse && (s.zone z).prot != .held && s.ableToCover c z
    && (ids 24).all (fun d => d == c || !s.ableToCover d z)

/-- The skip checks of R122, in the order of Table 7-3. -/
def State.skipCheck (s : State) (c : ChanId) : Option TestResult :=
  let r := s.chanRec c
  let x := s.chan c
  if !r.inUse then some .skippedOff
  else if x.lineFaulted then some .skippedLine
  else if x.phase = .warmup ∨ (x.phase = .confirmed ∧ x.early) then some .skippedWarmup
  else if r.zones.any (fun z => (s.zone z).isBright) then some .skippedBusy
  else if r.zones.any (fun z => s.soleCover c z) then some .skippedSole
  else none

/-- A channel's test begins (R124, R26). -/
def State.beginTest (s : State) (c : ChanId) : State :=
  let s1 := s.putChannel c (s.chanRec c).zones (s.chan c).enterTesting
  s1.setBatch { s1.batch with
    current := some c, step := some .emit, settleTimer := some (s1.after settleTime), emitSum := 0, emitCount := 0 }

/-- The next channel is taken up (R121): the PENDING channels of the list, in its order, are skipped or the first that
passes its checks is tested; with none left, the batch enters IDLE. -/
def State.takeUpFrom (s : State) : List ChanId → State
  | [] => s.setBatch { s.batch with state := .idle }
  | c :: cs =>
    if s.result c = .pending then
      match s.skipCheck c with
      | some out => (s.setResult c out).takeUpFrom cs
      | none => s.beginTest c
    else s.takeUpFrom cs

/-- Take up the lowest-numbered PENDING channel (R121). -/
def State.takeUp (s : State) : State := s.takeUpFrom (ids 24)

/-- The response of a test: max(0, floor(emit sum / 8) − b_int) (R127). -/
def response (emitSum bInt : Nat) : Nat := emitSum / 8 - bInt

/-- The verdict of a test without learning (Table 7-4). -/
def plainVerdict (r ref : Nat) : Verdict :=
  if ref * 3 ≤ r * 4 then .pass else if ref ≤ r * 2 then .weak else .fail

/-- The verdict of a learn test (R128). -/
def learnVerdict (r : Nat) : Verdict := if 64 ≤ r then .learned else .fail

/-- The reference response of a channel: read from the working settings in both modes (R175). -/
def State.reference (s : State) (c : ChanId) : Nat := (look s.sets.working.channels c).ref

/-- A learned reference is written (R128): the working settings only, with the dirty flag. -/
def State.writeReference (s : State) (c : ChanId) (r : Nat) : State :=
  let w := s.sets.working
  s.setSets { s.sets with
    working := { w with channels := put w.channels c { look w.channels c with ref := r } } }.touched

/-- The release that a verdict gives (R27, R129 step 1). FAIL and STUCK seal a CHANNEL_FAULT record. -/
def State.releaseWith (s : State) (c : ChanId) (v : Verdict) : State :=
  if v = .fail ∨ v = .stuck then
    (s.setChan c (s.chan c).releaseFaulted).seal (.channelFault c .optical (some v))
  else s.setChan c ((s.chan c).release s.inForce.fast)

/-- The five steps of a verdict (R129). -/
def State.giveVerdict (s : State) (c : ChanId) (v : Verdict) (r : Nat) : State :=
  let t := s.stamp
  let s1 := s.releaseWith c v
  let s2 := s1.setChan c { s1.chan c with lastTest := some { verdict := v, response := r, time := t } }
  let s3 := s2.setResult c (.verdict v)
  (s3.setBatch s3.batch.cleared).takeUp

/-- The response of the current channel's test (R127). -/
def State.testResponse (s : State) (c : ChanId) : Nat := response s.batch.emitSum (s.chan c).bInt

/-- The verdict at the second dark sample (R126 to R129). -/
def State.darkVerdict (s : State) (c : ChanId) : State :=
  let r := s.testResponse c
  if s.batch.learn then
    let s1 := if learnVerdict r = .learned then s.writeReference c r else s
    s1.giveVerdict c (learnVerdict r) r
  else s.giveVerdict c (plainVerdict r (s.reference c)) r

/-- The verdict STUCK when the darken timer runs out (R126). -/
def State.stuckVerdict (s : State) (c : ChanId) : State := s.giveVerdict c .stuck (s.testResponse c)

/-- The samples summed in the EMIT step (R125). -/
def emitSamples : Nat := 8

/-- An OK sample handed to the test engine (R125, R126). -/
def State.testSample (s : State) (c : ChanId) (v : Nat) : State :=
  if s.batch.current = some c then
    match s.batch.step with
    | some .emit =>
      if s.batch.settleTimer.isSome then s
      else
        let b := { s.batch with emitSum := s.batch.emitSum + v, emitCount := s.batch.emitCount + 1 }
        if b.emitCount = emitSamples then
          s.setBatch { b with step := some .darken, darkenTimer := some (s.after darkenTime), darkenCount := 0 }
        else s.setBatch b
    | some .darken =>
      if v ≤ threshold (s.chanRec c) (s.chan c) then
        let b := { s.batch with darkenCount := s.batch.darkenCount + 1 }
        if b.darkenCount = 2 then (s.setBatch { b with darkenTimer := none }).darkVerdict c else s.setBatch b
      else s.setBatch { s.batch with darkenCount := 0 }
    | none => s
  else s

/-- The current channel has left TESTING by an event of its own (R130). -/
def State.channelTaken (s : State) (c : ChanId) (r : TestResult) : State :=
  if s.batch.current = some c then
    let s1 := s.setResult c r
    (s1.setBatch s1.batch.cleared).takeUp
  else s

/-- The batch resumes (R136). -/
def State.resume (s : State) : State :=
  (s.setBatch { s.batch with state := .running, cause := none, quietTimer := none }).takeUp

end Sys2Proof.Machine
end

