-- ==== Sys2Proof/Machine/Light.lean ====
section
/-! DEFINITION. SAMPLE_ARRIVAL, LINE_FAULT and LINE_RECOVERY (section 1.3). -/

namespace Sys2Proof.Machine

open Sys2Proof

/-- What every meaning answers. -/
abbrev Result := Host.Outcome State Fault Refusal

/-- An OK sample at a channel (R5): one under test is handed to the test engine with the run counts kept (R7, R26). -/
def State.okArrival (s : State) (c : ChanId) (v : Nat) : State :=
  let x := s.chan c
  if x.phase = .testing then (s.setChan c x.okRuns).testSample c v
  else s.putChannel c (s.chanRec c).zones (x.okSample (s.chanRec c) s.inForce.fast s.stamp v)

/-- A non-OK sample at a channel (R6, R7): at the 200th of a run the record is sealed, and the test engine is told if the
channel was under test (R130). -/
def State.nonOkArrival (s : State) (c : ChanId) : State :=
  let x := s.chan c
  let y := x.nonOkSample s.inForce.fast
  let s1 := s.putChannel c (s.chanRec c).zones y
  if x.enteredLineFault y then
    let s2 := s1.seal (.channelFault c .line none)
    if x.phase = .testing then s2.channelTaken c .skippedLine else s2
  else s1

/-- SAMPLE_ARRIVAL (R5): in RESET and LOADING the sample is discarded (R4). -/
def execSampleArrival (c : ChanId) (v : Nat) (line : LineStatus) (s : State) : Result :=
  if 4095 < v then .fault .sampleOutOfRange
  else if s.inService then
    match line with
    | .ok => .next (s.okArrival c v).settleQuiet
    | .openLoop | .short => .next (s.nonOkArrival c).settleQuiet
  else .next s

/-- LINE_FAULT (R7): the non-OK sample that is the 200th of its run. With any other run count there is no such event, and
nothing changes (log 22). -/
def execLineFault (c : ChanId) (s : State) : Result :=
  if s.inService && (s.chan c).phase != .off && !(s.chan c).lineFaulted
      && (s.chan c).nonOkRun + 1 == nonOkRunLimit then
    .next (s.nonOkArrival c).settleQuiet
  else .next s

/-- LINE_RECOVERY (R8): the OK sample that is the 20,000th of its run in FAULTED(LINE); the sample's value is not used.
With any other run count there is no such event, and nothing changes (log 22). -/
def execLineRecovery (c : ChanId) (s : State) : Result :=
  if s.inService && (s.chan c).lineFaulted && (s.chan c).okRun + 1 == okRunLimit then
    .next (s.okArrival c 0).settleQuiet
  else .next s

end Sys2Proof.Machine
end

