-- ==== Sys2Proof/Machine/Lines.lean ====
section
/-! DEFINITION. The map's inputs: CONTACT_LINE_CHANGE, POSITION_CHANGE, POSITION_FAULT_TIMER_EXPIRY,
CURRENT_LINE_CHANGE, FILTERED_CURRENT_CHANGE (sections 2.4, 2.5). A line keeps its level in every mode, and the map
tracks it in PROTECTING and BACKSTOP only (R38). -/

namespace Sys2Proof.Machine

open Sys2Proof

/-- Raw position from the contact pair (Table 2-4). -/
def rawPosition (bpc bpo : Bool) : Position :=
  match bpc, bpo with
  | true, false => .closed
  | false, true => .opened
  | true, true => .unknown
  | false, false => .unknown

/-- CONTACT_LINE_CHANGE (R36, R37): a changed pair starts or restarts the stability timer; an unchanged pair is no change. -/
def execContactLineChange (b : BreakerId) (bpc bpo : Bool) (s : State) : Result :=
  let i := s.input b
  if i.bpc = bpc ∧ i.bpo = bpo then .next s
  else
    .next (s.setInput b { i with
      bpc := bpc, bpo := bpo, stability := if s.inService then some (s.after stabilityTime) else i.stability })

/-- The position takes the raw value, with the position-fault supervision of R39 and the flag of R40. -/
def State.movePosition (s : State) (b : BreakerId) (p : Position) : State :=
  let i := s.input b
  let i1 := { i with
    position := p
    unknownTimer :=
      if p = .unknown then (if (s.breakerRec b).inUse then some (s.after unknownTime) else i.unknownTimer) else none
    positionFault := if p = .unknown then i.positionFault else false
    closedAgainstLockout := i.closedAgainstLockout || (p == .closed && s.locked b) }
  s.setInput b i1

/-- A position change reported: first to the trip supervision unit, then to the arc decision unit (R37; log 16). -/
def State.positionReport (s : State) (b : BreakerId) (old new : Position) : State :=
  let s1 := s.tripReport b
  if old = .opened ∧ new ≠ .opened then s1.leftOpen b else s1

/-- The stability timer runs out (R37). -/
def State.positionSettled (s : State) (b : BreakerId) : State :=
  let i := s.input b
  let raw := rawPosition i.bpc i.bpo
  let s1 := s.setInput b { i with stability := none }
  if raw = i.position then s1 else (s1.movePosition b raw).positionReport b i.position raw

/-- POSITION_CHANGE (R37). -/
def execPositionChange (b : BreakerId) (s : State) : Result :=
  if s.inService && (s.input b).stability.isSome then .next (s.positionSettled b).settleQuiet else .next s

/-- POSITION_FAULT_TIMER_EXPIRY (R39). -/
def execPositionFaultTimerExpiry (b : BreakerId) (s : State) : Result :=
  if s.inService && (s.input b).unknownTimer.isSome then
    .next (s.setInput b { s.input b with unknownTimer := none, positionFault := true })
  else .next s

/-- CURRENT_LINE_CHANGE (R41, Table 2-11): a line that leaves the filtered value starts the timer, and one that returns to
it stops the timer. -/
def execCurrentLineChange (b : BreakerId) (level : Bool) (s : State) : Result :=
  let i := s.input b
  if i.curLine = level then .next s
  else
    .next (s.setInput b { i with
      curLine := level
      filterTimer :=
        if s.inService then (if level = i.current then none else some (s.after filterTime)) else i.filterTimer })

/-- The filtered current takes the line's level, and the change is reported (R41, R42): to the arc decision unit, and to
the trip supervision unit. -/
def State.currentSettled (s : State) (b : BreakerId) : State :=
  let i := s.input b
  let s1 := s.setInput b { i with filterTimer := none, current := i.curLine }
  if i.curLine = i.current then s1
  else if i.curLine then (s1.currentAsserted b).tripReport b
  else s1.tripReport b

/-- FILTERED_CURRENT_CHANGE (R42). -/
def execFilteredCurrentChange (b : BreakerId) (s : State) : Result :=
  if s.inService && (s.input b).filterTimer.isSome then .next (s.currentSettled b).settleQuiet else .next s

end Sys2Proof.Machine
end

