-- ==== Sys2Proof/Machine/Breakers.lean ====
section
/-! DEFINITION. The timers of zones, orders, breakers and UT lines (R52, R66, R70, R74, R77, R84). An expiry takes effect
while its timer runs; a timer that is stopped has no expiry, and the command changes nothing (logs 4, 5). -/

namespace Sys2Proof.Machine

open Sys2Proof

/-- The light-alarm timer of a LIT zone runs out (R52). -/
def State.lightAlarm (s : State) (z : ZoneId) : State :=
  let s1 := s.setZone z { s.zone z with alarmTimer := none }
  if (s.zone z).alarmSent then s1
  else
    let s2 := s1.seal (.lightAlarm z (s.zoneOrigin z) (s.zone z).litSince)
    s2.setZone z { s2.zone z with alarmSent := true }

/-- LIGHT_ALARM_TIMER_EXPIRY (R52). -/
def execLightAlarmTimerExpiry (z : ZoneId) (s : State) : Result :=
  if s.inService && (s.zone z).prot == .lit && (s.zone z).alarmTimer.isSome then .next (s.lightAlarm z) else .next s

/-- The order's close timer is running (R70). -/
def State.closing (s : State) (o : SlotId) : Bool :=
  match s.order o with
  | none => false
  | some x => x.closeTimer.isSome

/-- CLOSE_TIMER_EXPIRY (R70): the order closes whatever light remains. -/
def execCloseTimerExpiry (o : SlotId) (s : State) : Result :=
  if s.inService && s.closing o then .next (s.closeOrder o).settleQuiet else .next s

/-- A DRIVING breaker enters FAILED (R74). -/
def State.failBreaker (s : State) (b : BreakerId) : State :=
  s.setTrip b { s.trip b with phase := .failed, bfTimer := none, failed := true }

/-- An order escalated across a breaker, with the demands that follow (R74, R86). -/
def State.escalateFully (s : State) (b : BreakerId) (o : SlotId) : State :=
  let (s1, added) := s.escalate o b
  s1.demandQueue o added

/-- The BF timer runs out (R74): the demand set as it stands at the expiry is escalated in ascending slot number. -/
def State.breakerFailed (s : State) (b : BreakerId) : State :=
  (s.trip b).demands.members.foldl (fun s o => s.escalateFully b o) (s.failBreaker b)

/-- BF_TIMER_EXPIRY (R74). -/
def execBfTimerExpiry (b : BreakerId) (s : State) : Result :=
  if s.inService && (s.trip b).phase == .driving && (s.trip b).bfTimer.isSome then
    .next (s.breakerFailed b).settleQuiet
  else .next s

/-- The minimum-pulse timer runs out: HOLDING to OPEN_DONE with the ceiling stopped (R66); in any other state the timer
only stops (R66, R75). -/
def State.pulseEnded (s : State) (b : BreakerId) : State :=
  let t := s.trip b
  if t.phase = .holding then s.setTrip b { t with phase := .openDone, minTimer := none, ceilTimer := none }
  else s.setTrip b { t with minTimer := none }

/-- MINIMUM_PULSE_TIMER_EXPIRY (R66). -/
def execMinimumPulseTimerExpiry (b : BreakerId) (s : State) : Result :=
  if s.inService && (s.trip b).minTimer.isSome then .next (s.pulseEnded b) else .next s

/-- A FAILED breaker reaches its pulse ceiling (R77). -/
def State.breakerSpent (s : State) (b : BreakerId) : State :=
  (s.setTrip b { s.trip b with phase := .spent, bfTimer := none, minTimer := none, ceilTimer := none }).writeOutcomes b .spent

/-- PULSE_CEILING_TIMER_EXPIRY (R77). The expiry always finds the breaker in FAILED, so in another state there is no such
event (log 24). -/
def execPulseCeilingTimerExpiry (b : BreakerId) (s : State) : Result :=
  if s.inService && (s.trip b).phase == .failed && (s.trip b).ceilTimer.isSome then
    .next (s.breakerSpent b).settleQuiet
  else .next s

/-- The minimum timer of a UT line is running. -/
def UtLine.timing (u : UtLine) : Bool :=
  match u.minimum with
  | .running _ => true
  | .stopped | .runOut => false

/-- A line without claims whose minimum has run out is released (R85). -/
def State.releaseIfFree (s : State) (u : UtId) : State :=
  let x := s.utLine u
  if x.claims = 0 ∧ x.minimum = .runOut then s.setUt u x.released else s

/-- The minimum timer of a UT line runs out: the claimants are tested for resolution, and a line without claims is
released (R84, R85). DESIGN CHOICE, unsafe (log 34): R69 and R84 give no order of the claimants, and the model takes
ascending slot number; it fixes the sequence numbers of ARC records sealed together. -/
def State.utMinimumEnded (s : State) (u : UtId) : State :=
  let s1 := s.setUt u { s.utLine u with minimum := .runOut }
  ((s.utLine u).claims.members.foldl (fun s o => s.testResolved o) s1).releaseIfFree u

/-- UT_MINIMUM_TIMER_EXPIRY (R84). -/
def execUtMinimumTimerExpiry (u : UtId) (s : State) : Result :=
  if s.inService && (s.utLine u).timing then .next (s.utMinimumEnded u).settleQuiet else .next s

end Sys2Proof.Machine
end

