-- ==== Sys2Proof/Machine/Stores.lean ====
section
/-! DEFINITION. The ends of a lockout word update (R99, R100) and of a settings commit (R180). -/

namespace Sys2Proof.Machine

open Sys2Proof

/-- The update under way has ended: the store goes to IDLE, or starts afresh where a change waits (R99, R100). -/
def State.updateEnded (s : State) : State :=
  let s1 := s.setLockout { s.lockout with store := .idle, snapshot := none, timer := none }
  match s.lockout.store with
  | .updatingAgain => s1.startUpdate
  | .idle | .updating => s1

/-- The word written by a completed update (R97, R99). -/
def LockoutWord.holding (m : Marks 8) : LockoutWord := { marks := m, complement := ~~~ m, marker := true }

/-- LOCKOUT_UPDATE_COMPLETION (R99). At the running time at which an update was abandoned, the completion is that update's
and does not follow (R100; log 39): an update started at that time has not completed. -/
def execLockoutUpdateCompletion (s : State) : Result :=
  match s.lockout.snapshot with
  | none => .next s
  | some m =>
    if s.lockout.abandonedAt = some s.now then .next s
    else .next (s.setLockout { s.lockout with fault := false, word := .holding m }).updateEnded

/-- LOCKOUT_UPDATE_TIMER_EXPIRY (R100): the update is abandoned, and the word is left invalid. A completion taken first has
stopped the timer of its update, and a fresh update's timer has not run out. -/
def execLockoutUpdateTimerExpiry (s : State) : Result :=
  if s.ranOut s.lockout.timer then
    .next (s.setLockout { s.lockout with fault := true, abandonedAt := some s.now }).updateEnded
  else .next s

/-- COMMIT_COMPLETION (R180). -/
def execCommitCompletion (s : State) : Result :=
  match s.sets.snapshot with
  | none => .next s
  | some (w, g) =>
    .next (s.setSets { s.sets with
      store := .idle
      snapshot := none
      timer := none
      generation := g
      failed := false
      dirty := s.sets.dirty && s.sets.writtenSince
      image := { erased := false, settings := w, generation := g, crc := crc16 (imageBytes w g) } })

/-- COMMIT_TIMER_EXPIRY (R180): the image is left as the erase left it. -/
def execCommitTimerExpiry (s : State) : Result :=
  if s.sets.timer.isSome then
    .next (s.setSets { s.sets with store := .idle, snapshot := none, timer := none, failed := true })
  else .next s

end Sys2Proof.Machine
end

