-- ==== Sys2Proof/Machine/TimeBase.lean ====
section
/-! DEFINITION. The time base (section 8.4): ROLLOVER, SYNC_PULSE, FREEWHEEL_TIMER_EXPIRY. -/

namespace Sys2Proof.Machine

open Sys2Proof

/-- Seconds that pass 4,294,967,295 become 0 (R152). -/
def nextSecond (x : Nat) : Nat := (x + 1) % 4294967296

/-- The microsecond count passes 999,999 (R152). -/
def TimeBase.rolled (t : TimeBase) : TimeBase := { t with micros := 0, seconds := nextSecond t.seconds }

/-- ROLLOVER (R152): the microsecond after u = 999,999. At any other u no rollover is due, as after an accepted pulse taken
first (R153), and nothing changes. During RESET the count is held at 0. -/
def execRollover (s : State) : Result :=
  if s.mode ≠ .reset ∧ 999999 ≤ s.time.micros then .next (s.setTime s.time.rolled) else .next s

/-- The time base after a pulse that gives the second `sec` where no value is pending (R153, R154). -/
def TimeBase.aligned (t : TimeBase) (sec : Nat) (timer : Nat) : TimeBase :=
  let applied := t.applied || t.pendingSeconds.isSome
  { seconds := t.pendingSeconds.getD sec
    micros := 0
    status := if applied then .synced else .unset
    pendingSeconds := none
    applied := applied
    offWindow := false
    freewheel := some timer }

/-- A stepping pulse (R154): the time base, the TIME_STEP record, and the time-step flag of every open record. -/
def State.stepTime (s : State) : State :=
  let t := s.time
  let sec := if 500000 ≤ t.micros then nextSecond t.seconds else t.seconds
  let t' := t.aligned sec (s.after freewheelTime)
  let s1 := (s.setTime t').seal (.timeStep t.seconds t.micros t'.seconds)
  { s1 with orders := s1.orders.map (fun o => o.map (fun x => { x with timeStep := true })) }

/-- SYNC_PULSE (R153, R154): before the entry to PROTECTING or BACKSTOP a pulse is discarded (R152). -/
def execSyncPulse (s : State) : Result :=
  if s.inService then
    let t := s.time
    if 999000 ≤ t.micros then .next (s.setTime (t.aligned (nextSecond t.seconds) (s.after freewheelTime)))
    else if t.micros ≤ 1000 then .next (s.setTime (t.aligned t.seconds (s.after freewheelTime)))
    else if t.offWindow then .next s.stepTime
    else .next (s.setTime { t with offWindow := true })
  else .next s

/-- FREEWHEEL_TIMER_EXPIRY (R155). -/
def execFreewheelTimerExpiry (s : State) : Result :=
  if s.time.freewheel.isSome then
    .next (s.setTime { s.time with
      freewheel := none, status := if s.time.status = .synced then .freewheel else s.time.status })
  else .next s

end Sys2Proof.Machine
end

