-- ==== Sys2Proof/Machine/Ports.lean ====
section
/-! DEFINITION. Result codes, the completion of a request, and the arbiter (sections 9.2 to 9.4). -/

namespace Sys2Proof.Machine

open Sys2Proof

/-- Value of a result code on the wire (Table 9-2b). -/
def ResultCode.code : ResultCode → Nat
  | .done => 0x00
  | .doneClamped => 0x01
  | .doneLost => 0x02
  | .busy => 0x10
  | .notHeld => 0x11
  | .notOwner => 0x12
  | .state => 0x13
  | .item => 0x14
  | .value => 0x15
  | .mode => 0x16
  | .empty => 0x17

/-- A refusal: the response data are all 0 (R168). -/
def Answer.refuse (c : ResultCode) : Answer := { code := c, data := [] }

/-- An answer without response data. -/
def Answer.plain (c : ResultCode) : Answer := { code := c, data := [] }

/-- Data byte `i` of a request as a number (R174). -/
def Request.byte (r : Request) (i : Nat) : Nat := (r.data.getD i 0#8).toNat

/-- The commands of opcode_table.json that complete a request. Each request is completed by exactly one of them. -/
inductive RequestRow where
  | readItem
  | writeChannel
  | writeZone
  | writeLink
  | writeBreaker
  | writePort
  | writeGlobal
  | holdZone
  | freeZone
  | releaseLockout
  | testChannels
  | suspendTest
  | resumeTest
  | fetchRecord
  | peekOrder
  | commitSettings
  | setSeconds
  | unknown
  deriving DecidableEq, Repr

/-- The row that completes a Write Item of an item kind (Table 9-5). A kind not marked W is refused VALUE like an unknown
request, and completed by the same row (log 6). -/
def writeRow (item : Nat) : RequestRow :=
  match item with
  | 1 => .writeChannel
  | 2 => .writeZone
  | 3 => .writeLink
  | 4 => .writeBreaker
  | 9 => .writePort
  | 10 => .writeGlobal
  | _ => .unknown

/-- The row that completes a request (Table 9-8). -/
def Request.row (r : Request) : RequestRow :=
  match r.kind.toNat with
  | 0x01 => .readItem
  | 0x02 => writeRow (r.byte 0)
  | 0x10 => .holdZone
  | 0x11 => .freeZone
  | 0x18 => .releaseLockout
  | 0x20 => .testChannels
  | 0x21 => .suspendTest
  | 0x22 => .resumeTest
  | 0x30 => .fetchRecord
  | 0x31 => .peekOrder
  | 0x40 => .commitSettings
  | 0x48 => .setSeconds
  | _ => .unknown

/-- The command that completes a row's request. -/
def RequestRow.command : RequestRow → Instr
  | .readItem => .readItem
  | .writeChannel => .writeChannelRecord
  | .writeZone => .writeZoneRecord
  | .writeLink => .writeLinkSlot
  | .writeBreaker => .writeBreakerRecord
  | .writePort => .writePortRecord
  | .writeGlobal => .writeGlobalRecord
  | .holdZone => .holdZone
  | .freeZone => .freeZone
  | .releaseLockout => .releaseLockout
  | .testChannels => .testChannels
  | .suspendTest => .suspendTest
  | .resumeTest => .resumeTest
  | .fetchRecord => .fetchRecord
  | .peekOrder => .peekOrder
  | .commitSettings => .commitSettings
  | .setSeconds => .setSeconds
  | .unknown => .unknownRequest

/-- The request of an EXECUTING slot. -/
def Slot.running : Slot → Option Request
  | .executing r => some r
  | .empty | .queued _ | .answered _ _ => none

/-- The request of a QUEUED slot. -/
def Slot.waiting : Slot → Option Request
  | .queued r => some r
  | .empty | .executing _ | .answered _ _ => none

/-- What the executor is at: the port whose slot is EXECUTING, with its request (R165). -/
def State.executing (s : State) : Option (PortId × Request) :=
  (ids 3).findSome? (fun p => (s.port p).slot.running.map (fun r => (p, r)))

/-- The port's slot is QUEUED. -/
def State.isQueued (s : State) (p : PortId) : Bool := (s.port p).slot.waiting.isSome

/-- A waiting port is promoted (R166). -/
def State.promoted (s : State) (p : PortId) : Bool :=
  s.isQueued p && (s.portRec p).ceiling != 0 && decide ((s.portRec p).ceiling ≤ (s.port p).skip)

/-- The first port of a list with the highest value of `f`: a tie goes to the lowest port number (R166). -/
def bestPort (f : PortId → Nat) : List PortId → Option PortId
  | [] => none
  | p :: ps => some (ps.foldl (fun best q => if f best < f q then q else best) p)

/-- The arbiter's choice among the waiting ports (R166). -/
def State.choice (s : State) : Option PortId :=
  match (ids 3).filter (fun p => s.promoted p) with
  | [] => bestPort (fun p => (s.portRec p).priority) ((ids 3).filter (fun p => s.isQueued p))
  | ps => bestPort (fun p => (s.port p).skip) ps

/-- A port's slot and skip count after a grant to `winner` (R166). -/
def Port.granted (x : Port) (isWinner : Bool) : Port :=
  match x.slot with
  | .queued r => if isWinner then { x with slot := .executing r, skip := 0 } else { x with skip := min 255 (x.skip + 1) }
  | .empty | .executing _ | .answered _ _ => x

/-- A grant to a port: its slot becomes EXECUTING, and every other waiting port loses the grant (R165, R166). -/
def State.grantTo (s : State) (winner : PortId) : State :=
  let s1 := (ids 3).foldl (fun s p => s.setPort p ((s.port p).granted (p == winner))) s
  { s1 with execLimit := some (s.after executionTime) }

/-- The grant made as part of a completion, or an idle executor (R165). -/
def State.grantNext (s : State) : State :=
  match s.choice with
  | none => { s with execLimit := none }
  | some p => s.grantTo p

/-- The answer is stored and the slot becomes ANSWERED (R164). -/
def State.answer (s : State) (p : PortId) (r : Request) (a : Answer) : State :=
  s.setPort p { s.port p with slot := .answered r a }

/-- The completion of the executing request if it is one of row `row` (R165): in PROTECTING and BACKSTOP its checks and
effect by `body`, in another mode MODE without effect (R167); then the answer, then the next grant. With no such request
executing there is no completion, and nothing changes (log 5). -/
def State.complete (s : State) (row : RequestRow) (body : PortId → Request → State → State × Answer) : State :=
  match s.executing with
  | none => s
  | some (p, r) =>
    if r.row = row then
      let (s1, a) := if s.inService then body p r s else (s, Answer.refuse .mode)
      (s1.answer p r a).grantNext
    else s

end Sys2Proof.Machine
end

