-- ==== Sys2Proof/Machine/Holds.lean ====
section
/-! DEFINITION. Zone holds (chapter 6): HOLD_ZONE, FREE_ZONE, HOLD_EXPIRY. -/

namespace Sys2Proof.Machine

open Sys2Proof

/-- Code of a protection state (section 3.1 order). -/
def Prot.code : Prot → Nat
  | .dark => 0
  | .lit => 1
  | .arc => 2
  | .held => 3

/-- A port's entry on a zone: its expiry, or none. -/
def State.holdOf (s : State) (z : ZoneId) (p : PortId) : Option Nat := look (s.zone z).holds p

/-- A port's entry on a zone replaced. -/
def State.setHold (s : State) (z : ZoneId) (p : PortId) (e : Option Nat) : State :=
  s.setZone z { s.zone z with holds := put (s.zone z).holds p e }

/-- Remaining time in whole seconds, rounded up, at least 1 (R116): an entry that stands is before its expiry, also where
it is read at the very microsecond of it (DEDUCED, log 36). -/
def State.remainingSeconds (s : State) (expiry : Nat) : Nat := max 1 ((expiry - s.now + 999999) / 1000000)

/-- A hold list that went from empty to non-empty (R108, Table 6-3). -/
def State.acknowledgeHold (s : State) (z : ZoneId) : State :=
  match (s.zone z).prot with
  | .dark | .lit => s.enterHeld z
  | .arc | .held => s

/-- An entry placed or renewed (R107). -/
def State.placeHold (s : State) (z : ZoneId) (p : PortId) (expiry : Nat) : State :=
  let s1 := s.setHold z p (some expiry)
  if (s.zone z).hasHold then s1 else s1.acknowledgeHold z

/-- Forced quiet of one channel, with the drop it may report (R25). -/
def State.forceQuiet (s : State) (c : ChanId) : State :=
  s.putChannel c (s.chanRec c).zones ((s.chan c).forcedQuiet s.inForce.fast)

/-- A hold list that went from non-empty to empty (R113): a HELD zone enters DARK, and its channels are forced quiet in
ascending number. -/
def State.holdsEnded (s : State) (z : ZoneId) : State :=
  match (s.zone z).prot with
  | .held => (s.watchers z).foldl (fun s c => s.forceQuiet c) (s.enterDark z)
  | .dark | .lit | .arc => s

/-- The clamped duration of a Hold Zone, in minutes (R106). -/
def holdMinutes (d : Nat) : Nat := clampTo 1 480 d

/-- Hold Zone (R106, R107): zone in data byte 0, duration in bytes 1–2 (Table 9-8). -/
def holdBody (p : PortId) (r : Request) (s : State) : State × Answer :=
  if h : r.byte 0 < 12 then
    let z : ZoneId := ⟨r.byte 0, h⟩
    if (s.zoneRec z).inUse then
      let d := r.byte 1 * 256 + r.byte 2
      let expiry := s.after (holdMinutes d * minuteTime)
      let s1 := s.placeHold z p expiry
      (s1.settleQuiet, { code := if holdMinutes d = d then .done else .doneClamped,
                         data := num1 (s1.zone z).prot.code ++ num2 (s1.remainingSeconds expiry) })
    else (s, .refuse .item)
  else (s, .refuse .item)

/-- HOLD_ZONE (R106). -/
def execHoldZone (s : State) : Result := .next (s.complete .holdZone holdBody)

/-- Free Zone of a port's entry on a zone (R111). -/
def State.freeHold (s : State) (z : ZoneId) (p : PortId) : State :=
  match s.holdOf z p with
  | none => s
  | some _ =>
    let s1 := s.setHold z p none
    if (s1.zone z).hasHold then s1 else (s1.holdsEnded z).settleQuiet

/-- Free Zone (R111): there is no in-use check. -/
def freeBody (p : PortId) (r : Request) (s : State) : State × Answer :=
  if h : r.byte 0 < 12 then (s.freeHold ⟨r.byte 0, h⟩ p, .plain .done) else (s, .refuse .item)

/-- FREE_ZONE (R111). -/
def execFreeZone (s : State) : Result := .next (s.complete .freeZone freeBody)

/-- One entry removed at its expiry, with its HOLD_EXPIRED record (R112). -/
def State.expireEntry (s : State) (z : ZoneId) (p : PortId) : State := (s.setHold z p none).seal (.holdExpired z p)

/-- The entries of a zone that expire at `t`, in ascending port order, and R113 once if the list ends empty (R112). -/
def State.expireZone (s : State) (t : Nat) (z : ZoneId) : State :=
  let ps := (ids 3).filter (fun p => s.holdOf z p == some t)
  if ps.isEmpty then s
  else
    let s1 := ps.foldl (fun s p => s.expireEntry z p) s
    if (s1.zone z).hasHold then s1 else s1.holdsEnded z

/-- HOLD_EXPIRY (R112): the entry of port `p` on zone `z` expires, and with it every entry placed for the same point of
running time, in ascending zone and port order (log 15). An entry whose expiry has not come stays: the expiry of an entry
that was renewed first has been moved to the new time, and no record follows (R107, R114). -/
def execHoldExpiry (z : ZoneId) (p : PortId) (s : State) : Result :=
  match s.holdOf z p with
  | none => .next s
  | some t =>
    if s.inService && decide (t ≤ s.now) then .next ((ids 12).foldl (fun s z => s.expireZone t z) s).settleQuiet
    else .next s

end Sys2Proof.Machine
end

