-- ==== Sys2Proof/Machine/Lockouts.lean ====
section
/-! DEFINITION. RELEASE_LOCKOUT (section 5.2). -/

namespace Sys2Proof.Machine

open Sys2Proof

/-- The trip states in which a release is taken (Table 5-2). -/
def TripPhase.releasable : TripPhase → Bool
  | .idle | .openDone | .spent => true
  | .driving | .holding | .failed => false

/-- DARK or HELD (Table 5-2). -/
def Prot.atRest : Prot → Bool
  | .dark | .held => true
  | .lit | .arc => false

/-- The effect of an accepted release of a LOCKED breaker, in the order of R94. -/
def State.releaseBreaker (s : State) (b : BreakerId) : State :=
  let s1 := s.setTrip b Trip.atReset
  let s2 := { s1 with lockout := { s1.lockout with marks := s1.lockout.marks.drop b } }
  let s3 := s2.setInput b { s2.input b with closedAgainstLockout := false }
  s3.lockoutChanged

/-- Release Lockout (R93, R94): breaker in data byte 0. In BACKSTOP any port passes the owner check. -/
def releaseBody (p : PortId) (r : Request) (s : State) : State × Answer :=
  if h : r.byte 0 < 8 then
    let b : BreakerId := ⟨r.byte 0, h⟩
    let rec_ := s.breakerRec b
    if s.mode = .protecting ∧ rec_.owner ≠ p then (s, .refuse .notOwner)
    else if !(s.trip b).phase.releasable then (s, .refuse .state)
    else if !rec_.sideZones.all (fun z => (s.zone z).prot.atRest) then (s, .refuse .state)
    else if s.locked b then (s.releaseBreaker b, .plain .done)
    else (s, .plain .done)
  else (s, .refuse .item)

/-- RELEASE_LOCKOUT (R94). -/
def execReleaseLockout (s : State) : Result := .next (s.complete .releaseLockout releaseBody)

end Sys2Proof.Machine
end

