-- ==== Sys2Proof/Machine/Tests.lean ====
section
/-! DEFINITION. The test batch's commands: TEST_CHANNELS, SUSPEND_TEST, RESUME_TEST and the ends of its timers
(chapter 7). -/

namespace Sys2Proof.Machine

open Sys2Proof

/-- Code of a batch state (Table 7-1 order). -/
def BatchState.code : BatchState → Nat
  | .idle => 0
  | .gathering => 1
  | .running => 2
  | .suspended => 3

/-- The answer that carries the batch state after the completion (Table 9-8). -/
def State.batchAnswer (s : State) : Answer := { code := .done, data := num1 s.batch.state.code }

/-- The results with the channels of a set made PENDING. -/
def markPending (t : Vector TestResult 24) (cs : List ChanId) : Vector TestResult 24 :=
  cs.foldl (fun t c => put t c .pending) t

/-- Test Channels on an IDLE batch (Table 7-2). -/
def State.openBatch (s : State) (set : Marks 24) (learn : Bool) : State :=
  s.setBatch { s.batch with
    state := .gathering
    selected := set
    learn := learn
    results := markPending (Vector.replicate 24 .none) set.members
    gatherStart := some s.stamp
    windowExpiry := some (s.after gatherStep)
    windowLimit := some (s.after gatherLimit) }

/-- Test Channels on a GATHERING batch with the same learn flag (Table 7-2, R120). -/
def State.joinBatch (s : State) (set : Marks 24) : State :=
  s.setBatch { s.batch with
    selected := s.batch.selected ||| set
    results := markPending s.batch.results (set &&& ~~~ s.batch.selected).members
    windowExpiry := some (min (s.after gatherStep) (s.batch.windowLimit.getD (s.after gatherStep))) }

/-- Test Channels (R119): the channel set in data bytes 0–2 as a bitmap, the learn flag in byte 3 (R174). -/
def testChannelsBody (_p : PortId) (r : Request) (s : State) : State × Answer :=
  let set : Marks 24 := BitVec.ofNat 24 (r.byte 0 * 65536 + r.byte 1 * 256 + r.byte 2)
  let learn := r.byte 3 != 0
  if set = 0 then (s, .refuse .value)
  else
    match s.batch.state with
    | .idle => (s.openBatch set learn, (s.openBatch set learn).batchAnswer)
    | .gathering =>
      if s.batch.learn = learn then (s.joinBatch set, (s.joinBatch set).batchAnswer) else (s, .refuse .state)
    | .running | .suspended => (s, .refuse .busy)

/-- TEST_CHANNELS (R119). -/
def execTestChannels (s : State) : Result := .next (s.complete .testChannels testChannelsBody)

/-- Suspend Test (R132). -/
def suspendBody (_p : PortId) (_r : Request) (s : State) : State × Answer :=
  match s.batch.state with
  | .idle => (s, .refuse .state)
  | .gathering | .running => (s.suspend .request, (s.suspend .request).batchAnswer)
  | .suspended =>
    let s1 := s.setBatch { s.batch with cause := some .request, quietTimer := none }
    (s1, s1.batchAnswer)

/-- SUSPEND_TEST (R132). -/
def execSuspendTest (s : State) : Result := .next (s.complete .suspendTest suspendBody)

/-- Resume Test (R135). -/
def resumeBody (_p : PortId) (_r : Request) (s : State) : State × Answer :=
  match s.batch.state with
  | .idle | .gathering | .running => (s, .refuse .state)
  | .suspended =>
    if s.batch.cause = some .request then
      let s1 := if s.anyBright then s.setBatch { s.batch with cause := some .light } else s.resume.settleQuiet
      (s1, s1.batchAnswer)
    else (s, .refuse .state)

/-- RESUME_TEST (R135). -/
def execResumeTest (s : State) : Result := .next (s.complete .resumeTest resumeBody)

/-- The end of the gathering window (R120). -/
def State.windowEnded (s : State) : State :=
  let b := { s.batch with gatherStart := none, windowExpiry := none, windowLimit := none }
  if s.anyBright then s.setBatch { b with state := .suspended, cause := some .light }
  else (s.setBatch { b with state := .running }).takeUp

/-- GATHERING_WINDOW_EXPIRY (R120): an addition taken first has moved the expiry, and the window goes on. -/
def execGatheringWindowExpiry (s : State) : Result :=
  if s.inService && s.batch.state == .gathering && s.ranOut s.batch.windowExpiry then .next s.windowEnded.settleQuiet
  else .next s

/-- SETTLE_TIMER_EXPIRY (R125): samples handed from now on are summed. -/
def execSettleTimerExpiry (s : State) : Result :=
  if s.batch.settleTimer.isSome then .next (s.setBatch { s.batch with settleTimer := none }) else .next s

/-- DARKEN_TIMER_EXPIRY (R126): the verdict is STUCK. -/
def execDarkenTimerExpiry (s : State) : Result :=
  match s.batch.current with
  | none => .next s
  | some c =>
    if s.inService && s.batch.step == some .darken && s.batch.darkenTimer.isSome then
      .next ((s.setBatch { s.batch with darkenTimer := none }).stuckVerdict c).settleQuiet
    else .next s

/-- QUIET_TIMER_EXPIRY (R134): the batch resumes. -/
def execQuietTimerExpiry (s : State) : Result :=
  if s.inService && s.batch.state == .suspended && s.batch.quietTimer.isSome then .next s.resume.settleQuiet else .next s

end Sys2Proof.Machine
end

