-- ==== Sys2Proof/Machine/Operands.lean ====
section
/-! DEFINITION. The operands of a Write Item: the settings fields in request data bytes 2 to 20, encoded by R171 in the
order of Table 9-5. A field that is no value of its kind gives no record, which R176 refuses with VALUE (its check 4).
Numbers are read as they stand, and clamped when the write is accepted. -/

namespace Sys2Proof.Machine

open Sys2Proof

/-- A number in two bytes (R170). -/
def Request.byte2 (r : Request) (i : Nat) : Nat := r.byte i * 256 + r.byte (i + 1)

/-- A number in four bytes. -/
def Request.byte4 (r : Request) (i : Nat) : Nat := r.byte2 i * 65536 + r.byte2 (i + 2)

/-- yes or no: 1 or 0 (R171; log 11). -/
def readFlag (x : Nat) : Option Bool :=
  match x with
  | 0 => some false
  | 1 => some true
  | _ => none

/-- A number below `n`. -/
def readFin (n x : Nat) : Option (Fin n) := if h : x < n then some ⟨x, h⟩ else none

/-- An optional number below `n`: 0xFF when absent. -/
def readOptional (n x : Nat) : Option (Option (Fin n)) := if x = 0xFF then some none else (readFin n x).map some

/-- The role's code (Table 2-3 order). -/
def readRole (x : Nat) : Option Role :=
  match x with
  | 0 => some .incomer
  | 1 => some .coupler
  | _ => none

/-- Side A: a zone, or 0xFE for the external source of an INCOMER (R171, R34; log 11). -/
def readSide (role : Role) (x : Nat) : Option Side :=
  if role = .incomer ∧ x = 0xFE then some .external else (readFin 12 x).map .zone

/-- The settings fields of a channel record (Table 1-1 order). -/
def Request.channelRecord (r : Request) : Option ChannelRecord := do
  let inUse ← readFlag (r.byte 2)
  let primary ← readFin 12 (r.byte 3)
  let secondary ← readOptional 12 (r.byte 4)
  some { inUse, primary, secondary, ta := r.byte2 5, g := r.byte 7, m := r.byte2 8, k := r.byte 10, n := r.byte 11,
         ref := r.byte2 12 }

/-- The settings fields of a zone record (Table 2-1). -/
def Request.zoneRecord (r : Request) : Option ZoneRecord := do
  let inUse ← readFlag (r.byte 2)
  let lightOnly ← readFlag (r.byte 3)
  some { inUse, lightOnly }

/-- The two zones of a pair, the lower first (R31: the pair is unordered). -/
def sortedPair (a b : ZoneId) : ZoneId × ZoneId := if b < a then (b, a) else (a, b)

/-- The settings fields of a link slot: the pair is read only where the slot is filled (Table 2-2; log 11). -/
def Request.linkSlot (r : Request) : Option (Option (ZoneId × ZoneId)) := do
  let filled ← readFlag (r.byte 2)
  if filled then
    let a ← readFin 12 (r.byte 3)
    let b ← readFin 12 (r.byte 4)
    some (some (sortedPair a b))
  else some none

/-- The settings fields of a breaker record (Table 2-3 order). -/
def Request.breakerRecord (r : Request) : Option BreakerRecord := do
  let inUse ← readFlag (r.byte 2)
  let role ← readRole (r.byte 3)
  let sideA ← readSide role (r.byte 4)
  let sideB ← readFin 12 (r.byte 5)
  let owner ← readFin 3 (r.byte 6)
  let ccUsed ← readFlag (r.byte 7)
  let utLine ← readOptional 4 (r.byte 10)
  some { inUse, role, sideA, sideB, owner, ccUsed, bfTime := r.byte2 8, utLine }

/-- The settings fields of a port record. -/
def Request.portRecord (r : Request) : PortRecord := { priority := r.byte 2, ceiling := r.byte 3 }

/-- The settings field of the global record. -/
def Request.fastFlag (r : Request) : Option Bool := readFlag (r.byte 2)

end Sys2Proof.Machine
end

