-- ==== Sys2Proof/Machine/Writes.lean ====
section
/-! DEFINITION. The requests that change settings: the six WRITE rows (section 10.2), COMMIT_SETTINGS (R179),
SET_SECONDS (R156) and UNKNOWN_REQUEST (R163, R167). The MODE check of each stands in `State.complete`. -/

namespace Sys2Proof.Machine

open Sys2Proof

/-! ### The hold condition and the answer -/

/-- Every zone of the list is HELD; in BACKSTOP the condition is always met (R177). -/
def State.holdsMet (s : State) (zs : List ZoneId) : Bool := s.mode == .backstop || zs.all (fun z => (s.zone z).prot == .held)

/-- The zones of a link slot's pair. -/
def linkZones (l : Option (ZoneId × ZoneId)) : List ZoneId :=
  match l with
  | none => []
  | some (a, b) => [a, b]

/-- The answer of an accepted write (R176): DONE_CLAMPED if a value was clamped, and the fields after the write. -/
def writeAnswer (unclamped : Bool) (fields : List Byte) : Answer :=
  { code := if unclamped then .done else .doneClamped, data := fields }

/-! ### Step 1: the record replaced -/

def State.putChannelRecord (s : State) (c : ChanId) (r : ChannelRecord) : State :=
  s.setSets { s.sets with working := { s.sets.working with channels := put s.sets.working.channels c r } }

def State.putZoneRecord (s : State) (z : ZoneId) (r : ZoneRecord) : State :=
  s.setSets { s.sets with working := { s.sets.working with zones := put s.sets.working.zones z r } }

def State.putLink (s : State) (l : LinkId) (x : Option (ZoneId × ZoneId)) : State :=
  s.setSets { s.sets with working := { s.sets.working with links := put s.sets.working.links l x } }

def State.putBreakerRecord (s : State) (b : BreakerId) (r : BreakerRecord) : State :=
  s.setSets { s.sets with working := { s.sets.working with breakers := put s.sets.working.breakers b r } }

def State.putPortRecord (s : State) (p : PortId) (r : PortRecord) : State :=
  s.setSets { s.sets with working := { s.sets.working with ports := put s.sets.working.ports p r } }

def State.putFast (s : State) (f : Bool) : State :=
  s.setSets { s.sets with working := { s.sets.working with fast := f } }

/-! ### Step 2: what the blocks do -/

/-- A channel's restart by an accepted write (R3, R130): `zones` are those it watched until the write, at which a
CONFIRMED channel reports its drop. In-use is read from the settings in force (R178). -/
def State.restartChannel (s : State) (c : ChanId) (zones : List ZoneId) : State :=
  let x := s.chan c
  let s1 := s.putChannel c zones (x.restart (s.chanRec c).inUse s.inForce.fast)
  if x.phase = .testing then s1.channelTaken c .withdrawn else s1

/-- A zone put into use: DARK with light in its set is a confirmation arriving at a DARK zone (R49). -/
def State.zoneEntersUse (s : State) (z : ZoneId) : State :=
  if (s.zone z).prot = .dark ∧ (s.zone z).confirmed ≠ 0 then (s.enterLit z).evaluate z else s

/-- A breaker's position-fault supervision at a change of its in-use field from `old` to `new` (R35). -/
def State.superviseBreaker (s : State) (b : BreakerId) (old new : Bool) : State :=
  let i := s.input b
  if !old && new then
    if i.position = .unknown then s.setInput b { i with unknownTimer := some (s.after unknownTime) } else s
  else if old && !new then s.setInput b { i with unknownTimer := none, positionFault := false }
  else s

/-- After a write to the map in PROTECTING: the active orders in ascending slot number, then every LIT zone (R178). -/
def State.mapWritten (s : State) : State :=
  ((ids 12).foldl (fun s o => s.demandMissing o) s).evaluateWhere (fun _ _ => true)

/-- The effects of step 2 that exist in PROTECTING only: in BACKSTOP the settings in force are unchanged (R178). -/
def State.inProtecting (s : State) (f : State → State) : State := if s.mode = .protecting then f s else s

/-- Step 3: the dirty flag, and the written-since-snapshot flag while WRITING (R178). -/
def State.markWritten (s : State) : State := (s.setSets s.sets.touched).settleQuiet

/-! ### The accepted writes -/

def State.writeChannel (s : State) (c : ChanId) (r : ChannelRecord) : State :=
  ((s.putChannelRecord c r).restartChannel c (s.chanRec c).zones).markWritten

/-- Write Item of a zone record, accepted (R30, R49, R178). DESIGN CHOICE, unsafe (log 38): a zone that the write takes out
of use stays in the span of an active order that holds it; Table 3-3 calls the span a set of in-use zones, and R178 does not
say that it shrinks. -/
def State.writeZone (s : State) (z : ZoneId) (r : ZoneRecord) : State :=
  ((s.putZoneRecord z r).inProtecting (fun t =>
    (if !(s.zoneRec z).inUse && r.inUse then t.zoneEntersUse z else t).mapWritten)).markWritten

def State.writeLink (s : State) (l : LinkId) (x : Option (ZoneId × ZoneId)) : State :=
  ((s.putLink l x).inProtecting State.mapWritten).markWritten

def State.writeBreaker (s : State) (b : BreakerId) (r : BreakerRecord) : State :=
  ((s.putBreakerRecord b r).inProtecting (fun t =>
    (t.superviseBreaker b (s.breakerRec b).inUse r.inUse).mapWritten)).markWritten

def State.writePort (s : State) (p : PortId) (r : PortRecord) : State := (s.putPortRecord p r).markWritten

def State.writeFast (s : State) (f : Bool) : State := (s.putFast f).markWritten

/-! ### The checks of Table 10-3, in its order -/

/-- Write Item of a channel record. -/
def writeChannelBody (_p : PortId) (r : Request) (s : State) : State × Answer :=
  if h : r.byte 1 < 24 then
    let c : ChanId := ⟨r.byte 1, h⟩
    match r.channelRecord with
    | none => (s, .refuse .value)
    | some x =>
      if !channelStructureOk x then (s, .refuse .value)
      else if s.holdsMet ((look s.sets.working.channels c).zones ++ x.zones) then
        let t := s.writeChannel c x.clamped
        (t, writeAnswer (x.clamped == x) (encodeChannel (look t.sets.working.channels c)))
      else (s, .refuse .notHeld)
  else (s, .refuse .item)

/-- WRITE_CHANNEL_RECORD (R2, R3). -/
def execWriteChannelRecord (s : State) : Result := .next (s.complete .writeChannel writeChannelBody)

/-- Write Item of a zone record: HELD, or not in use before the write (R177). -/
def writeZoneBody (_p : PortId) (r : Request) (s : State) : State × Answer :=
  if h : r.byte 1 < 12 then
    let z : ZoneId := ⟨r.byte 1, h⟩
    match r.zoneRecord with
    | none => (s, .refuse .value)
    | some x =>
      if !zoneStructureOk s.sets.working z x then (s, .refuse .value)
      else if !(look s.sets.working.zones z).inUse || s.holdsMet [z] then
        let t := s.writeZone z x
        (t, writeAnswer true (encodeZone (look t.sets.working.zones z)))
      else (s, .refuse .notHeld)
  else (s, .refuse .item)

/-- WRITE_ZONE_RECORD (R30). -/
def execWriteZoneRecord (s : State) : Result := .next (s.complete .writeZone writeZoneBody)

/-- Write Item of a link slot. -/
def writeLinkBody (_p : PortId) (r : Request) (s : State) : State × Answer :=
  if h : r.byte 1 < 16 then
    let l : LinkId := ⟨r.byte 1, h⟩
    match r.linkSlot with
    | none => (s, .refuse .value)
    | some x =>
      if !linkStructureOk s.sets.working l x then (s, .refuse .value)
      else if s.holdsMet (linkZones (look s.sets.working.links l) ++ linkZones x) then
        let t := s.writeLink l x
        (t, writeAnswer true (encodeLink (look t.sets.working.links l)))
      else (s, .refuse .notHeld)
  else (s, .refuse .item)

/-- WRITE_LINK_SLOT (R32). -/
def execWriteLinkSlot (s : State) : Result := .next (s.complete .writeLink writeLinkBody)

/-- Write Item of a breaker record. -/
def writeBreakerBody (_p : PortId) (r : Request) (s : State) : State × Answer :=
  if h : r.byte 1 < 8 then
    let b : BreakerId := ⟨r.byte 1, h⟩
    match r.breakerRecord with
    | none => (s, .refuse .value)
    | some x =>
      if !breakerStructureOk s.sets.working x then (s, .refuse .value)
      else if s.holdsMet ((look s.sets.working.breakers b).sideZones ++ x.sideZones) then
        let t := s.writeBreaker b x.clamped
        (t, writeAnswer (x.clamped == x) (encodeBreaker (look t.sets.working.breakers b)))
      else (s, .refuse .notHeld)
  else (s, .refuse .item)

/-- WRITE_BREAKER_RECORD (R33, R34). -/
def execWriteBreakerRecord (s : State) : Result := .next (s.complete .writeBreaker writeBreakerBody)

/-- Write Item of a port record: no hold condition (R167). -/
def writePortBody (_p : PortId) (r : Request) (s : State) : State × Answer :=
  if h : r.byte 1 < 3 then
    let q : PortId := ⟨r.byte 1, h⟩
    let x := r.portRecord
    let t := s.writePort q x.clamped
    (t, writeAnswer (x.clamped == x) (encodePort (look t.sets.working.ports q)))
  else (s, .refuse .item)

/-- WRITE_PORT_RECORD (R167). -/
def execWritePortRecord (s : State) : Result := .next (s.complete .writePort writePortBody)

/-- Write Item of the global record. -/
def writeGlobalBody (_p : PortId) (r : Request) (s : State) : State × Answer :=
  if r.byte 1 = 0 then
    match r.fastFlag with
    | none => (s, .refuse .value)
    | some f => (s.writeFast f, writeAnswer true (flag1 (s.writeFast f).sets.working.fast))
  else (s, .refuse .item)

/-- WRITE_GLOBAL_RECORD (R176). -/
def execWriteGlobalRecord (s : State) : Result := .next (s.complete .writeGlobal writeGlobalBody)

/-! ### Commit, seconds, unknown -/

/-- Code of the settings store state (Table 10-2 order). -/
def SettingsStore.code : SettingsStore → Nat
  | .idle => 0
  | .writing => 1

/-- The generation after `g` (R179). -/
def nextGeneration (g : Nat) : Nat := (g + 1) % 65536

/-- A commit started: the snapshot, the timer, and the erase that makes the stored image invalid first (R179). -/
def State.startCommit (s : State) : State :=
  s.setSets { s.sets with
    store := .writing
    snapshot := some (s.sets.working, nextGeneration s.sets.generation)
    timer := some (s.after commitTime)
    writtenSince := false
    image := { s.sets.image with erased := true } }

/-- Commit Settings (R179): the answer carries WRITING and the generation before the commit. -/
def commitBody (_p : PortId) (_r : Request) (s : State) : State × Answer :=
  match s.sets.store with
  | .writing => (s, .refuse .busy)
  | .idle =>
    (s.startCommit, { code := .done, data := num1 s.startCommit.sets.store.code ++ num2 s.sets.generation })

/-- COMMIT_SETTINGS (R179). -/
def execCommitSettings (s : State) : Result := .next (s.complete .commitSettings commitBody)

/-- Set Seconds (R156): data bytes 0 to 3. -/
def setSecondsBody (_p : PortId) (r : Request) (s : State) : State × Answer :=
  (s.setTime { s.time with pendingSeconds := some (r.byte4 0) }, .plain .done)

/-- SET_SECONDS (R156). -/
def execSetSeconds (s : State) : Result := .next (s.complete .setSeconds setSecondsBody)

/-- A request of unknown kind (R167), and a Write Item of a kind not marked W (R172, R176). -/
def unknownBody (_p : PortId) (_r : Request) (s : State) : State × Answer := (s, .refuse .value)

/-- UNKNOWN_REQUEST (R163). -/
def execUnknownRequest (s : State) : Result := .next (s.complete .unknown unknownBody)

end Sys2Proof.Machine
end

