-- ==== Sys2Proof/Machine/Flags.lean ====
section
/-! DEFINITION. What is derived from the state and stored nowhere: the uncovered-zone map and the HEALTHY reasons
(chapter 11), and the levels of the output lines. A line is `true` while asserted; TE is `true` while on. An unpowered
part drives nothing (log 30). -/

namespace Sys2Proof.Machine

open Sys2Proof

/-- A zone is uncovered (R189). -/
def State.uncovered (s : State) (z : ZoneId) : Bool :=
  s.inService && (s.zoneRec z).inUse && (s.zone z).prot != .held && (ids 24).all (fun c => !s.ableToCover c z)

/-- The uncovered-zone map (R189). -/
def State.uncoveredMap (s : State) : Marks 12 := Marks.collect (fun z => s.uncovered z)

/-- The HEALTHY reasons as data byte 1 of Table 9-4 shows them (R190): in RESET and LOADING they read absent. -/
def State.reasons (s : State) : Byte :=
  if s.inService then
    BitVec.ofNat 8
      ((if s.uncoveredMap = 0 then 0 else 1)
        + (if s.lockout.fault then 2 else 0)
        + (if s.sets.failed then 4 else 0)
        + (if s.sup.supply = .low then 8 else 0)
        + (if s.sup.supply = .unknown then 16 else 0)
        + (if (ids 8).any (fun b => (s.input b).positionFault) then 32 else 0))
  else 0

/-- HEALTHY (R191). -/
def State.healthy (s : State) : Bool := s.mode == .protecting && s.reasons == 0

/-- The trip states in which TRIP is asserted (Table 3-5). -/
def TripPhase.driven : TripPhase → Bool
  | .driving | .holding | .failed => true
  | .idle | .openDone | .spent => false

/-- TRIPb_N (R62, R184). -/
def State.tripLine (s : State) (b : BreakerId) : Bool := s.inService && (s.trip b).phase.driven

/-- CIb_N (R92): asserted in RESET and LOADING, else as the mark. -/
def State.ciLine (s : State) (b : BreakerId) : Bool := s.powered && (!s.inService || s.locked b)

/-- UTu_N (R84, R184). -/
def State.utLevel (s : State) (u : UtId) : Bool := s.inService && (s.utLine u).asserted

/-- TEc (R118): on exactly while `c` is the current channel in the EMIT step. -/
def State.teLine (s : State) (c : ChanId) : Bool :=
  s.inService && s.batch.current == some c && s.batch.step == some .emit

/-- The slot is ANSWERED. -/
def Slot.isAnswered : Slot → Bool
  | .answered _ _ => true
  | .empty | .queued _ | .executing _ => false

/-- ATTNp_N (R169): released in RESET. -/
def State.attn (s : State) (p : PortId) : Bool :=
  let x := s.port p
  s.mode != .reset && (x.slot.isAnswered || s.unfetched p != 0 || x.frameError || x.dropped || x.lost)

/-- The bytes of the frame being sent. -/
def OutFrame.bytes : OutFrame → List Byte
  | .response bs => bs
  | .status _ _ bs => bs

/-- SDOp after `k` falling edges of SCKp in a transaction: absent while it is high-impedance, and the last bit of byte 23
once the frame has been sent (R159). -/
def State.sdo (s : State) (p : PortId) (k : Nat) : Option Bool :=
  (s.port p).outgoing.map (fun f => (f.bytes.flatMap byteBits).getD (min k 191) false)

end Sys2Proof.Machine
end

