-- ==== Sys2Proof/Machine/Items.lean ====
section
/-! DEFINITION. READ_ITEM: the codes of named values (R171; log 12), the content of each item (Table 9-5), and its pages
(R172). Settings fields are those of the working settings (R175). -/

namespace Sys2Proof.Machine

open Sys2Proof

/-! ### Codes: the position in the owning table's list of values -/

def UnitMode.code : UnitMode → Nat
  | .reset => 0
  | .loading => 1
  | .protecting => 2
  | .backstop => 3

def ChannelPhase.code : ChannelPhase → Nat
  | .off => 0
  | .warmup => 1
  | .quiet => 2
  | .pickup => 3
  | .confirmed => 4
  | .testing => 5
  | .faulted => 6

def FaultCause.code : FaultCause → Nat
  | .line => 0
  | .optical => 1

/-- The outcomes of a batch are coded 0 to 12, and a verdict uses the same codes (R171). -/
def Verdict.code : Verdict → Nat
  | .pass => 8
  | .weak => 9
  | .fail => 10
  | .stuck => 11
  | .learned => 12

def TestResult.code : TestResult → Nat
  | .none => 0
  | .pending => 1
  | .skippedOff => 2
  | .skippedLine => 3
  | .skippedWarmup => 4
  | .skippedBusy => 5
  | .skippedSole => 6
  | .withdrawn => 7
  | .verdict v => v.code

def Position.code : Position → Nat
  | .closed => 0
  | .opened => 1
  | .unknown => 2

def TripPhase.code : TripPhase → Nat
  | .idle => 0
  | .driving => 1
  | .holding => 2
  | .openDone => 3
  | .failed => 4
  | .spent => 5

def LockoutStore.code : LockoutStore → Nat
  | .idle => 0
  | .updating => 1
  | .updatingAgain => 2

def TestStep.code : TestStep → Nat
  | .emit => 0
  | .darken => 1

def SuspendCause.code : SuspendCause → Nat
  | .request => 0
  | .light => 1

def TimeStatus.code : TimeStatus → Nat
  | .unset => 0
  | .synced => 1
  | .freewheel => 2

def SupplyState.code : SupplyState → Nat
  | .unknown => 0
  | .ok => 1
  | .low => 2

def Slot.code : Slot → Nat
  | .empty => 0
  | .queued _ => 1
  | .executing _ => 2
  | .answered _ _ => 3

/-- asserted or released, in that order. -/
def assertedCode (b : Bool) : Nat := if b then 0 else 1

/-! ### Contents (Table 9-5) -/

/-- T, where the channel has a threshold (R28). -/
def State.thresholdOf (s : State) (c : ChanId) : Option Nat :=
  if (s.chan c).hasThreshold then some (threshold (s.chanRec c) (s.chan c)) else none

/-- The last test of a channel item: verdict, response, time stamp. -/
def encodeLastTest (t : Option LastTest) : List Byte :=
  opt1 (t.map (·.verdict.code)) ++ opt2 (t.map (·.response)) ++ stamp7 (t.map (·.time))

/-- The live fields of a channel item. -/
def State.channelLive (s : State) (c : ChanId) : List Byte :=
  let x := s.chan c
  num1 x.phase.code ++ opt1 (x.cause.map (·.code)) ++ flag1 x.early ++ num2 x.bfp ++ num1 x.count ++ stamp7 x.pickupTime
    ++ num2 x.peak ++ flag1 x.glare ++ opt2 (s.thresholdOf c) ++ opt2 ((s.thresholdOf c).map dropLevel) ++ num3 x.warmSum
    ++ num2 x.warmCount ++ num2 x.warmLength ++ num1 x.nonOkRun ++ num2 x.okRun ++ encodeLastTest x.lastTest

/-- A set of breakers given as a list, as a bitmap of one byte. -/
def breakerMap (bs : List BreakerId) : List Byte := num1 (bs.foldl (fun m b => Marks.add m b) (0 : Marks 8)).toNat

/-- A zone's hold list: a count, then each entry's port and remaining time (R116). -/
def State.encodeHolds (s : State) (z : ZoneId) : List Byte :=
  let es := (s.zone z).holdList
  num1 es.length ++ es.flatMap (fun e => num1 e.1.val ++ num2 (s.remainingSeconds e.2))

/-- The live fields of a zone item; island, boundary and trip set are computed at the read (R47). -/
def State.zoneLive (s : State) (z : ZoneId) : List Byte :=
  let x := s.zone z
  num1 x.prot.code ++ num3 x.confirmed.toNat ++ stamp7 x.litSince ++ flag1 x.alarmSent ++ flag1 x.noSourceSent
    ++ opt1 (x.orderSlot.map (·.val)) ++ num2 (s.island z).toNat ++ breakerMap (s.boundary (s.island z))
    ++ breakerMap (s.tripSet (s.island z)) ++ s.encodeHolds z ++ flag1 x.heldLightSent

/-- The live fields of a breaker item: the map's inputs, then the trip record. -/
def State.breakerLive (s : State) (b : BreakerId) : List Byte :=
  let i := s.input b
  let t := s.trip b
  flag1 i.bpc ++ flag1 i.bpo ++ num1 i.position.code ++ flag1 i.positionFault ++ num1 (assertedCode i.current)
    ++ flag1 i.curLine ++ flag1 i.closedAgainstLockout ++ num1 t.phase.code ++ num2 t.demands.toNat ++ flag1 t.failed

/-- A UT line item: level, claim set, assertion time. -/
def State.utItem (s : State) (u : UtId) : List Byte :=
  let x := s.utLine u
  num1 (assertedCode x.asserted) ++ num2 x.claims.toNat ++ stamp7 x.since

/-- The lockout item (R104). -/
def State.lockoutItem (s : State) : List Byte :=
  let x := s.lockout
  num1 x.marks.toNat ++ num1 x.store.code ++ opt1 (x.snapshot.map (·.toNat)) ++ flag1 x.fault

/-- The batch item (R139). -/
def State.batchItem (s : State) : List Byte :=
  let b := s.batch
  num1 b.state.code ++ num3 b.selected.toNat ++ flag1 b.learn ++ b.results.toList.flatMap (fun r => num1 r.code)
    ++ opt1 (b.current.map (·.val)) ++ opt1 (b.step.map (·.code)) ++ opt1 (b.cause.map (·.code))
    ++ flag1 b.quietTimer.isSome

/-- Pending seconds: a presence byte before the value, whose bytes are 0 when absent (R171). -/
def encodePending (x : Option Nat) : List Byte :=
  match x with
  | none => [0#8, 0#8, 0#8, 0#8, 0#8]
  | some v => 1#8 :: num4 v

/-- The time item (R158). -/
def State.timeItem (s : State) : List Byte :=
  let t := s.time
  num4 t.seconds ++ num3 t.micros ++ num1 t.status.code ++ encodePending t.pendingSeconds ++ flag1 t.applied
    ++ flag1 t.offWindow ++ flag1 t.freewheel.isSome

/-- The settings store item (R180). -/
def State.storeItem (s : State) : List Byte :=
  num1 s.sets.store.code ++ flag1 s.sets.failed ++ num2 s.sets.generation ++ flag1 s.sets.dirty

/-- The supervision item (R192). -/
def State.supervisionItem (s : State) : List Byte :=
  num1 s.mode.code ++ num1 s.sup.supply.code ++ num1 (assertedCode s.healthy) ++ [s.reasons] ++ num2 s.uncoveredMap.toNat

/-- `f` of the number `x` where it is below `n`. -/
def withIndex (n x : Nat) (f : Fin n → List Byte) : Option (List Byte) := (readFin n x).map f

/-- The content of an item; none where the kind does not exist or the index is out of range (Table 9-5). -/
def State.itemContent (s : State) (kind index : Nat) : Option (List Byte) :=
  let w := s.sets.working
  match kind with
  | 1 => withIndex 24 index (fun c => encodeChannel (look w.channels c) ++ s.channelLive c)
  | 2 => withIndex 12 index (fun z => encodeZone (look w.zones z) ++ s.zoneLive z)
  | 3 => withIndex 16 index (fun l => encodeLink (look w.links l))
  | 4 => withIndex 8 index (fun b => encodeBreaker (look w.breakers b) ++ s.breakerLive b)
  | 5 => withIndex 4 index (fun u => s.utItem u)
  | 6 => withIndex 1 index (fun _ => s.lockoutItem)
  | 7 => withIndex 1 index (fun _ => s.batchItem)
  | 8 => withIndex 1 index (fun _ => s.timeItem)
  | 9 => withIndex 3 index (fun p => encodePort (look w.ports p) ++ num1 (s.port p).slot.code ++ num1 (s.port p).skip)
  | 10 => withIndex 1 index (fun _ => flag1 w.fast)
  | 11 => withIndex 1 index (fun _ => s.storeItem)
  | 12 => withIndex 1 index (fun _ => s.supervisionItem)
  | _ => none

/-- Bytes of an item's content on one page (R172). -/
def itemPageSize : Nat := 18

/-- The page count: the length divided by the page's size, rounded up. -/
def pagesOf (size length : Nat) : Nat := (length + size - 1) / size

/-- Page `p` of a content. -/
def pageOf (size p : Nat) (content : List Byte) : List Byte := (content.drop (size * p)).take size

/-- Read Item (R172): kind, index and page in data bytes 0 to 2. -/
def readItemBody (_p : PortId) (r : Request) (s : State) : State × Answer :=
  match s.itemContent (r.byte 0) (r.byte 1) with
  | none => (s, .refuse .item)
  | some content =>
    let pages := pagesOf itemPageSize content.length
    if r.byte 2 < pages then (s, { code := .done, data := num1 pages ++ pageOf itemPageSize (r.byte 2) content })
    else (s, .refuse .value)

/-- READ_ITEM (R172). -/
def execReadItem (s : State) : Result := .next (s.complete .readItem readItemBody)

end Sys2Proof.Machine
end

