-- ==== Sys2Proof/Machine/Records.lean ====
section
/-! DEFINITION. FETCH_RECORD and PEEK_ORDER: record pages (R173), the checks and the cursor (R149, R150). -/

namespace Sys2Proof.Machine

open Sys2Proof

/-- The kind's number in a page header (R173). -/
def RecordBody.code : RecordBody → Nat
  | .arc _ => 0
  | .noSource _ _ _ => 1
  | .lightAlarm _ _ _ => 2
  | .heldLight _ _ => 3
  | .channelFault _ _ _ => 4
  | .holdExpired _ _ => 5
  | .timeStep _ _ _ => 6

/-- Outcome bits of a breaker entry: 0 absent, then 1 to 3 (R173). -/
def outcomeBits (o : Option BreakerOutcome) : Nat :=
  match o with
  | none => 0
  | some .opened => 1
  | some .failedThenOpened => 2
  | some .spent => 3

/-- A channel entry: channel, pickup offset, peak. An absent offset reads as all ones. -/
def encodeChannelEntry (e : ChannelEntry) : List Byte := num1 e.chan.val ++ opt2 e.offset ++ num2 e.peak

/-- A breaker entry: breaker, level in bits 7 to 6 with the outcome in bits 1 to 0, open offset. -/
def encodeEntry (e : Entry) : List Byte :=
  num1 e.breaker.val ++ num1 (e.level * 64 + outcomeBits e.outcome) ++ opt2 e.offset

/-- A list: a count byte, then the entries in order (R171). -/
def encodeList {α : Type} (f : α → List Byte) (l : List α) : List Byte := num1 l.length ++ l.flatMap f

/-- The origin channel's pickup time in an ARC record. -/
def ArcRecord.originPickup (r : ArcRecord) : Option Stamp :=
  (r.channels.find? (fun e => some e.chan == r.origin)).bind (·.pickup)

/-- Flags of an ARC record (Table 9-7). -/
def ArcRecord.flags (r : ArcRecord) : Nat :=
  (if r.escLimit then 1 else 0) + (if r.supplyLow then 2 else 0) + (if r.timeStep then 4 else 0)
    + r.decisionStatus.code * 8

/-- Bytes 10 to 18 of page 0 (Table 9-7). -/
def RecordBody.kindFields : RecordBody → List Byte
  | .arc r =>
    num1 r.slot.val ++ num1 r.level ++ opt1 (r.source.map (·.val)) ++ num1 r.flags ++ num2 r.span.toNat
      ++ num1 r.ut.toNat ++ num1 r.noUpstream.toNat ++ opt1 (r.origin.map (·.val))
  | .noSource z origin _ => num1 z.val ++ opt1 (origin.map (·.val))
  | .lightAlarm z origin since => num1 z.val ++ opt1 (origin.map (·.val)) ++ stamp7 since
  | .heldLight z c => num1 z.val ++ num1 c.val
  | .channelFault c cause v => num1 c.val ++ num1 cause.code ++ opt1 (v.map (·.code))
  | .holdExpired z p => num1 z.val ++ num1 p.val
  | .timeStep oldSec oldUs _ => num4 oldSec ++ num3 oldUs

/-- The continuation that the later pages carry (R173). -/
def RecordBody.continuation : RecordBody → List Byte
  | .arc r =>
    stamp7 (some r.decision) ++ stamp7 r.resolution ++ stamp7 r.originPickup
      ++ encodeList (fun z : ZoneId => num1 z.val) r.zones ++ encodeList encodeChannelEntry r.channels
      ++ encodeList encodeEntry r.breakers
  | .noSource _ _ channels => num3 channels.toNat
  | .lightAlarm _ _ _ | .heldLight _ _ | .channelFault _ _ _ | .holdExpired _ _ | .timeStep _ _ _ => []

/-- Bytes of the continuation on one later page (R173). -/
def recordPageSize : Nat := 16

/-- The page count of a record. -/
def RecordBody.pages (b : RecordBody) : Nat := 1 + pagesOf recordPageSize b.continuation.length

/-- The header of every page; the sequence number reads 0xFFFF while absent (R173). -/
def RecordBody.header (b : RecordBody) (seq : Option Nat) : List Byte := num1 (b.pages * 16 + b.code) ++ opt2 seq

/-- The seal time of page 0, with the time status in bits 7 to 6 of its fifth byte (Table 9-6). An absent time reads all
ones in its seconds and in the twenty bits of its microseconds, and bits 5 to 4 are 0 in both cases (log 13). -/
def sealTimeBytes (t : Option Stamp) (status : TimeStatus) : List Byte :=
  match t with
  | none => num4 0xFFFFFFFF ++ num3 (status.code * 4194304 + 0xFFFFF)
  | some t => num4 t.sec ++ num3 (status.code * 4194304 + t.us)

/-- Page `p` of a record (Tables 9-6, 9-7). -/
def recordPage (b : RecordBody) (seq : Option Nat) (time : Option Stamp) (status : TimeStatus) (p : Nat) : List Byte :=
  b.header seq ++
    (if p = 0 then sealTimeBytes time status ++ b.kindFields
      else pageOf recordPageSize (p - 1) b.continuation)

/-- A page of a sealed record. -/
def SealedRecord.page (r : SealedRecord) (p : Nat) : List Byte := recordPage r.body (some r.seq) (some r.time) r.status p

/-- The record at a port's cursor. -/
def State.recordAt (s : State) (p : PortId) : Option SealedRecord := s.ring.find? (fun r => r.seq == (s.port p).cursor)

/-- The effect of a fetch that passes: LOST is cleared, and the cursor advances where asked (R149). -/
def State.fetched (s : State) (p : PortId) (advance : Bool) : State :=
  let x := s.port p
  s.setPort p { x with lost := false, cursor := if advance then (x.cursor + 1) % 65536 else x.cursor }

/-- Fetch Record (R149): page in data byte 0, advance flag in byte 1 (R174). A port with an unfetched count above 0 has a
record at its cursor (R148), so the second EMPTY is of states that no run reaches. -/
def fetchBody (p : PortId) (r : Request) (s : State) : State × Answer :=
  if s.unfetched p = 0 then (s, .refuse .empty)
  else
    match s.recordAt p with
    | none => (s, .refuse .empty)
    | some x =>
      if r.byte 0 < x.body.pages then
        (s.fetched p (r.byte 1 != 0),
          { code := if (s.port p).lost then .doneLost else .done, data := x.page (r.byte 0) })
      else (s, .refuse .value)

/-- FETCH_RECORD (R149). -/
def execFetchRecord (s : State) : Result := .next (s.complete .fetchRecord fetchBody)

/-- Peek Order (R150): slot in data byte 0, page in byte 1. The record is shown as R146 would complete it now. -/
def peekBody (_p : PortId) (r : Request) (s : State) : State × Answer :=
  match (readFin 12 (r.byte 0)).bind (fun o => (s.order o).map (fun x => RecordBody.arc (s.arcRecord o x))) with
  | none => (s, .refuse .item)
  | some b =>
    if r.byte 1 < b.pages then
      (s, { code := .done, data := recordPage b none none s.time.status (r.byte 1) })
    else (s, .refuse .value)

/-- PEEK_ORDER (R150). -/
def execPeekOrder (s : State) : Result := .next (s.complete .peekOrder peekBody)

end Sys2Proof.Machine
end

