-- ==== Sys2Proof/Machine/Transactions.lean ====
section
/-! DEFINITION. TRANSACTION_START and TRANSACTION_END: frames (Tables 9-3, 9-4), delivery (R162) and the examination of
the incoming frame (R163). -/

namespace Sys2Proof.Machine

open Sys2Proof

/-! ### Outgoing frames -/

/-- The bytes of a frame: 23 bytes and their check byte (R160). -/
def sealFrame (body : List Byte) : List Byte := body ++ [crc8 body]

/-- Bytes padded with 0 to a length, as unused bytes are sent (R168, R170). -/
def padded (n : Nat) (l : List Byte) : List Byte := (l ++ List.replicate n 0#8).take n

/-- A RESPONSE frame (Table 9-3). -/
def responseFrame (r : Request) (a : Answer) : List Byte :=
  sealFrame ([0xC3#8, r.kind, r.tag] ++ num1 a.code.code ++ padded 19 a.data)

/-- The request in a slot. -/
def Slot.request : Slot → Option Request
  | .empty => none
  | .queued r | .executing r => some r
  | .answered r _ => some r

/-- Unit mode in a STATUS frame (Table 9-4). In RESET no frame is fixed. -/
def UnitMode.statusCode : UnitMode → Nat
  | .reset | .loading => 0
  | .protecting => 1
  | .backstop => 2

/-- Data byte 0 (Table 9-4). -/
def State.statusMode (s : State) : Nat :=
  s.mode.statusCode + (if s.healthy then 4 else 0) + s.time.status.code * 8

/-- The byte with the protection states of four zones, the lowest in bits 1 to 0. -/
def State.fourZones (s : State) (a b c d : ZoneId) : Nat :=
  (s.zone a).prot.code + (s.zone b).prot.code * 4 + (s.zone c).prot.code * 16 + (s.zone d).prot.code * 64

/-- A map of 12 marks in two bytes, 0 to 7 first (Table 9-4). -/
def lowHigh (m : Marks 12) : List Byte := num1 (m.toNat % 256) ++ num1 (m.toNat / 256)

/-- The held map (Table 9-4). -/
def State.heldMap (s : State) : Marks 12 := Marks.collect (fun z => (s.zone z).hasHold)
/-- The active-order map. -/
def State.orderMap (s : State) : Marks 12 := Marks.collect (fun o => (s.order o).isSome)
/-- The non-IDLE map. -/
def State.busyMap (s : State) : Marks 8 := Marks.collect (fun b => (s.trip b).phase != .idle)
/-- The UT line levels. -/
def State.utMap (s : State) : Marks 4 := Marks.collect (fun u => s.utLevel u)

/-- Data byte 11: UT levels, batch state, and the port's toggles. -/
def State.statusBatch (s : State) (p : PortId) : Nat :=
  s.utMap.toNat + s.batch.state.code * 16 + (if (s.port p).run then 64 else 0) + (if (s.port p).halt then 128 else 0)

/-- Data byte 12: the current test channel. -/
def State.statusChannel (s : State) : Nat :=
  match s.batch.current with
  | none => 0
  | some c => 128 + c.val

/-- Data byte 13: the two stores. -/
def State.statusStores (s : State) : Nat :=
  s.lockout.store.code + (if s.lockout.fault then 4 else 0) + s.sets.store.code * 8 + (if s.sets.failed then 16 else 0)
    + (if s.sets.dirty then 32 else 0)

/-- Data byte 16: the port's unfetched count and flags. -/
def State.statusPort (s : State) (p : PortId) : Nat :=
  s.unfetched p % 32 + (if (s.port p).frameError then 32 else 0) + (if (s.port p).dropped then 64 else 0)
    + (if (s.port p).lost then 128 else 0)

/-- Status data bytes 0 to 18 (Table 9-4). -/
def State.statusData (s : State) (p : PortId) : List Byte :=
  num1 s.statusMode ++ [s.reasons] ++ num1 (s.fourZones 0 1 2 3) ++ num1 (s.fourZones 4 5 6 7)
    ++ num1 (s.fourZones 8 9 10 11) ++ lowHigh s.heldMap ++ lowHigh s.orderMap ++ num1 s.lockout.marks.toNat
    ++ num1 s.busyMap.toNat ++ num1 (s.statusBatch p) ++ num1 s.statusChannel ++ num1 s.statusStores
    ++ num2 s.sets.generation ++ num1 (s.statusPort p) ++ lowHigh s.uncoveredMap

/-- Status data bytes while LOADING: bytes 0 and 16 only (R161). -/
def State.loadingData (s : State) (p : PortId) : List Byte :=
  num1 s.statusMode ++ List.replicate 15 0#8 ++ num1 (s.statusPort p) ++ [0#8, 0#8]

/-- A STATUS frame (Tables 9-3, 9-4). -/
def State.statusFrame (s : State) (p : PortId) : List Byte :=
  let slot := (s.port p).slot
  sealFrame ([0x3C#8] ++ num1 (p.val + slot.code * 16) ++ [(slot.request.map (·.tag)).getD 0#8]
    ++ [(slot.request.map (·.kind)).getD 0#8] ++ if s.inService then s.statusData p else s.loadingData p)

/-- The toggles after a STATUS frame fixed under a batch state (R138). -/
def Port.flipped (x : Port) (b : BatchState) : Port :=
  match b with
  | .gathering | .running => { x with run := !x.run }
  | .suspended => { x with halt := !x.halt }
  | .idle => x

/-- A STATUS frame fixed for a port: the toggle flips first, and the frame shows it (R138, R161). In LOADING no toggle is
flipped. -/
def State.fixStatus (s : State) (p : PortId) : State :=
  let s1 := if s.inService then s.setPort p ((s.port p).flipped s.batch.state) else s
  let x := s1.port p
  s1.setPort p { x with outgoing := some (.status x.frameError x.dropped (s1.statusFrame p)) }

/-- The outgoing frame fixed at a transaction's start (R161). -/
def State.fixFrame (s : State) (p : PortId) : State :=
  match (s.port p).slot with
  | .answered r a => s.setPort p { s.port p with outgoing := some (.response (responseFrame r a)) }
  | .empty | .queued _ | .executing _ => s.fixStatus p

/-- TRANSACTION_START (R159, R161). In RESET the port takes no transaction, and only the line moves. A line that is
asserted already is no start (log 5). -/
def execTransactionStart (p : PortId) (s : State) : Result :=
  if (s.port p).selected then .next s
  else
    let s1 := s.setPort p { s.port p with selected := true }
    .next (if s.mode = .reset then s1 else s1.fixFrame p)

/-! ### The end -/

/-- Bytes of a frame (R159). -/
def frameLength : Nat := 24

/-- Exactly 24 whole bytes and no part of a 25th (R159). -/
def lengthOk (bytes : List Byte) (extraBits : Nat) : Bool := bytes.length == frameLength && extraBits == 0

/-- The check byte agrees (R160). -/
def crcOk (bytes : List Byte) : Bool := bytes.getD 23 0#8 == crc8 (bytes.take 23)

/-- What the delivery of a frame does to its port (R162). -/
def Port.delivered (x : Port) (f : OutFrame) : Port :=
  match f with
  | .response _ => { x with slot := .empty }
  | .status frameError dropped _ =>
    { x with frameError := x.frameError && !frameError, dropped := x.dropped && !dropped }

/-- The request in a frame (Table 9-3): kind, tag, data bytes 0 to 20. -/
def frameRequest (bytes : List Byte) : Request :=
  { kind := bytes.getD 0 0#8, tag := bytes.getD 1 0#8, data := (bytes.drop 2).take 21 }

/-- A request taken into an empty slot, and granted at once by an idle executor (R163, R165). -/
def State.takeRequest (s : State) (p : PortId) (r : Request) : State :=
  let s1 := s.setPort p { s.port p with slot := .queued r }
  if s.executing.isNone then s1.grantTo p else s1

/-- The incoming frame examined (R163). -/
def State.examine (s : State) (p : PortId) (bytes : List Byte) (extraBits : Nat) : State :=
  if lengthOk bytes extraBits && crcOk bytes then
    if (frameRequest bytes).kind = 0 then s
    else
      match (s.port p).slot with
      | .empty => s.takeRequest p (frameRequest bytes)
      | .queued _ | .executing _ | .answered _ _ => s.setPort p { s.port p with dropped := true }
  else s.setPort p { s.port p with frameError := true }

/-- The end of a transaction that has a frame `f` (R162, R163). -/
def State.endTransaction (s : State) (p : PortId) (f : OutFrame) (bytes : List Byte) (extraBits : Nat) : State :=
  let x := { s.port p with selected := false, outgoing := none }
  (s.setPort p (if lengthOk bytes extraBits then x.delivered f else x)).examine p bytes extraBits

/-- TRANSACTION_END (R162): with no transaction under way (a line that is released already, or one abandoned by a reset,
R159) only the line moves. -/
def execTransactionEnd (p : PortId) (bytes : List Byte) (extraBits : Nat) (s : State) : Result :=
  if 7 < extraBits then .fault .partialByteOutOfRange
  else
    match (s.port p).outgoing with
    | none => .next (s.setPort p { s.port p with selected := false })
    | some f => .next (s.endTransaction p f bytes extraBits)

end Sys2Proof.Machine
end

