-- ==== Sys2Proof/Machine/Unit.lean ====
section
/-! DEFINITION. The unit's modes: POWER_ON_RESET, RESET_N, RESET_END, LOADING_END, LOSS_OF_POWER (section 10.4) and
TRIP_SUPPLY_READING (R187). -/

namespace Sys2Proof.Machine

open Sys2Proof

/-! ### Resets -/

/-- What every reset does (R182): the unit enters RESET, and every block has its reset values. Line levels are the
outside's and stay. A store operation under way is abandoned: the lockout word and the settings image stay as its start
left them, invalid (R102, R186). Record ring, counter and cursors are left to the caller (R151). -/
def State.enterReset (s : State) : State :=
  { s with
    mode := .reset
    channels := Vector.replicate 24 Channel.atReset
    inputs := s.inputs.map (fun i => Inputs.atReset i.bpc i.bpo i.curLine)
    zones := Vector.replicate 12 Zone.atReset
    orders := Vector.replicate 12 none
    trips := Vector.replicate 8 Trip.atReset
    ut := Vector.replicate 4 UtLine.atReset
    lockout := Lockout.atReset s.lockout.word
    batch := Batch.atReset
    time := TimeBase.atReset
    ports := s.ports.map (fun p => Port.atReset p.selected p.cursor)
    sets := SettingsUnit.atReset s.sets.image
    sup := Supervision.atReset
    execLimit := none
    loadLimit := none }

/-- Every cursor at a sequence number. -/
def State.setCursors (s : State) (n : Nat) : State := { s with ports := s.ports.map (fun p => { p with cursor := n }) }

/-- The record unit emptied (R151). -/
def State.emptyRing (s : State) : State := { s.setCursors 0 with ring := [], nextSeq := 0 }

/-- The sequence number of the oldest record, or the counter when there is none (R151). -/
def State.oldestSeq (s : State) : Nat :=
  match s.ring with
  | [] => s.nextSeq
  | r :: _ => r.seq

/-- POWER_ON_RESET (R182, R151): the supplies rise, and the unit is held in RESET. -/
def execPowerOnReset (s : State) : Result := .next { s.enterReset.emptyRing with powered := true }

/-- RESET_N (R182, R151): ring and counter are kept, and each cursor moves to the oldest record. Without power there is no
such event (log 30). -/
def execResetN (s : State) : Result :=
  if s.powered then .next (s.enterReset.setCursors s.oldestSeq) else .next s

/-- LOSS_OF_POWER (R92, R102): everything but the two nonvolatile stores is lost (log 30). -/
def execLossOfPower (s : State) : Result := .next { s.enterReset.emptyRing with powered := false }

/-- RESET_END (R182): the reset condition has ended, and the unit enters LOADING. -/
def execResetEnd (s : State) : Result :=
  if s.powered && s.mode == .reset then .next { s with mode := .loading, loadLimit := some (s.after loadTime) }
  else .next s

/-! ### The end of LOADING -/

/-- The stored image is valid (R181). -/
def StoredImage.valid (i : StoredImage) : Bool :=
  !i.erased && i.crc == crc16 (imageBytes i.settings i.generation) && i.settings.buildable

/-- The settings unit at the entry to PROTECTING (R175, R183). -/
def SettingsUnit.loaded (i : StoredImage) : SettingsUnit :=
  { SettingsUnit.atReset i with working := i.settings, generation := i.generation }

/-- The settings unit at the entry to BACKSTOP (R175, R183). -/
def SettingsUnit.defaulted (i : StoredImage) : SettingsUnit := { SettingsUnit.atReset i with dirty := true }

/-- The settings load and the mode that it gives (R182, R183). -/
def State.loadSettings (s : State) : State :=
  if s.sets.image.valid then { s with mode := .protecting, sets := .loaded s.sets.image }
  else { s with mode := .backstop, sets := .defaulted s.sets.image }

/-- The lockout set from the word, or all LOCKED with an update started (R101). -/
def State.loadLockouts (s : State) : State :=
  if s.lockout.word.valid then s.setLockout { Lockout.atReset s.lockout.word with marks := s.lockout.word.marks }
  else (s.setLockout (Lockout.atReset s.lockout.word)).startUpdate

/-- A breaker's live inputs at the entry (R38): the stability timer runs, the filter timer runs where the line is high,
and the UNKNOWN timer runs for a breaker in use. -/
def State.startInputs (s : State) (b : BreakerId) : Inputs :=
  let i := s.input b
  { Inputs.atReset i.bpc i.bpo i.curLine with
    stability := some (s.after stabilityTime)
    filterTimer := if i.curLine then some (s.after filterTime) else none
    unknownTimer := if (s.breakerRec b).inUse then some (s.after unknownTime) else none }

/-- The start values of Table 10-5 under the mode and the settings just loaded. Time base and port slots run on since the
end of RESET (log 28). -/
def State.startBlocks (s : State) : State :=
  { s with
    channels := Vector.ofFn (fun c => Channel.atEntry (s.chanRec c) s.inForce.fast)
    inputs := Vector.ofFn (fun b => s.startInputs b)
    zones := Vector.replicate 12 Zone.atReset
    orders := Vector.replicate 12 none
    trips := Vector.replicate 8 Trip.atReset
    ut := Vector.replicate 4 UtLine.atReset
    batch := Batch.atReset
    sup := Supervision.atReset
    loadLimit := none }

/-- LOADING_END (R182, R183): both store reads have finished. -/
def execLoadingEnd (s : State) : Result :=
  if s.mode = .loading then .next s.loadSettings.loadLockouts.startBlocks else .next s

/-! ### The trip supply -/

/-- The trip-supply state after two agreeing readings (R187). -/
def SupplyState.agreed (good : Bool) : SupplyState := if good then .ok else .low

/-- A reading compared with the last one, and stored (R187). -/
def Supervision.read (x : Supervision) (good : Bool) : Supervision :=
  { supply := if x.lastReading = some good then .agreed good else x.supply, lastReading := some good }

/-- TRIP_SUPPLY_READING (R187): in RESET and LOADING no reading is taken. -/
def execTripSupplyReading (good : Bool) (s : State) : Result :=
  if s.inService then .next { s with sup := s.sup.read good } else .next s

end Sys2Proof.Machine
end

