-- ==== Sys2Proof/Machine/Clock.lean ====
section
/-! DEFINITION. The tick: what a step does when no command waits (log 3). A timer that is due gives its command; with none
due, running time and the time base advance by 1 µs. -/

namespace Sys2Proof.Machine

open Sys2Proof

/-- The command `c` where a timer that ends at `t` is due at `now`. -/
def dueAt (now : Nat) (t : Option Nat) (c : Instr) : List Instr :=
  match t with
  | none => []
  | some e => if e ≤ now then [c] else []

/-- The end of a UT line's minimum timer. -/
def MinimumTimer.ending : MinimumTimer → Option Nat
  | .running e => some e
  | .stopped | .runOut => none

/-- Timers of a breaker that are due. -/
def State.breakerDue (s : State) (b : BreakerId) : List Instr :=
  let i := s.input b
  let t := s.trip b
  dueAt s.now i.stability (.positionChange b) ++ dueAt s.now i.unknownTimer (.positionFaultTimerExpiry b)
    ++ dueAt s.now i.filterTimer (.filteredCurrentChange b)
    ++ (if t.phase = .driving then dueAt s.now t.bfTimer (.bfTimerExpiry b) else [])
    ++ dueAt s.now t.minTimer (.minimumPulseTimerExpiry b)
    ++ (if t.phase = .failed then dueAt s.now t.ceilTimer (.pulseCeilingTimerExpiry b) else [])

/-- Timers of a zone that are due: its light alarm and its hold entries. -/
def State.zoneDue (s : State) (z : ZoneId) : List Instr :=
  (if (s.zone z).prot = .lit then dueAt s.now (s.zone z).alarmTimer (.lightAlarmTimerExpiry z) else [])
    ++ (ids 3).flatMap (fun p => dueAt s.now (s.holdOf z p) (.holdExpiry z p))

/-- Timers of the test engine that are due. -/
def State.batchDue (s : State) : List Instr :=
  let b := s.batch
  (if b.state = .gathering then dueAt s.now b.windowExpiry .gatheringWindowExpiry else [])
    ++ dueAt s.now b.settleTimer .settleTimerExpiry
    ++ (if b.current.isSome ∧ b.step = some .darken then dueAt s.now b.darkenTimer .darkenTimerExpiry else [])
    ++ (if b.state = .suspended then dueAt s.now b.quietTimer .quietTimerExpiry else [])

/-- The timers of the blocks, which run in PROTECTING and BACKSTOP. -/
def State.blocksDue (s : State) : List Instr :=
  if s.inService then
    (ids 8).flatMap (fun b => s.breakerDue b) ++ (ids 12).flatMap (fun z => s.zoneDue z)
      ++ (ids 12).flatMap (fun o => dueAt s.now ((s.order o).bind (·.closeTimer)) (.closeTimerExpiry o))
      ++ (ids 4).flatMap (fun u => dueAt s.now (s.utLine u).minimum.ending (.utMinimumTimerExpiry u)) ++ s.batchDue
  else []

/-- The execution under way completes at the latest 20 µs after its grant (R165). -/
def State.executionDue (s : State) : List Instr :=
  match s.executing with
  | none => []
  | some (_, r) => dueAt s.now s.execLimit r.row.command

/-- Every command whose time has come. -/
def State.due (s : State) : List Instr :=
  s.blocksDue ++ dueAt s.now s.lockout.timer .lockoutUpdateTimerExpiry ++ dueAt s.now s.sets.timer .commitTimerExpiry
    ++ dueAt s.now s.time.freewheel .freewheelTimerExpiry ++ s.executionDue
    ++ (if s.mode = .loading then dueAt s.now s.loadLimit .loadingEnd else [])

/-- The command that a tick takes: the only one due, or one of several by the free value (log 3). -/
def State.dueCommand (s : State) : Option Instr :=
  match s.due with
  | [] => none
  | [c] => some c
  | c :: cs => some ((c :: cs).getD (Config.firstOfTies s.ties % (c :: cs).length) c)

/-- The counter of free choices moved on. -/
def State.tieTaken (s : State) : State := { s with ties := s.ties + 1 }

/-- The microsecond count and the seconds one microsecond later (R152). -/
def TimeBase.advanced (t : TimeBase) : TimeBase :=
  if 999999 ≤ t.micros then t.rolled else { t with micros := t.micros + 1 }

/-- One microsecond of running time. In RESET the time base stands at 0 (R152), and without power nothing runs. -/
def State.advance (s : State) : State :=
  if s.powered then
    { s with now := s.now + 1, time := if s.mode = .reset then s.time else s.time.advanced }
  else s

end Sys2Proof.Machine
end

