-- ==== Sys2Proof/Machine/Dispatch.lean ====
section
/-! DEFINITION. One arm for each command. -/

namespace Sys2Proof.Machine

open Sys2Proof

def exec (i : Instr) (s : State) : Host.Outcome State Fault Refusal :=
  match i with
  | .sampleArrival ch v line => Sys2Proof.Machine.execSampleArrival ch v line s
  | .lineFault ch => Sys2Proof.Machine.execLineFault ch s
  | .lineRecovery ch => Sys2Proof.Machine.execLineRecovery ch s
  | .contactLineChange b bpc bpo => Sys2Proof.Machine.execContactLineChange b bpc bpo s
  | .positionChange b => Sys2Proof.Machine.execPositionChange b s
  | .positionFaultTimerExpiry b => Sys2Proof.Machine.execPositionFaultTimerExpiry b s
  | .currentLineChange b level => Sys2Proof.Machine.execCurrentLineChange b level s
  | .filteredCurrentChange b => Sys2Proof.Machine.execFilteredCurrentChange b s
  | .lightAlarmTimerExpiry z => Sys2Proof.Machine.execLightAlarmTimerExpiry z s
  | .closeTimerExpiry o => Sys2Proof.Machine.execCloseTimerExpiry o s
  | .bfTimerExpiry b => Sys2Proof.Machine.execBfTimerExpiry b s
  | .minimumPulseTimerExpiry b => Sys2Proof.Machine.execMinimumPulseTimerExpiry b s
  | .pulseCeilingTimerExpiry b => Sys2Proof.Machine.execPulseCeilingTimerExpiry b s
  | .utMinimumTimerExpiry u => Sys2Proof.Machine.execUtMinimumTimerExpiry u s
  | .lockoutUpdateCompletion => Sys2Proof.Machine.execLockoutUpdateCompletion s
  | .lockoutUpdateTimerExpiry => Sys2Proof.Machine.execLockoutUpdateTimerExpiry s
  | .holdExpiry z p => Sys2Proof.Machine.execHoldExpiry z p s
  | .gatheringWindowExpiry => Sys2Proof.Machine.execGatheringWindowExpiry s
  | .settleTimerExpiry => Sys2Proof.Machine.execSettleTimerExpiry s
  | .darkenTimerExpiry => Sys2Proof.Machine.execDarkenTimerExpiry s
  | .quietTimerExpiry => Sys2Proof.Machine.execQuietTimerExpiry s
  | .rollover => Sys2Proof.Machine.execRollover s
  | .syncPulse => Sys2Proof.Machine.execSyncPulse s
  | .freewheelTimerExpiry => Sys2Proof.Machine.execFreewheelTimerExpiry s
  | .transactionStart p => Sys2Proof.Machine.execTransactionStart p s
  | .transactionEnd p bytes extraBits => Sys2Proof.Machine.execTransactionEnd p bytes extraBits s
  | .readItem => Sys2Proof.Machine.execReadItem s
  | .writeChannelRecord => Sys2Proof.Machine.execWriteChannelRecord s
  | .writeZoneRecord => Sys2Proof.Machine.execWriteZoneRecord s
  | .writeLinkSlot => Sys2Proof.Machine.execWriteLinkSlot s
  | .writeBreakerRecord => Sys2Proof.Machine.execWriteBreakerRecord s
  | .writePortRecord => Sys2Proof.Machine.execWritePortRecord s
  | .writeGlobalRecord => Sys2Proof.Machine.execWriteGlobalRecord s
  | .holdZone => Sys2Proof.Machine.execHoldZone s
  | .freeZone => Sys2Proof.Machine.execFreeZone s
  | .releaseLockout => Sys2Proof.Machine.execReleaseLockout s
  | .testChannels => Sys2Proof.Machine.execTestChannels s
  | .suspendTest => Sys2Proof.Machine.execSuspendTest s
  | .resumeTest => Sys2Proof.Machine.execResumeTest s
  | .fetchRecord => Sys2Proof.Machine.execFetchRecord s
  | .peekOrder => Sys2Proof.Machine.execPeekOrder s
  | .commitSettings => Sys2Proof.Machine.execCommitSettings s
  | .setSeconds => Sys2Proof.Machine.execSetSeconds s
  | .unknownRequest => Sys2Proof.Machine.execUnknownRequest s
  | .commitCompletion => Sys2Proof.Machine.execCommitCompletion s
  | .commitTimerExpiry => Sys2Proof.Machine.execCommitTimerExpiry s
  | .powerOnReset => Sys2Proof.Machine.execPowerOnReset s
  | .resetN => Sys2Proof.Machine.execResetN s
  | .resetEnd => Sys2Proof.Machine.execResetEnd s
  | .loadingEnd => Sys2Proof.Machine.execLoadingEnd s
  | .tripSupplyReading good => Sys2Proof.Machine.execTripSupplyReading good s
  | .lossOfPower => Sys2Proof.Machine.execLossOfPower s

end Sys2Proof.Machine
end

