-- ==== Sys2Proof/Machine/Step.lean ====
section
/-! DEFINITION. One step: the command at the front of the queue, or a tick (log 3). -/

namespace Sys2Proof.Machine

open Sys2Proof

/-- With no command waiting, the timer that is due, or one microsecond. -/
def tick (s : State) : Host.Outcome State Fault Refusal :=
  match s.dueCommand with
  | none => .next s.advance
  | some c => exec c s.tieTaken

/-- The command at the front of the queue, run with the queue's rest; on an empty queue a tick. -/
def step (s : State) : Host.Outcome State Fault Refusal :=
  match s.pending with
  | [] => tick s
  | c :: rest => exec c (s.setPending rest)

/-- The command that a table word spells, put at the front of the queue; `s` where it spells none. -/
def State.withFetchWord (s : State) (nbits w : Nat) : State :=
  match decodeTableWord nbits w with
  | none => s
  | some c => s.setPending (c :: s.pending)

end Sys2Proof.Machine
end

