-- ==== Sys2Proof/Safety.lean ====
section
/-! DEFINITION. The terms in which claims are stated: what a command leaves alone, how a completion leaves the ports, and
the invariants that the manual's prose states of every moment. -/

namespace Sys2Proof.Safety

open Sys2Proof Sys2Proof.Machine

/-! ### Frames -/

/-- The parts of the state a frame speaks of. -/
inductive Part where
  | mode
  | channels
  | inputs
  | zones
  | orders
  | trips
  | ut
  | lockout
  | batch
  | records
  | time
  | ports
  | sets
  | sup
  | limits
  deriving DecidableEq, Repr

/-- `t` differs from `s` in no part outside `ps`. The queue, running time and the counter of free choices are no part that
a command changes. -/
def SameBut (ps : List Part) (s t : State) : Prop :=
  t.pending = s.pending ∧ t.now = s.now ∧ t.ties = s.ties
    ∧ (.mode ∈ ps ∨ (t.mode = s.mode ∧ t.powered = s.powered))
    ∧ (.channels ∈ ps ∨ t.channels = s.channels)
    ∧ (.inputs ∈ ps ∨ t.inputs = s.inputs)
    ∧ (.zones ∈ ps ∨ t.zones = s.zones)
    ∧ (.orders ∈ ps ∨ t.orders = s.orders)
    ∧ (.trips ∈ ps ∨ t.trips = s.trips)
    ∧ (.ut ∈ ps ∨ t.ut = s.ut)
    ∧ (.lockout ∈ ps ∨ t.lockout = s.lockout)
    ∧ (.batch ∈ ps ∨ t.batch = s.batch)
    ∧ (.records ∈ ps ∨ (t.ring = s.ring ∧ t.nextSeq = s.nextSeq))
    ∧ (.time ∈ ps ∨ t.time = s.time)
    ∧ (.ports ∈ ps ∨ t.ports = s.ports)
    ∧ (.sets ∈ ps ∨ t.sets = s.sets)
    ∧ (.sup ∈ ps ∨ t.sup = s.sup)
    ∧ (.limits ∈ ps ∨ (t.execLimit = s.execLimit ∧ t.loadLimit = s.loadLimit))

/-- Port `x` after a grant to it or past it: at most its slot and skip count have changed, and the slot from QUEUED to
EXECUTING with the same request (R165, R166). -/
def PortGranted (x y : Port) : Prop :=
  y = { x with slot := y.slot, skip := y.skip } ∧
    (y.slot = x.slot ∨ ∃ r, x.slot = .queued r ∧ y.slot = .executing r)

/-- The completion of port `p`'s request `r` with answer `a`: its slot holds the answer, nothing else of the port has
changed, and the other ports have at most been granted or passed over (R164, R165). -/
def Answered (s t : State) (p : PortId) (r : Request) (a : Answer) : Prop :=
  t.port p = { s.port p with slot := .answered r a } ∧ ∀ q, q ≠ p → PortGranted (s.port q) (t.port q)

/-- Port `p`'s request `r` is being executed in PROTECTING or BACKSTOP. -/
def Serving (s : State) (p : PortId) (r : Request) : Prop := s.inService = true ∧ s.executing = some (p, r)

/-- One record with `body` has been sealed between `s` and `t`: the counter, the ring, and the ports' cursors and LOST
flags (R140, R147, R148). -/
def Sealed (s t : State) (body : RecordBody) : Prop :=
  t.nextSeq = (s.nextSeq + 1) % 65536
    ∧ t.ring = (if 16 ≤ s.ring.length then s.ring.tail else s.ring)
        ++ [{ seq := s.nextSeq, time := s.stamp, status := s.time.status, body := body }]
    ∧ ∀ p, t.port p =
        match s.ring with
        | [] => s.port p
        | r :: _ =>
          if 16 ≤ s.ring.length ∧ (s.port p).cursor = r.seq then
            { s.port p with cursor := (r.seq + 1) % 65536, lost := true }
          else s.port p

/-- Only channel `c` has changed among the channels. -/
def OnlyChan (s t : State) (c : ChanId) : Prop := ∀ d, d ≠ c → t.chan d = s.chan d

/-- Only zone `z` has changed among the zones. -/
def OnlyZone (s t : State) (z : ZoneId) : Prop := ∀ y, y ≠ z → t.zone y = s.zone y

/-- Only breaker `b`'s trip record has changed among the trip records. -/
def OnlyTrip (s t : State) (b : BreakerId) : Prop := ∀ a, a ≠ b → t.trip a = s.trip a

/-- Only slot `o` of the order table has changed. -/
def OnlyOrder (s t : State) (o : SlotId) : Prop := ∀ q, q ≠ o → t.order q = s.order q

/-- A fresh entry to WARMUP from the live state `x` (R18). -/
def FreshWarmup (fast : Bool) (x y : Channel) : Prop :=
  y.phase = .warmup ∧ y.early = false ∧ y.bfp = 0 ∧ y.glare = false ∧ y.count = 0 ∧ y.warmSum = 0 ∧ y.warmCount = 0
    ∧ y.warmLength = (if fast then 16 else 256) ∧ y.pickupTime = x.pickupTime ∧ y.peak = x.peak
    ∧ y.lastTest = x.lastTest

/-- Channel `c` is the next that the batch takes up, and it passes the skip checks without being confirmed (R121, R122). -/
def NextUp (s : State) (c : ChanId) : Prop :=
  s.result c = .pending ∧ (∀ d, d < c → s.result d ≠ .pending) ∧ s.skipCheck c = none ∧ (s.chan c).phase ≠ .confirmed

/-- The channel `x` as it stands in TESTING (R26). -/
def inTesting (x : Channel) : Channel := { x with phase := .testing, early := false, count := 0 }

/-- The batch `b` RUNNING at running time `now` with the test of `c` just begun (R124). -/
def testing (b : Batch) (c : ChanId) (now : Nat) : Batch :=
  { b with
    state := .running, current := some c, step := some .emit, settleTimer := some (now + 2000), emitSum := 0, emitCount := 0 }

/-- The skip outcome of channel `c` by Table 7-3, the first row that applies; absent where the channel passes (R122,
R123). -/
def skipOutcome (s : State) (c : ChanId) : Option TestResult :=
  if (s.chanRec c).inUse = false then some .skippedOff
  else if (s.chan c).phase = .faulted ∧ (s.chan c).cause = some .line then some .skippedLine
  else if (s.chan c).phase = .warmup ∨ ((s.chan c).phase = .confirmed ∧ (s.chan c).early = true) then some .skippedWarmup
  else if ∃ z, (s.chanRec c).watches z = true ∧ ((s.zone z).prot = .lit ∨ (s.zone z).prot = .arc) then some .skippedBusy
  else if ∃ z, (s.chanRec c).watches z = true ∧ (s.zoneRec z).inUse = true ∧ (s.zone z).prot ≠ .held
      ∧ s.ableToCover c z = true ∧ ∀ d, d ≠ c → s.ableToCover d z = false then some .skippedSole
  else none

/-- `t` is `s` with the next channel of its RUNNING batch taken up (R121, R122, R124, R26): the PENDING channels up to the
first that passes its skip checks have their skip outcomes. The one that passes is in TESTING as the current channel, with
the settle timer started, and has left the sets of its zones if it was CONFIRMED. With none that passes the batch is IDLE. -/
def TakenUp (s t : State) : Prop :=
  (∀ d, t.result d =
    if s.result d = .pending ∧ ∀ e, e ≤ d → s.result e = .pending → skipOutcome s e ≠ none then
      (skipOutcome s d).getD .pending
    else s.result d)
  ∧ ((∀ e, s.result e = .pending → skipOutcome s e ≠ none) →
      t.batch = { s.batch with results := t.batch.results, state := .idle } ∧ SameBut [.batch] s t)
  ∧ ∀ c, s.result c = .pending → skipOutcome s c = none →
      (∀ d, d < c → s.result d = .pending → skipOutcome s d ≠ none) →
      t.batch = { s.batch with
          results := t.batch.results, current := some c, step := some .emit, settleTimer := some (s.now + 2000), emitSum := 0
          emitCount := 0 }
        ∧ t.chan c = inTesting (s.chan c) ∧ OnlyChan s t c
        ∧ (∀ z, t.zone z =
            if (s.chan c).phase = .confirmed ∧ (s.chanRec c).watches z = true then
              { s.zone z with confirmed := (s.zone z).confirmed.drop c }
            else s.zone z)
        ∧ SameBut [.channels, .zones, .batch] s t

/-- The batch `b` without a current channel, step, counts and timers (R129, R130, R133). That the emit sum is 0 with them is
the model's choice (DESIGN CHOICE, log 37). -/
def stepCleared (b : Batch) : Batch :=
  { b with
    current := none, step := none, settleTimer := none, emitSum := 0, emitCount := 0, darkenTimer := none, darkenCount := 0 }

/-- R134: the quiet timer runs exactly while the batch is SUSPENDED with cause LIGHT and no zone is LIT or ARC. -/
def QuietOk (s : State) : Prop :=
  s.batch.quietTimer.isSome = true ↔
    s.batch.state = .suspended ∧ s.batch.cause = some .light ∧ s.anyBright = false

/-- An OK sample of `v` LU confirms channel `c`, which watches zone `z` only: an in-use zone that has not the channel in its
set (R50). It completes N in PICKUP, or is saturated there (R15); it meets N = 1 or is saturated in QUIET (R14); or it is
saturated in WARMUP (R20). -/
def Confirms (s : State) (c : ChanId) (v : Nat) (z : ZoneId) : Prop :=
  s.inService = true ∧ QuietOk s ∧ v ≤ 4095
    ∧ (((s.chan c).phase = .pickup ∧ threshold (s.chanRec c) (s.chan c) < v
          ∧ (v = 4095 ∨ (s.chan c).count + 1 = (s.chanRec c).n))
      ∨ ((s.chan c).phase = .quiet ∧ threshold (s.chanRec c) (s.chan c) < v ∧ (v = 4095 ∨ (s.chanRec c).n = 1))
      ∨ ((s.chan c).phase = .warmup ∧ v = 4095))
    ∧ (s.chanRec c).secondary = none ∧ (s.chanRec c).primary = z
    ∧ (s.zoneRec z).inUse = true ∧ (s.zone z).confirmed.has c = false

/-- The channel `x` confirmed by a sample of `v` LU at time stamp `t`: from PICKUP (R15), from WARMUP with the early flag
(R20), or from QUIET (R14). -/
def confirmedBy (t : Stamp) (v : Nat) (x : Channel) : Channel :=
  if x.phase = .pickup then
    { x with
      phase := .confirmed, early := false, count := x.count + 1, peak := if v = 4095 then 4095 else max x.peak v
      nonOkRun := 0 }
  else if x.phase = .warmup then
    { x with
      phase := .confirmed, early := true, count := 1, pickupTime := some t, peak := v, warmSum := 0, warmCount := 0
      nonOkRun := 0 }
  else { x with phase := .confirmed, early := false, count := 1, pickupTime := some t, peak := v, nonOkRun := 0 }

/-- An OK sample of `v` LU that takes channel `c` out of CONFIRMED: below D, or with the early flag at or below 3583 LU
(R16, R21). -/
def Drops (s : State) (c : ChanId) (v : Nat) : Prop :=
  s.inService = true ∧ QuietOk s ∧ (s.chan c).phase = .confirmed ∧ v ≤ 4095
    ∧ (((s.chan c).early = false ∧ v < dropLevel (threshold (s.chanRec c) (s.chan c)))
      ∨ ((s.chan c).early = true ∧ v ≤ 3583))

/-- The channel `x` dropped by a sample of `v` LU: in QUIET (R16), or with the early flag in a fresh WARMUP (R18, R21). -/
def droppedBy (fast : Bool) (v : Nat) (x : Channel) : Channel :=
  if x.early = true then
    { x with
      phase := .warmup, early := false, bfp := 0, glare := false, count := 0, warmSum := 0, warmCount := 0
      warmLength := if fast then 16 else 256, peak := max x.peak v, nonOkRun := 0 }
  else { x with phase := .quiet, early := false, count := 0, peak := max x.peak v, nonOkRun := 0 }

/-- The channel `x` after a non-OK sample: Table 1-4, with the run counts short of their limits (R6, R7, R8, R9). -/
def brokenBy (fast : Bool) (x : Channel) : Channel :=
  let counted := { x with nonOkRun := x.nonOkRun + 1 }
  let warmup := { counted with
    phase := .warmup, early := false, bfp := 0, glare := false, count := 0, warmSum := 0, warmCount := 0
    warmLength := if fast then 16 else 256 }
  let quiet := { counted with phase := .quiet, early := false, count := 0 }
  match x.phase with
  | .off => x
  | .warmup => warmup
  | .quiet => { counted with count := 0 }
  | .pickup => quiet
  | .confirmed => if x.early = true then warmup else quiet
  | .testing => counted
  | .faulted => if x.cause = some .line then { x with okRun := 0 } else counted

/-- The batch of `s` after an event that ends in `t` and touches nothing of it but the quiet timer (R134): SUSPENDED with
cause LIGHT, the timer is stopped where a zone is LIT or ARC; on a dark board it runs on, or starts at 1 s if it was
stopped. -/
def quietSettled (s t : State) : Batch :=
  { s.batch with
    quietTimer :=
      if s.batch.state = .suspended ∧ s.batch.cause = some .light then
        (if ∃ z, (t.zone z).prot = .lit ∨ (t.zone z).prot = .arc then none
        else some (s.batch.quietTimer.getD (s.now + 1000000)))
      else s.batch.quietTimer }

/-- Channel `c`, now `y` and no longer CONFIRMED, has left the sets of the zones it watches, and a LIT zone whose set that
empties is DARK (R22, R51). Nothing else of the channels and zones has changed. -/
def LightGone (s t : State) (c : ChanId) (y : Channel) : Prop :=
  t.chan c = y ∧ OnlyChan s t c
    ∧ ∀ z, t.zone z =
      if (s.chanRec c).watches z = true ∧ (s.zone z).confirmed.has c = true then
        (if (s.zone z).prot = .lit ∧ (s.zone z).confirmed.drop c = 0 then
          { s.zone z with
            prot := .dark, confirmed := 0, litSince := none, alarmSent := false, noSourceSent := false, alarmTimer := none
            orderSlot := none }
        else { s.zone z with confirmed := (s.zone z).confirmed.drop c })
      else s.zone z

/-- The channel `x` released from TESTING without a verdict as `y`: to QUIET, or to a fresh WARMUP where its fault cause was
OPTICAL (R27, R133). -/
def Released (fast : Bool) (x y : Channel) : Prop :=
  (x.cause ≠ some .optical → y = { x with phase := .quiet, early := false, count := 0 })
    ∧ (x.cause = some .optical → FreshWarmup fast x y ∧ y.cause = none)

/-- The batch `b` suspended by light: no current channel, step, counts, timers and gathering window (R133; the emit sum: log
37). -/
def suspendedByLight (b : Batch) : Batch :=
  { stepCleared b with
    state := .suspended, cause := some .light, quietTimer := none, gatherStart := none, windowExpiry := none
    windowLimit := none }

/-- Zone `z`'s entry to LIT suspends the batch: it is GATHERING, or RUNNING with a current channel that does not watch `z`
(R131). -/
def LitSuspends (s : State) (z : ZoneId) : Prop :=
  s.batch.state = .gathering
    ∨ (s.batch.state = .running ∧ ¬ ∃ d, s.batch.current = some d ∧ (s.chanRec d).watches z = true)

/-- The trip record of breaker `b` after order `o`'s demand reached it in IDLE: DRIVING with its three timers started
(R63, R64, R73, R77). -/
def drivenFor (s : State) (o : SlotId) (b : BreakerId) : Trip :=
  { phase := .driving, demands := (s.trip b).demands.add o, bfTimer := some (s.now + (s.breakerRec b).bfTime * 1000)
    minTimer := some (s.now + 100000), ceilTimer := some (s.now + 2000000), failed := false }

/-- The breakers of `l`, IDLE before, have been demanded from slot `o`, driven and locked, and no other trip record and mark
has changed (R62, R63, R91). -/
def Demanded (s t : State) (o : SlotId) (l : List BreakerId) : Prop :=
  (∀ b, b ∈ l → t.trip b = drivenFor s o b ∧ t.locked b = true ∧ t.tripLine b = true)
    ∧ ∀ b, b ∉ l → t.trip b = s.trip b ∧ t.locked b = s.locked b

/-- The entry of breaker `b` in an order's list, appended at a level, with no outcome (R60). -/
def openEntry (level : Nat) (b : BreakerId) : Entry :=
  { breaker := b, level := level, outcome := none, outcomeTime := none, offset := none }

/-- The UT line `u` with order `o`'s claim added: asserted with a 200 ms minimum where it was not asserted (R84). -/
def claimedBy (s : State) (o : SlotId) (u : UtId) : UtLine :=
  if (s.utLine u).asserted = true then { s.utLine u with claims := (s.utLine u).claims.add o }
  else
    { asserted := true, claims := (s.utLine u).claims.add o, since := some s.stamp, minimum := .running (s.now + 200000) }

/-- The order `x` with the outcome `v` of breaker `b` written at time stamp `t`, with its open offset (R60, R144). -/
def writtenIn (t : Stamp) (b : BreakerId) (v : BreakerOutcome) (x : Order) : Order :=
  { x with
    entries := x.entries.map (fun e =>
      if e.breaker = b then
        { e with
          outcome := some v, outcomeTime := some t
          offset := some (min 65535 ((t.micros - x.decision.micros) / 100)) }
      else e) }

/-- The order `x` with the outcome of breaker `b`, if it has one, cleared back to absent, which withdraws a resolution (R60,
R63, R69). -/
def clearedOf (b : BreakerId) (x : Order) : Order :=
  if ∃ e, e ∈ x.entries ∧ e.breaker = b ∧ e.outcome ≠ none then
    { x with
      resolution := none, closeTimer := none
      entries := x.entries.map (fun e =>
        if e.breaker = b then { e with outcome := none, outcomeTime := none, offset := none } else e) }
  else x

/-- An order has been created in slot `o` for zone `z` with the trip set `trip`, all IDLE before, which is driven (R58, R61,
R63, R142). A light-only zone's order has no source: the model's reading of R61 (log 33). -/
def Created (s t : State) (z : ZoneId) (o : SlotId) (trip : List BreakerId) : Prop :=
  t.order o = some {
      zones := [z], span := s.island z, level := 0, entries := trip.map (openEntry 0), ut := 0, decision := s.stamp
      source := if (s.zoneRec z).lightOnly = true then none
        else trip.find? (fun b => (s.breakerRec b).ccUsed && (t.input b).current)
      resolution := none, closeTimer := none, escLimit := false, supplyLow := decide (s.sup.supply = .low)
      decisionStatus := s.time.status
      channels := (t.zone z).confirmed.members.map (fun c =>
        { chan := c, pickup := (t.chan c).pickupTime, offset := none, peak := (t.chan c).peak })
      noUpstream := 0, timeStep := false }
    ∧ OnlyOrder s t o ∧ Demanded s t o trip

/-- `r` is what state `s` becomes when the order `x`, put in slot `o`, demands breaker `b`, which is not OPEN and not IDLE,
while an entry of another breaker has no outcome (Table 3-6, R63, R67, R78, R79, R83, R84). DRIVING: the demand is added.
HOLDING: its outcome is written as well. OPEN_DONE: it is driven again, and its outcome cleared in every order of its demand
set. FAILED: the order escalates across it, and SPENT: the same, with outcome SPENT. An incomer gives the claim of its UT
line or the no-upstream-path mark; a coupler with one side in the span grows it, or sets the escalation-limit flag at level
2. -/
def DemandTaken (s : State) (r : Result) (o : SlotId) (x : Order) (b : BreakerId) : Prop :=
  let joined := s.setTrip b { s.trip b with demands := (s.trip b).demands.add o }
  let rec_ := s.breakerRec b
  let crossed := fun y : Order => if (s.trip b).phase = .spent then writtenIn s.stamp b .spent y else y
  ((s.trip b).phase = .driving → r = .next (joined.setOrder o (some x)))
  ∧ ((s.trip b).phase = .holding →
      r = .next (joined.setOrder o
        (some (writtenIn s.stamp b (if (s.trip b).failed then .failedThenOpened else .opened) x))))
  ∧ ((s.trip b).phase = .openDone →
      ∃ t, r = .next t ∧ t.trip b = drivenFor s o b ∧ OnlyTrip s t b
        ∧ t.order o = some (clearedOf b x)
        ∧ (∀ q, q ≠ o → t.order q =
            if (s.trip b).demands.has q = true then (s.order q).map (clearedOf b) else s.order q)
        ∧ SameBut [.trips, .orders] s t)
  ∧ ((s.trip b).phase = .failed ∨ (s.trip b).phase = .spent →
      (∀ u, rec_.role = .incomer → rec_.utLine = some u →
        r = .next ((joined.setUt u (claimedBy s o u)).setOrder o (some (crossed { x with ut := x.ut.add u }))))
      ∧ (rec_.role = .incomer → rec_.utLine = none →
        r = .next (joined.setOrder o (some (crossed { x with noUpstream := x.noUpstream.add b }))))
      ∧ ∀ a far, rec_.role = .coupler → rec_.sideA = .zone a →
          (x.span.has a = true ∧ x.span.has rec_.sideB = false ∧ far = rec_.sideB)
            ∨ (x.span.has a = false ∧ x.span.has rec_.sideB = true ∧ far = a) →
        (2 ≤ x.level → r = .next (joined.setOrder o (some (crossed { x with escLimit := true }))))
        ∧ (let new := s.missing x (x.span ||| s.island far)
          x.level < 2 → (∀ y, y ∈ new → (s.trip y).phase = .idle ∧ (s.trip y).demands = 0) →
          ∃ t, r = .next t
            ∧ t.order o = some (crossed { x with
                span := x.span ||| s.island far, level := x.level + 1
                entries := x.entries ++ new.map (openEntry (x.level + 1))
                resolution := if new = [] then x.resolution else none
                closeTimer := if new = [] then x.closeTimer else none })
            ∧ OnlyOrder s t o ∧ Demanded joined t o new ∧ SameBut [.trips, .orders, .lockout] s t))

/-- The zone `x` entering LIT at time stamp `t` and running time `now`, with channel `c` joining its set (R50). -/
def litBy (c : ChanId) (t : Stamp) (now : Nat) (x : Zone) : Zone :=
  { x with
    prot := .lit, confirmed := x.confirmed.add c, litSince := some t, alarmSent := false, noSourceSent := false
    alarmTimer := some (now + 2000000), orderSlot := none }

/-- The channel entries `l` of an open record with channel `c`, whose live state is `x`, added if it has none (R143). -/
def withChannel (c : ChanId) (x : Channel) (l : List ChannelEntry) : List ChannelEntry :=
  if ∃ e, e ∈ l ∧ e.chan = c then l else l ++ [{ chan := c, pickup := x.pickupTime, offset := none, peak := x.peak }]

/-- Zone `z`, HELD, has left HELD between `s` and `t` with a forced quiet on every channel that watches it (R25, R53, R113).
A CONFIRMED one leaves the sets of the zones it watches, and a LIT zone whose set that empties is DARK (R51). -/
def LeftHeld (s t : State) (z : ZoneId) : Prop :=
  (t.zone z).prot = .dark ∧ (t.zone z).hasHold = false
    ∧ (∀ c, if (s.chanRec c).watches z = true then
          ((s.chan c).phase = .pickup ∨ ((s.chan c).phase = .confirmed ∧ (s.chan c).early = false) →
            t.chan c = { s.chan c with phase := .quiet, early := false, count := 0 })
          ∧ ((s.chan c).phase = .confirmed → (s.chan c).early = true →
            FreshWarmup s.inForce.fast (s.chan c) (t.chan c) ∧ (t.chan c).cause = (s.chan c).cause
              ∧ (t.chan c).nonOkRun = (s.chan c).nonOkRun ∧ (t.chan c).okRun = (s.chan c).okRun)
          ∧ ((s.chan c).phase ≠ .pickup → (s.chan c).phase ≠ .confirmed → t.chan c = s.chan c)
        else t.chan c = s.chan c)
    ∧ (∀ y c, (t.zone y).confirmed.has c =
        ((s.zone y).confirmed.has c
          && !decide ((s.chanRec c).watches z = true ∧ (s.chanRec c).watches y = true ∧ (s.chan c).phase = .confirmed)))
    ∧ ∀ y, y ≠ z → t.zone y =
        if (s.zone y).prot = .lit ∧ (s.zone y).confirmed ≠ 0 ∧ (t.zone y).confirmed = 0 then
          { s.zone y with
            prot := .dark, confirmed := 0, litSince := none, alarmSent := false, noSourceSent := false, alarmTimer := none
            orderSlot := none }
        else { s.zone y with confirmed := (t.zone y).confirmed }

/-- Channel `c` after the close of order `x`: the count of a channel in PICKUP or CONFIRMED that watches a zone which enters
HELD is cleared (R71, R109). -/
def countsCleared (s : State) (x : Order) (c : ChanId) : Channel :=
  if (∃ z, z ∈ x.zones ∧ (s.zone z).hasHold = true ∧ (s.chanRec c).watches z = true)
      ∧ ((s.chan c).phase = .pickup ∨ (s.chan c).phase = .confirmed) then { s.chan c with count := 0 }
  else s.chan c

/-- Order `x` of slot `o`, whose zones are all unlit, has closed between `s` and `t` (R71, R85): the record sealed, its
claims and demands withdrawn, the slot empty, and each zone HELD where a hold stands, else DARK. -/
def ClosedUnlit (s t : State) (o : SlotId) (x : Order) : Prop :=
  Sealed s t (.arc (s.arcRecord o x)) ∧ t.order o = none ∧ OnlyOrder s t o
    ∧ (∀ u, t.utLine u =
        if x.ut.has u = true then
          (if (s.utLine u).claims.drop o = 0 ∧ (s.utLine u).minimum = .runOut then
            { asserted := false, claims := 0, since := none, minimum := .stopped }
          else { s.utLine u with claims := (s.utLine u).claims.drop o })
        else s.utLine u)
    ∧ (∀ b, t.trip b = if x.lists b = true then { s.trip b with demands := (s.trip b).demands.drop o } else s.trip b)
    ∧ (∀ z, z ∈ x.zones → (t.zone z).prot = (if (s.zone z).hasHold then .held else .dark) ∧ (t.zone z).orderSlot = none
        ∧ (t.zone z).litSince = none ∧ (t.zone z).alarmTimer = none ∧ (t.zone z).confirmed = 0
        ∧ (t.zone z).holds = (s.zone z).holds
        ∧ (t.zone z).heldLightSent = (if (s.zone z).hasHold then false else (s.zone z).heldLightSent))
    ∧ (∀ z, z ∉ x.zones → t.zone z = s.zone z)
    ∧ (∀ c, t.chan c = countsCleared s x c)
    ∧ t.batch = quietSettled s t ∧ SameBut [.channels, .zones, .orders, .trips, .ut, .batch, .records, .ports] s t

/-- Every entry of the order has an outcome, and every line of its UT set has been asserted for its minimum (R69). -/
def Complete (s : State) (x : Order) : Prop :=
  (∀ e, e ∈ x.entries → e.outcome ≠ none) ∧ ∀ u, x.ut.has u = true → (s.utLine u).minimum = .runOut

/-- The order `x`, not resolved before, has been put in slot `o` of state `s` and tested for resolution, which gives `t`
(R69, R70, R71): not complete, it stays so; complete, it is resolved, with the 5 s close timer where one of its zones is
lit, and closed at once where none is. -/
def Tested (s t : State) (o : SlotId) (x : Order) : Prop :=
  (¬ Complete s x → t = s.setOrder o (some x))
  ∧ (Complete s x → (∃ z, z ∈ x.zones ∧ (s.zone z).confirmed ≠ 0) →
      t = s.setOrder o (some { x with resolution := some s.stamp, closeTimer := some (s.now + 5000000) }))
  ∧ (Complete s x → (∀ z, z ∈ x.zones → (s.zone z).confirmed = 0) →
      ClosedUnlit s t o { x with resolution := some s.stamp })

/-- `r` is what state `s` becomes when channel `c` leaves CONFIRMED for the live state `y` (R22, R51, R70, R71). While each
order of an ARC zone it watches is not resolved, or has a zone that another channel lights, its light is gone and that is
all. Where the order is resolved and this channel was the last light of all its zones, the order closes. -/
def DropsTo (s : State) (c : ChanId) (y : Channel) (r : Result) : Prop :=
  ((∀ z o x, (s.chanRec c).watches z = true → (s.zone z).prot = .arc → (s.zone z).orderSlot = some o →
      s.order o = some x → x.resolution = none ∨ ∃ w d, w ∈ x.zones ∧ d ≠ c ∧ (s.zone w).confirmed.has d = true) →
    ∃ t, r = .next t ∧ LightGone s t c y ∧ t.batch = quietSettled s t ∧ SameBut [.channels, .zones, .batch] s t)
  ∧ ∀ o x, s.order o = some x → x.resolution ≠ none →
      (∃ z, (s.chanRec c).watches z = true ∧ z ∈ x.zones) →
      (∀ z, (s.chanRec c).watches z = true → z ∈ x.zones →
        (s.zone z).prot = .arc ∧ (s.zone z).orderSlot = some o ∧ (s.zone z).confirmed.has c = true) →
      (∀ z, (s.chanRec c).watches z = true → z ∉ x.zones → (s.zone z).prot ≠ .arc) →
      (∀ z d, z ∈ x.zones → (s.zone z).confirmed.has d = true → d = c ∧ (s.chanRec c).watches z = true) →
    ∃ u t, r = .next t ∧ LightGone s u c y ∧ SameBut [.channels, .zones] s u ∧ ClosedUnlit u t o x

/-- Command `e` is a report at which breaker `b` is found opened (R64, R65, R75), and `i` are its inputs after it: its
position changes to OPEN with its current RELEASED or not used, or its current changes to RELEASED with its position OPEN.
-/
def OpeningReport (s : State) (b : BreakerId) (e : Instr) (i : Inputs) : Prop :=
  s.inService = true
    ∧ ((e = .positionChange b ∧ (s.input b).stability.isSome = true ∧ (s.input b).bpc = false ∧ (s.input b).bpo = true
          ∧ (s.input b).position ≠ .opened ∧ ((s.breakerRec b).ccUsed = true → (s.input b).current = false)
          ∧ i = { s.input b with stability := none, position := .opened, unknownTimer := none, positionFault := false })
      ∨ (e = .filteredCurrentChange b ∧ (s.input b).filterTimer.isSome = true ∧ (s.input b).curLine = false
          ∧ (s.input b).current = true ∧ (s.input b).position = .opened
          ∧ i = { s.input b with filterTimer := none, current := false }))

/-- No channel that watches zone `z` is CONFIRMED and watches an ARC zone as well: a forced quiet at `z` empties the set of
no zone that has an order. -/
def ArcUntouched (s : State) (z : ZoneId) : Prop :=
  ∀ c y, (s.chanRec c).watches z = true → (s.chan c).phase = .confirmed → (s.chanRec c).watches y = true →
    (s.zone y).prot ≠ .arc

/-- No order is active and no zone is LIT: a write to the map finds nothing to do (R178). -/
def AtRest (s : State) : Prop := (∀ o, s.order o = none) ∧ ∀ z, (s.zone z).prot ≠ .lit

/-- The channel and pickup time `a` stand before `b` in the choice of an origin: the earlier time, read as microseconds, and
at a tie the lower channel (R141). -/
def StandsBefore (a b : ChanId × Option Stamp) : Prop :=
  ∀ v, b.2 = some v → ∃ u, a.2 = some u
    ∧ (u.sec * 1000000 + u.us < v.sec * 1000000 + v.us
      ∨ (u.sec * 1000000 + u.us = v.sec * 1000000 + v.us ∧ a.1 ≤ b.1))

/-! ### Bytes (R170, R171) -/

/-- The bits of a message, bytes in order, each most significant bit first (R160, R181). -/
def messageBits (bs : List Byte) : List Bool := bs.flatMap (fun x => (List.range 8).map (fun i => x.getLsbD (7 - i)))

/-- The register of a CRC with generator `poly` after a message: at each bit it is shifted left, and where its outgoing top
bit differs from the message bit the generator is added (R160, R181). -/
def crcRegister {w : Nat} (poly start : BitVec w) (bits : List Bool) : BitVec w :=
  bits.foldl (fun r b => if r.msb = b then r <<< 1 else (r <<< 1) ^^^ poly) start

/-- The number that bytes spell, most significant first (R170). -/
def numberOf (bs : List Byte) : Nat := bs.foldl (fun n b => n * 256 + b.toNat) 0

/-- A field on the wire: its width in bytes, and its number. -/
abbrev Field := Nat × Nat

/-- The bytes `bs` are the fields `fs` one after another, each its number in its width, and nothing else (R171). -/
def Carries : List Byte → List Field → Prop
  | bs, [] => bs = []
  | bs, (n, v) :: fs => n ≤ bs.length ∧ numberOf (bs.take n) = v % 256 ^ n ∧ Carries (bs.drop n) fs

/-- yes or no, set or clear, running or stopped. -/
def flag (b : Bool) : Field := (1, if b then 1 else 0)

/-- A named value: its position in the list of values. -/
def named {α : Type} [BEq α] (l : List α) (x : α) : Field := (1, l.idxOf x)

/-- An optional named value: 0xFF when absent. -/
def optNamed {α : Type} [BEq α] (l : List α) (x : Option α) : Field := (1, (x.map l.idxOf).getD 255)

/-- An optional number of `n` bytes: all ones when absent. -/
def optNumber (n : Nat) (x : Option Nat) : Field := (n, x.getD (256 ^ n - 1))

/-- A time stamp: four bytes of seconds, three of microseconds; all ones when absent. -/
def stampFields (t : Option Stamp) : List Field :=
  match t with
  | none => [(4, 0xFFFFFFFF), (3, 0xFFFFFF)]
  | some t => [(4, t.sec), (3, t.us)]

/-- What a batch has found for a channel, in the order in which R171 codes it from 0. -/
def resultList : List TestResult :=
  [.none, .pending, .skippedOff, .skippedLine, .skippedWarmup, .skippedBusy, .skippedSole, .withdrawn, .verdict .pass,
    .verdict .weak, .verdict .fail, .verdict .stuck, .verdict .learned]

/-! ### The items of Table 9-5, field by field -/

/-- A channel record (Table 1-1). -/
def channelRecordFields (x : ChannelRecord) : List Field :=
  [flag x.inUse, (1, x.primary.val), optNumber 1 (x.secondary.map (·.val)), (2, x.ta), (1, x.g), (2, x.m), (1, x.k),
    (1, x.n), (2, x.ref)]

/-- A channel's live fields: state to OK run count, then the last test (Table 1-2; T and D by R10, R11). -/
def channelLiveFields (s : State) (c : ChanId) : List Field :=
  let x := s.chan c
  let t :=
    if x.phase = .quiet ∨ x.phase = .pickup ∨ (x.phase = .confirmed ∧ x.early = false) ∨ x.phase = .testing
        ∨ (x.phase = .faulted ∧ x.cause = some .optical) then some (threshold (s.chanRec c) x) else none
  [named [.off, .warmup, .quiet, .pickup, .confirmed, .testing, .faulted] x.phase, optNamed [.line, .optical] x.cause,
    flag x.early, (2, x.bfp), (1, x.count)] ++ stampFields x.pickupTime
    ++ [(2, x.peak), flag x.glare, optNumber 2 t, optNumber 2 (t.map (fun t => t - t / 8)), (3, x.warmSum),
      (2, x.warmCount), (2, x.warmLength), (1, x.nonOkRun), (2, x.okRun),
      optNamed resultList (x.lastTest.map (fun l => .verdict l.verdict)), optNumber 2 (x.lastTest.map (·.response))]
    ++ stampFields (x.lastTest.map (·.time))

/-- A zone's live fields, with its island, the island's boundary and trip set, and its hold list. -/
def zoneLiveFields (s : State) (z : ZoneId) : List Field :=
  let x := s.zone z
  let m := s.island z
  let holds := (ids 3).filterMap (fun p => (s.holdOf z p).map (fun e => (p, e)))
  [named [.dark, .lit, .arc, .held] x.prot, (3, x.confirmed.toNat)] ++ stampFields x.litSince
    ++ [flag x.alarmSent, flag x.noSourceSent, optNumber 1 (x.orderSlot.map (·.val)), (2, m.toNat),
      (1, (Marks.collect (fun b => decide (b ∈ s.boundary m))).toNat),
      (1, (Marks.collect (fun b => decide (b ∈ s.tripSet m))).toNat), (1, holds.length)]
    ++ holds.flatMap (fun h => [(1, h.1.val), (2, max 1 ((h.2 - s.now + 999999) / 1000000))]) ++ [flag x.heldLightSent]

/-- A breaker record (Table 2-3). -/
def breakerRecordFields (x : BreakerRecord) : List Field :=
  [flag x.inUse, named [.incomer, .coupler] x.role,
    (1, match x.sideA with | .external => 0xFE | .zone z => z.val), (1, x.sideB.val), (1, x.owner.val), flag x.ccUsed,
    (2, x.bfTime), optNumber 1 (x.utLine.map (·.val))]

/-- A breaker's live fields: the map's inputs, then the trip record. ASSERTED is 0 and RELEASED 1. -/
def breakerLiveFields (s : State) (b : BreakerId) : List Field :=
  let i := s.input b
  let t := s.trip b
  [flag i.bpc, flag i.bpo, named [.closed, .opened, .unknown] i.position, flag i.positionFault,
    named [true, false] i.current, flag i.curLine, flag i.closedAgainstLockout,
    named [.idle, .driving, .holding, .openDone, .failed, .spent] t.phase, (2, t.demands.toNat), flag t.failed]

/-- A UT line item. -/
def utFields (x : UtLine) : List Field := [named [true, false] x.asserted, (2, x.claims.toNat)] ++ stampFields x.since

/-- The lockout item. -/
def lockoutFields (x : Lockout) : List Field :=
  [(1, x.marks.toNat), named [.idle, .updating, .updatingAgain] x.store, optNumber 1 (x.snapshot.map (·.toNat)),
    flag x.fault]

/-- The batch item. -/
def batchFields (b : Batch) : List Field :=
  [named [.idle, .gathering, .running, .suspended] b.state, (3, b.selected.toNat), flag b.learn]
    ++ b.results.toList.map (named resultList)
    ++ [optNumber 1 (b.current.map (·.val)), optNamed [.emit, .darken] b.step, optNamed [.request, .light] b.cause,
      flag b.quietTimer.isSome]

/-- The time item: the pending seconds have a presence byte, and are 0 when absent. -/
def timeFields (t : TimeBase) : List Field :=
  [(4, t.seconds), (3, t.micros), named [.unset, .synced, .freewheel] t.status, flag t.pendingSeconds.isSome,
    (4, t.pendingSeconds.getD 0), flag t.applied, flag t.offWindow, flag t.freewheel.isSome]

/-- The slot state of a port item. -/
def slotField (x : Slot) : Field :=
  (1, match x with
    | .empty => 0
    | .queued _ => 1
    | .executing _ => 2
    | .answered _ _ => 3)

/-- The supervision item. -/
def supervisionFields (s : State) : List Field :=
  [named [.reset, .loading, .protecting, .backstop] s.mode, named [.unknown, .ok, .low] s.sup.supply,
    named [true, false] s.healthy, (1, s.reasons.toNat), (2, (Marks.collect (fun z => s.uncovered z)).toNat)]

/-! ### The pages of R173 -/

/-- A record's kind number in its page header. -/
def kindNumber : RecordBody → Nat
  | .arc _ => 0
  | .noSource _ _ _ => 1
  | .lightAlarm _ _ _ => 2
  | .heldLight _ _ => 3
  | .channelFault _ _ _ => 4
  | .holdExpired _ _ => 5
  | .timeStep _ _ _ => 6

/-- The time status as a number. -/
def statusNumber : TimeStatus → Nat
  | .unset => 0
  | .synced => 1
  | .freewheel => 2

/-- The kind fields of page 0 (Table 9-7). -/
def pageZeroFields : RecordBody → List Field
  | .arc r =>
    [(1, r.slot.val), (1, r.level), optNumber 1 (r.source.map (·.val)),
      (1, (if r.escLimit then 1 else 0) + (if r.supplyLow then 2 else 0) + (if r.timeStep then 4 else 0)
        + statusNumber r.decisionStatus * 8),
      (2, r.span.toNat), (1, r.ut.toNat), (1, r.noUpstream.toNat), optNumber 1 (r.origin.map (·.val))]
  | .noSource z origin _ => [(1, z.val), optNumber 1 (origin.map (·.val))]
  | .lightAlarm z origin since => [(1, z.val), optNumber 1 (origin.map (·.val))] ++ stampFields since
  | .heldLight z c => [(1, z.val), (1, c.val)]
  | .channelFault c cause v =>
    [(1, c.val), named [.line, .optical] cause, optNamed resultList (v.map (fun v => .verdict v))]
  | .holdExpired z p => [(1, z.val), (1, p.val)]
  | .timeStep oldSec oldUs _ => [(4, oldSec), (3, oldUs)]

/-- The continuation that the later pages carry. -/
def laterFields : RecordBody → List Field
  | .arc r =>
    stampFields (some r.decision) ++ stampFields r.resolution
      ++ stampFields ((r.channels.find? (fun e => some e.chan == r.origin)).bind (·.pickup))
      ++ [(1, r.zones.length)] ++ r.zones.map (fun z => (1, z.val))
      ++ [(1, r.channels.length)] ++ r.channels.flatMap (fun e => [(1, e.chan.val), optNumber 2 e.offset, (2, e.peak)])
      ++ [(1, r.breakers.length)]
      ++ r.breakers.flatMap (fun e =>
        [(1, e.breaker.val),
          (1, e.level * 64 + match e.outcome with
            | none => 0
            | some .opened => 1
            | some .failedThenOpened => 2
            | some .spent => 3),
          optNumber 2 e.offset])
  | .noSource _ _ channels => [(3, channels.toNat)]
  | .lightAlarm _ _ _ | .heldLight _ _ | .channelFault _ _ _ | .holdExpired _ _ | .timeStep _ _ _ => []

/-- The page count: page 0, and one page for each 16 bytes of the continuation or part of them. -/
def pageCount (b : RecordBody) : Nat := 1 + (((laterFields b).map (·.1)).sum + 15) / 16

/-- `data` is page `n` of a record with body `b`, sequence number `seq` (absent in an open record) and time status `status`
(R173, Table 9-6): the header, then in page 0 the seal time `sealing`, whose microseconds have the status above them, and the
kind fields, and in a later page its 16 bytes of the continuation. -/
def IsPage (data : List Byte) (b : RecordBody) (seq : Option Nat) (sealing : Stamp) (status : TimeStatus) (n : Nat) :
    Prop :=
  let header : List Field := [(1, pageCount b * 16 + kindNumber b), optNumber 2 seq]
  (n = 0 → Carries data
    (header ++ [(4, sealing.sec), (3, statusNumber status * 4194304 + sealing.us)] ++ pageZeroFields b))
  ∧ (0 < n → ∃ rest, Carries rest (laterFields b) ∧ Carries (data.take 3) header
      ∧ data.drop 3 = (rest.drop (16 * (n - 1))).take 16)

/-! ### Invariants -/

/-- R91: a breaker whose trip state is not IDLE is LOCKED. -/
def DrivenIsLocked (s : State) : Prop := ∀ b, (s.trip b).phase ≠ .idle → s.locked b = true

/-- R81: the level of an order never exceeds 2. -/
def LevelBounded (s : State) : Prop := ∀ o x, s.order o = some x → x.level ≤ 2

/-- R147, R148: the ring holds at most 16 records with consecutive sequence numbers that end before the counter, and each
port's unfetched count is at most the number of records held. -/
def RecordsOk (s : State) : Prop :=
  s.nextSeq < 65536 ∧ s.ring.length ≤ 16
    ∧ (∀ i r, s.ring[i]? = some r → r.seq = (s.nextSeq + 65536 - s.ring.length + i) % 65536)
    ∧ ∀ p, (s.port p).cursor < 65536 ∧ s.unfetched p ≤ s.ring.length

/-- R105, R108: a HELD zone has a non-empty hold list, and a zone with a non-empty hold list is HELD or ARC. -/
def HoldsOk (s : State) : Prop :=
  ∀ z, ((s.zone z).prot = .held → (s.zone z).hasHold = true)
    ∧ ((s.zone z).hasHold = true → (s.zone z).prot = .held ∨ (s.zone z).prot = .arc)

/-- R161, R164, R165: at most one slot is EXECUTING, a slot is QUEUED only while one is, and a RESPONSE is being sent only
from an ANSWERED slot. -/
def PortsOk (s : State) : Prop :=
  (∀ p q, (s.port p).slot.running.isSome = true → (s.port q).slot.running.isSome = true → p = q)
    ∧ (∀ p, s.isQueued p = true → s.executing.isSome = true)
    ∧ ∀ p bs, (s.port p).outgoing = some (.response bs) → (s.port p).slot.isAnswered = true

/-- R31: each filled slot names two distinct zones, both in use, and no two filled slots hold the same pair. -/
def LinksOk (w : Settings) : Prop :=
  ∀ i a b, look w.links i = some (a, b) →
    a ≠ b ∧ (look w.zones a).inUse = true ∧ (look w.zones b).inUse = true
      ∧ ∀ j, j ≠ i → look w.links j ≠ some (a, b) ∧ look w.links j ≠ some (b, a)

/-- The numbers of a channel record lie in their ranges (Table 1-1). -/
def ChannelInRange (r : ChannelRecord) : Prop :=
  64 ≤ r.ta ∧ r.ta ≤ 4000 ∧ 8 ≤ r.g ∧ r.g ≤ 64 ∧ r.m ≤ 1023 ∧ 4 ≤ r.k ∧ r.k ≤ 12 ∧ 1 ≤ r.n ∧ r.n ≤ 8 ∧ r.ref ≤ 4095

/-- The record of a breaker in use is one that the map can place (R33). -/
def Placed (w : Settings) (r : BreakerRecord) : Prop :=
  (look w.zones r.sideB).inUse = true ∧ (r.role = .incomer → r.sideA = .external)
    ∧ (r.role = .coupler → r.utLine = none ∧ ∃ a, r.sideA = .zone a ∧ a ≠ r.sideB ∧ (look w.zones a).inUse = true)

/-- R181: settings that Write Item could have built: every number in its range, and every structural condition met (R2, R30,
R31, R33, R34). The pair of a filled slot stands with its lower zone first, and a COUPLER has no external side A (log 11). -/
def Buildable (w : Settings) : Prop :=
  (∀ c, ChannelInRange (look w.channels c) ∧ (look w.channels c).secondary ≠ some (look w.channels c).primary)
    ∧ LinksOk w ∧ (∀ l a b, look w.links l = some (a, b) → a < b)
    ∧ (∀ b, 30 ≤ (look w.breakers b).bfTime ∧ (look w.breakers b).bfTime ≤ 500
        ∧ ¬ ((look w.breakers b).role = .coupler ∧ (look w.breakers b).sideA = .external)
        ∧ ((look w.breakers b).inUse = true → Placed w (look w.breakers b)))
    ∧ ∀ p, (look w.ports p).priority ≤ 3 ∧ (look w.ports p).ceiling ≤ 15

/-- R58: a zone stands in the zone list of an active order exactly while it is ARC with that order's slot. -/
def OrdersOk (s : State) : Prop :=
  (∀ o x z, s.order o = some x → z ∈ x.zones → (s.zone z).prot = .arc ∧ (s.zone z).orderSlot = some o)
    ∧ ∀ z, (s.zone z).prot = .arc → ∃ o x, (s.zone z).orderSlot = some o ∧ s.order o = some x ∧ z ∈ x.zones

/-- R96, R97, R99: the snapshot is present exactly while an update is under way, the word is not valid then, and a valid
word holds the lockout set as it stands. -/
def LockoutWordOk (s : State) : Prop :=
  (s.lockout.store ≠ .idle ↔ s.lockout.snapshot.isSome = true)
    ∧ (s.lockout.snapshot.isSome = true → s.lockout.word.valid = false)
    ∧ (s.inService = true → s.lockout.store = .updating → s.lockout.snapshot = some s.lockout.marks)
    ∧ (s.inService = true → s.lockout.word.valid = true → s.lockout.word.marks = s.lockout.marks)

/-- R118, R124: a channel is in TESTING exactly while it is the batch's current channel, and there is one only while the
batch is RUNNING. -/
def TestingOk (s : State) : Prop :=
  (∀ c, (s.chan c).phase = .testing ↔ s.batch.current = some c)
    ∧ (s.batch.current.isSome = true → s.batch.state = .running)

end Sys2Proof.Safety
end

