-- ==== Sys2Proof/Certificates/Slice0/Obligations.lean ====
section
/-! DEFINITION. The statements for the provers. Times are in µs of running time. -/

open Sys2Proof Sys2Proof.Machine Sys2Proof.Safety

/-! ### The machine -/

/-- The row's cut: a step takes the command at the front of the queue and runs it with the queue's rest. -/
def Obligations.StepRunsFrontCommand : Prop :=
  ∀ (c : Instr) (rest : List Instr) (s : State),
    step (s.setPending (c :: rest)) = exec c (s.setPending rest)

/-- On an empty queue a step is a tick (the model's choice, log 3): with no timer due, one microsecond of running time and
of the time base (R152); with one timer due, its command. -/
def Obligations.EmptyQueueTicks : Prop :=
  ∀ s : State, s.pending = [] →
    (s.powered = true → s.due = [] → s.mode ≠ .reset →
      step s = .next { s with
        now := s.now + 1
        time :=
          if s.time.micros < 999999 then { s.time with micros := s.time.micros + 1 }
          else { s.time with micros := 0, seconds := (s.time.seconds + 1) % 4294967296 } })
    ∧ ∀ c, s.due = [c] → step s = exec c { s with ties := s.ties + 1 }

/-- A well-formed command always gives a next state: the part has no fault that stops it. A command whose operand cannot
exist is a fault of the model (log 19). -/
def Obligations.WellFormedCommandsComplete : Prop :=
  ∀ (c : Instr) (s : State),
    (c.wellFormed = true → ∃ t, exec c s = .next t) ∧ (c.wellFormed = false → ∃ f, exec c s = .fault f)

/-! ### Light channels -/

/-- R10, R11, R12: the numbers of the detection. Over the ranges of Table 1-1 the threshold lies within T_a to 4094, and
the drop level is T less floor(T/8), within 56 to 3583 and at least 8 below T. The new background is b_fp +
floor(d / 2^k) with the floor toward minus infinity: it lies between b_fp and 16 s, a positive difference below 2^k
leaves it, and a negative one lowers it. -/
def Obligations.DetectionNumbers : Prop :=
  (∀ (r : ChannelRecord) (c : Channel), ChannelInRange r →
    threshold r c = max r.ta (min 4094 (c.bfp / 16 * r.g / 8 + r.m))
      ∧ r.ta ≤ threshold r c ∧ threshold r c ≤ 4094
      ∧ dropLevel (threshold r c) + threshold r c / 8 = threshold r c
      ∧ 56 ≤ dropLevel (threshold r c) ∧ dropLevel (threshold r c) ≤ 3583
      ∧ dropLevel (threshold r c) + 8 ≤ threshold r c)
  ∧ ∀ (k s bfp : Nat), s ≤ 4094 → bfp ≤ 65520 →
    (filtered k s bfp : Int) = bfp + (16 * (s : Int) - bfp) / 2 ^ k
      ∧ min bfp (16 * s) ≤ filtered k s bfp ∧ filtered k s bfp ≤ max bfp (16 * s) ∧ filtered k s bfp ≤ 65520
      ∧ (bfp ≤ 16 * s → 16 * s < bfp + 2 ^ k → filtered k s bfp = bfp)
      ∧ (16 * s < bfp → filtered k s bfp < bfp)

/-- R14, R15: an OK sample at a QUIET channel. At or below T it is ambient and moves the background and the glare flag (R12,
R13). Above T, below 4095 and with N of 2 or more, it begins an episode in PICKUP (R17). Above T, and saturated or with N =
1, it confirms the channel at once with c = 1: at a LIT zone the channel joins the set, and that is all (the other zones:
ConfirmationLightsZone). In PICKUP a sample at or below T returns the channel to QUIET with pickup time and peak kept, and
one above T and below 4095 that does not complete N is counted and raises the peak. Nothing else changes. -/
def Obligations.SampleInQuiet : Prop :=
  ∀ (s : State) (c : ChanId) (v : Nat), s.inService = true → QuietOk s →
    ((s.chan c).phase = .quiet →
      (v ≤ threshold (s.chanRec c) (s.chan c) → v ≤ 4095 →
        exec (.sampleArrival c v .ok) s = .next (s.setChan c { s.chan c with
          bfp := filtered (s.chanRec c).k v (s.chan c).bfp
          glare := decide (3000 ≤ filtered (s.chanRec c).k v (s.chan c).bfp / 16)
          count := 0
          nonOkRun := 0 }))
      ∧ (threshold (s.chanRec c) (s.chan c) < v → v < 4095 → 2 ≤ (s.chanRec c).n →
        exec (.sampleArrival c v .ok) s = .next (s.setChan c { s.chan c with
          phase := .pickup
          early := false
          count := 1
          pickupTime := some s.stamp
          peak := v
          nonOkRun := 0 }))
      ∧ ∀ z, Confirms s c v z → (s.zone z).prot = .lit →
        exec (.sampleArrival c v .ok) s = .next ((s.setChan c { s.chan c with
          phase := .confirmed
          early := false
          count := 1
          pickupTime := some s.stamp
          peak := v
          nonOkRun := 0 }).setZone z { s.zone z with confirmed := (s.zone z).confirmed.add c }))
    ∧ ((s.chan c).phase = .pickup →
      (v ≤ threshold (s.chanRec c) (s.chan c) → v ≤ 4095 →
        exec (.sampleArrival c v .ok) s =
          .next (s.setChan c { s.chan c with phase := .quiet, early := false, count := 0, nonOkRun := 0 }))
      ∧ (threshold (s.chanRec c) (s.chan c) < v → v < 4095 → (s.chan c).count + 1 ≠ (s.chanRec c).n →
        exec (.sampleArrival c v .ok) s = .next (s.setChan c { s.chan c with
          count := (s.chan c).count + 1
          peak := max (s.chan c).peak v
          nonOkRun := 0 })))

/-- R14, R15, R20, R22, R50, R56 to R59, R110, R143: a sample that confirms the channel, from PICKUP, QUIET or WARMUP,
saturated or by N. The channel joins its in-use zone's set. At a DARK zone whose current condition is not met the zone enters
LIT, and that is all; at a LIT zone nothing more happens. At an ARC zone the order's open record gets an entry for the
channel if it has none. At a HELD zone a HELD_LIGHT record is sealed and the flag set, once in a held period. A DARK zone
whose condition is met seals a NO_SOURCE record where its trip set is empty. With a zone of an active order in its island it
joins the order in the lowest such slot: it is ARC and stands last in the order's zone list, and where the span grows, an
order that is not resolved gets an entry for each boundary breaker that is not OPEN and not listed, and drives it, IDLE; a
resolved order gets none and keeps its resolution, and then nothing is demanded (R59; log 14). With no such order one is
created in the lowest empty slot, which drives the trip set, IDLE (R58; its source: R61, with log 33 for a light-only zone).
-/
def Obligations.ConfirmationLightsZone : Prop :=
  ∀ (s : State) (c : ChanId) (v : Nat) (z : ZoneId), Confirms s c v z →
    let lit := confirmedBy s.stamp v (s.chan c)
    let now := s.setChan c lit
    let joined := { s.zone z with confirmed := (s.zone z).confirmed.add c }
    let arc := fun o : SlotId =>
      { litBy c s.stamp s.now (s.zone z) with prot := .arc, alarmTimer := none, orderSlot := some o }
    let met := (s.zone z).prot = .dark ∧ s.currentCondition z = true ∧ s.batch.state = .idle
    ((s.zone z).prot = .dark → s.currentCondition z = false → s.batch.state = .idle →
      exec (.sampleArrival c v .ok) s = .next (now.setZone z (litBy c s.stamp s.now (s.zone z))))
    ∧ ((s.zone z).prot = .lit → exec (.sampleArrival c v .ok) s = .next (now.setZone z joined))
    ∧ (∀ o x, (s.zone z).prot = .arc → (s.zone z).orderSlot = some o → s.order o = some x →
      exec (.sampleArrival c v .ok) s = .next ((now.setZone z joined).setOrder o
        (some { x with channels := withChannel c lit x.channels })))
    ∧ ((s.zone z).prot = .held → (s.zone z).heldLightSent = true →
      exec (.sampleArrival c v .ok) s = .next (now.setZone z joined))
    ∧ ((s.zone z).prot = .held → (s.zone z).heldLightSent = false →
      ∃ t, exec (.sampleArrival c v .ok) s = .next t ∧ Sealed s t (.heldLight z c)
        ∧ t.chan c = lit ∧ OnlyChan s t c
        ∧ t.zone z = { joined with heldLightSent := true } ∧ OnlyZone s t z
        ∧ SameBut [.channels, .zones, .records, .ports] s t)
    ∧ (met → (s.zone z).confirmed = 0 → s.tripSet (s.island z) = [] →
      ∃ t, exec (.sampleArrival c v .ok) s = .next t ∧ Sealed s t (.noSource z (some c) (Marks.add 0 c))
        ∧ t.chan c = lit ∧ OnlyChan s t c
        ∧ t.zone z = { litBy c s.stamp s.now (s.zone z) with noSourceSent := true } ∧ OnlyZone s t z
        ∧ SameBut [.channels, .zones, .records, .ports] s t)
    ∧ (∀ o x, met → (s.zone z).confirmed = 0 →
        s.tripSet (s.island z) ≠ [] → s.order o = some x → (∃ y, y ∈ x.zones ∧ (s.island z).has y = true) →
        (∀ q w, q < o → s.order q = some w → ∀ y, y ∈ w.zones → (s.island z).has y = false) →
        (∀ b, b ∈ s.missing x (x.span ||| s.island z) → (s.trip b).phase = .idle ∧ (s.trip b).demands = 0) →
      let new := if x.resolution = none ∧ s.island z &&& ~~~x.span ≠ 0 then s.missing x (x.span ||| s.island z) else []
      ∃ t, exec (.sampleArrival c v .ok) s = .next t
        ∧ t.chan c = lit ∧ OnlyChan s t c ∧ t.zone z = arc o ∧ OnlyZone s t z
        ∧ t.order o = some { x with
            zones := x.zones ++ [z], span := x.span ||| s.island z, channels := withChannel c lit x.channels
            entries := x.entries ++ new.map (openEntry x.level)
            closeTimer := if new = [] then x.closeTimer else none } ∧ OnlyOrder s t o
        ∧ Demanded s t o new ∧ SameBut [.channels, .zones, .orders, .trips, .lockout] s t)
    ∧ ∀ o, met → s.tripSet (s.island z) ≠ [] →
        (∀ q w, s.order q = some w → ∀ y, y ∈ w.zones → (s.island z).has y = false) →
        s.order o = none → (∀ q, q < o → s.order q ≠ none) →
        (∀ b, b ∈ s.tripSet (s.island z) → (s.trip b).phase = .idle ∧ (s.trip b).demands = 0) →
      ∃ t, exec (.sampleArrival c v .ok) s = .next t
        ∧ t.chan c = lit ∧ OnlyChan s t c ∧ t.zone z = arc o ∧ OnlyZone s t z
        ∧ Created s t z o (s.tripSet (s.island z)) ∧ SameBut [.channels, .zones, .orders, .trips, .lockout] s t

/-- R16, R21, R22, R51, R70, R71, R134: a sample that takes a channel out of CONFIRMED, below D, or with the early flag at
or below 3583 LU. The channel is in QUIET with its pickup time kept, or with the early flag in a fresh WARMUP. It leaves the
set of each zone it watches, the primary and the secondary. A LIT zone whose set that empties returns to DARK; an ARC zone
stays ARC. While each order of an ARC zone among them is not resolved, or has a zone that another channel lights, that is
all. Where the order is resolved and this channel was the last light of all its zones, the order closes. After it the batch
is kept but for its quiet timer, which at a batch SUSPENDED with cause LIGHT is stopped while a zone is LIT or ARC, and on a
dark board runs on or starts at 1 s (R134). A sample that is not so low keeps the channel CONFIRMED with c unchanged. -/
def Obligations.DropDarkensZone : Prop :=
  ∀ (s : State) (c : ChanId) (v : Nat),
    (Drops s c v → DropsTo s c (droppedBy s.inForce.fast v (s.chan c)) (exec (.sampleArrival c v .ok) s))
    ∧ (s.inService = true → QuietOk s → (s.chan c).phase = .confirmed → v ≤ 4095 →
        ((s.chan c).early = false ∧ dropLevel (threshold (s.chanRec c) (s.chan c)) ≤ v)
          ∨ ((s.chan c).early = true ∧ 3583 < v) →
      exec (.sampleArrival c v .ok) s = .next (s.setChan c { s.chan c with
        peak := max (s.chan c).peak v
        nonOkRun := 0 }))

/-- R19, R20: a sample below 4095 in WARMUP is summed and counted, and the one that completes the latched length W ends the
warm-up with b_fp = floor(sum × 16 / W) in QUIET. That the sum and the count keep their values in QUIET is the model's
reading (DEDUCED, log 18); R19 does not say it. A saturated sample abandons the warm-up: the sum and the count are discarded,
and the channel is CONFIRMED with the early flag, c = 1 and peak 4095; at a LIT zone it joins the set, and that is all (the
other zones: ConfirmationLightsZone). -/
def Obligations.WarmupAveragesBackground : Prop :=
  ∀ (s : State) (c : ChanId) (v : Nat), s.inService = true → QuietOk s → (s.chan c).phase = .warmup →
    (v < 4095 →
      exec (.sampleArrival c v .ok) s = .next (s.setChan c
        (if (s.chan c).warmCount + 1 = (s.chan c).warmLength then
          { s.chan c with
            phase := .quiet
            warmSum := (s.chan c).warmSum + v
            warmCount := (s.chan c).warmCount + 1
            bfp := ((s.chan c).warmSum + v) * 16 / (s.chan c).warmLength
            glare := decide (3000 ≤ ((s.chan c).warmSum + v) * 16 / (s.chan c).warmLength / 16)
            count := 0
            nonOkRun := 0 }
        else
          { s.chan c with
            warmSum := (s.chan c).warmSum + v, warmCount := (s.chan c).warmCount + 1, nonOkRun := 0 })))
    ∧ ∀ z, Confirms s c v z → (s.zone z).prot = .lit →
      exec (.sampleArrival c v .ok) s = .next ((s.setChan c { s.chan c with
        phase := .confirmed
        early := true
        count := 1
        pickupTime := some s.stamp
        peak := 4095
        warmSum := 0
        warmCount := 0
        nonOkRun := 0 }).setZone z { s.zone z with confirmed := (s.zone z).confirmed.add c })

/-- R5 to R9, Table 1-4: the line supervision. A non-OK sample short of the 200th of its run, or at an OFF or line-faulted
channel, has the effect of Table 1-4, and but in OFF and FAULTED(LINE) it counts in its run: a warm-up is restarted, PICKUP
returns to QUIET, TESTING stays, and in FAULTED(LINE) the OK run count is 0. A CONFIRMED channel returns to QUIET, or with
the early flag enters a fresh WARMUP, and reports its drop. The 200th of a run, as a sample or as the event that the table
names, takes a channel that is in WARMUP, QUIET, PICKUP or FAULTED(OPTICAL) to FAULTED(LINE) and seals its CHANNEL_FAULT
record; what Table 1-4 says of that sample has happened first, and background, glare, pickup time and peak are kept. In
FAULTED(LINE) an OK sample short of the 20,000th of its run is counted, and the 20,000th takes the channel to a fresh WARMUP
without a cause and seals nothing. In OFF an OK sample does nothing, and in FAULTED(OPTICAL) it ends the run of non-OK
samples. Nothing else changes. -/
def Obligations.LineRunsEnd : Prop :=
  ∀ (s : State) (c : ChanId) (v : Nat), s.inService = true → QuietOk s → v ≤ 4095 →
    let x := s.chan c
    let broken := brokenBy s.inForce.fast x
    let faulted := x.phase = .faulted ∧ x.cause = some .line
    (∀ line, line ≠ .ok → x.nonOkRun + 1 ≠ 200 ∨ x.phase = .off ∨ faulted →
      (x.phase ≠ .confirmed → exec (.sampleArrival c v line) s = .next (s.setChan c broken))
      ∧ (x.phase = .confirmed → DropsTo s c broken (exec (.sampleArrival c v line) s)))
    ∧ (x.nonOkRun = 199 →
      x.phase = .warmup ∨ x.phase = .quiet ∨ x.phase = .pickup ∨ (x.phase = .faulted ∧ x.cause = some .optical) →
      ∃ t, exec (.lineFault c) s = .next t
        ∧ exec (.sampleArrival c v .openLoop) s = .next t ∧ exec (.sampleArrival c v .short) s = .next t
        ∧ t.chan c = { broken with
            phase := .faulted, cause := some .line, early := false, count := 0, nonOkRun := 0, okRun := 0 }
        ∧ OnlyChan s t c ∧ Sealed s t (.channelFault c .line none) ∧ SameBut [.channels, .records, .ports] s t)
    ∧ (faulted → x.okRun + 1 ≠ 20000 →
      exec (.sampleArrival c v .ok) s = .next (s.setChan c { x with okRun := x.okRun + 1 }))
    ∧ (faulted → x.okRun = 19999 →
      ∃ t, exec (.lineRecovery c) s = .next t ∧ exec (.sampleArrival c v .ok) s = .next t
        ∧ FreshWarmup s.inForce.fast x (t.chan c) ∧ (t.chan c).cause = none
        ∧ OnlyChan s t c ∧ SameBut [.channels] s t)
    ∧ (x.phase = .off → exec (.sampleArrival c v .ok) s = .next s)
    ∧ (x.phase = .faulted → x.cause = some .optical →
      exec (.sampleArrival c v .ok) s = .next (s.setChan c { x with nonOkRun := 0 }))

/-! ### The switchboard map -/

/-- R43 to R45, R54: what the map gives. The island of an in-use zone is the least set that holds it and is closed under the
filled links between zones in use; the island of a zone not in use is empty. The boundary of a set holds the in-use breakers
with exactly one side in it: side A counts for a COUPLER only. The trip set is the boundary without the breakers whose
position is OPEN, and a set's missing breakers, for an order, are those of its trip set that the order does not list; each
list is in ascending order. The current condition of a zone is met where the zone is light-only, where no breaker of its
island's trip set has current-confirm used, and where one that has it used has its current ASSERTED. -/
def Obligations.IslandIsLeastClosedSet : Prop :=
  (∀ (w : Settings) (z : ZoneId),
    ((look w.zones z).inUse = false → islandIn w z = 0)
    ∧ ((look w.zones z).inUse = true →
        (islandIn w z).has z = true
        ∧ (∀ l a b, look w.links l = some (a, b) → (look w.zones a).inUse = true → (look w.zones b).inUse = true →
            (islandIn w z).has a = (islandIn w z).has b)
        ∧ ∀ m : Marks 12, m.has z = true →
            (∀ l a b, look w.links l = some (a, b) → (look w.zones a).inUse = true → (look w.zones b).inUse = true →
              m.has a = m.has b) →
            ∀ y, (islandIn w z).has y = true → m.has y = true))
  ∧ ∀ (s : State) (m : Marks 12),
    (∀ b, b ∈ s.boundary m ↔
      (s.breakerRec b).inUse = true
        ∧ ((∃ a, (s.breakerRec b).role = .coupler ∧ (s.breakerRec b).sideA = .zone a ∧ m.has a = true)
          ↔ m.has (s.breakerRec b).sideB = false))
    ∧ (∀ b, b ∈ s.tripSet m ↔ b ∈ s.boundary m ∧ (s.input b).position ≠ .opened)
    ∧ (∀ x b, b ∈ s.missing x m ↔ b ∈ s.tripSet m ∧ ∀ e, e ∈ x.entries → e.breaker ≠ b)
    ∧ (s.boundary m).Pairwise (· < ·) ∧ (s.tripSet m).Pairwise (· < ·) ∧ (∀ x, (s.missing x m).Pairwise (· < ·))
    ∧ ∀ z, s.island z = islandIn s.inForce z
      ∧ (s.currentCondition z = true ↔
        (s.zoneRec z).lightOnly = true
          ∨ (∀ b, b ∈ s.tripSet (s.island z) → (s.breakerRec b).ccUsed = false)
          ∨ ∃ b, b ∈ s.tripSet (s.island z) ∧ (s.breakerRec b).ccUsed = true ∧ (s.input b).current = true)

/-- R36, R37, R39, R41, R42, R55, R63, R66: the map's inputs. A changed contact pair is taken and restarts the 3 ms stability
timer; a changed current line is taken, and starts the 100 µs timer where it leaves the filtered value and stops it where it
returns. The UNKNOWN timer's end sets the position-fault flag. The filter timer's end gives the filtered current the
line's level. With a breaker that is not driven, or that the report does not find opened, and with no zone LIT where the
current is ASSERTED, that is all. A current that is ASSERTED at a HOLDING breaker with current-confirm used returns it to
DRIVING with its BF timer restarted, and in each order of its demand set its outcome is cleared, which withdraws a
resolution. Nothing else changes. (An opening found by a release: OpeningWritesOutcome; a LIT zone: CurrentAssertionTrips.)
-/
def Obligations.InputLinesAndTimers : Prop :=
  ∀ (s : State) (b : BreakerId), s.inService = true →
    let taken := { s.input b with filterTimer := none, current := (s.input b).curLine }
    let unlit := ∀ z, (s.zone z).prot ≠ .lit
    (∀ bpc bpo, ¬ ((s.input b).bpc = bpc ∧ (s.input b).bpo = bpo) →
      exec (.contactLineChange b bpc bpo) s =
        .next (s.setInput b { s.input b with bpc := bpc, bpo := bpo, stability := some (s.now + 3000) }))
    ∧ (∀ level, (s.input b).curLine ≠ level →
      exec (.currentLineChange b level) s =
        .next (s.setInput b { s.input b with
          curLine := level
          filterTimer := if level = (s.input b).current then none else some (s.now + 100) }))
    ∧ ((s.input b).unknownTimer.isSome = true →
      exec (.positionFaultTimerExpiry b) s =
        .next (s.setInput b { s.input b with unknownTimer := none, positionFault := true }))
    ∧ (QuietOk s → (s.input b).filterTimer.isSome = true → (s.trip b).phase ≠ .holding →
        ((s.trip b).phase = .driving ∨ (s.trip b).phase = .failed →
          (s.input b).position ≠ .opened ∨ ((s.breakerRec b).ccUsed = true ∧ (s.input b).curLine = true)) →
        ((s.input b).curLine = true → unlit) →
      exec (.filteredCurrentChange b) s = .next (s.setInput b taken))
    ∧ (QuietOk s → (s.input b).filterTimer.isSome = true → (s.input b).curLine = true → (s.input b).current = false →
        unlit → (s.trip b).phase = .holding → (s.breakerRec b).ccUsed = true →
      ∃ t, exec (.filteredCurrentChange b) s = .next t
        ∧ t.input b = taken ∧ (∀ a, a ≠ b → t.input a = s.input a)
        ∧ t.trip b = { s.trip b with
            phase := .driving, bfTimer := some (s.now + (s.breakerRec b).bfTime * 1000) } ∧ OnlyTrip s t b
        ∧ (∀ o, t.order o = if (s.trip b).demands.has o then (s.order o).map (clearedOf b) else s.order o)
        ∧ SameBut [.inputs, .trips, .orders] s t)

/-- R36, R37, R39, R40, R55, R58, R61, R63, R66, R68: at the stability timer's end the position takes the raw position that
the contact pair gives (Table 2-4): CLOSED with BPC high and BPO low, OPEN with BPC low and BPO high, else UNKNOWN. UNKNOWN
starts the 1 s timer of an in-use breaker; CLOSED and OPEN stop it and clear the fault flag; CLOSED under a lockout sets the
closed-against-lockout flag. A raw position equal to the position changes nothing but the timer. A change that is no opening
of a driven breaker and no leaving of OPEN does nothing more; nor does a leaving of OPEN by a breaker that is not HOLDING and
stands on no active order's boundary, with no zone LIT. A HOLDING breaker that leaves OPEN returns to DRIVING with its BF
timer restarted, and in each order of its demand set its outcome is cleared, which withdraws a resolution. An IDLE breaker
that leaves OPEN on the boundary of the one active order's span is appended at the order's level, or keeps its entry with the
outcome cleared, and is driven and locked; with another entry open, the demand of one in DRIVING, OPEN_DONE, FAILED or SPENT
is that of Table 3-6. A leaving of OPEN on the boundary of the one LIT zone's island evaluates the zone:
light-only, with no order active, an order is created in slot 0 that trips its trip set, now with the breaker in it. That the
order has no source, also where a current is ASSERTED, is the model's reading of R61 (DEDUCED, log 33). (The report to the
trip supervision unit comes before the one to the arc decision unit: the model's reading, log 16.) -/
def Obligations.PositionTakesRawValue : Prop :=
  ∀ (s : State) (b : BreakerId), s.inService = true → QuietOk s → (s.input b).stability.isSome = true →
    let raw := rawPosition (s.input b).bpc (s.input b).bpo
    let moved := { s.input b with
      stability := none
      position := raw
      unknownTimer :=
        if raw = .unknown then
          (if (s.breakerRec b).inUse = true then some (s.now + 1000000) else (s.input b).unknownTimer)
        else none
      positionFault := if raw = .unknown then (s.input b).positionFault else false
      closedAgainstLockout := (s.input b).closedAgainstLockout || (decide (raw = .closed) && s.locked b) }
    let listed := fun x : Order =>
      if x.lists b = true then x
      else { x with resolution := none, closeTimer := none, entries := x.entries ++ [openEntry x.level b] }
    let leaves := (s.input b).position = .opened ∧ raw ≠ .opened
    let off := ∀ o x, s.order o = some x → b ∉ s.boundary x.span
    let unlit := ∀ z, (s.zone z).prot ≠ .lit
    (raw = .closed ↔ (s.input b).bpc = true ∧ (s.input b).bpo = false)
    ∧ (raw = .opened ↔ (s.input b).bpc = false ∧ (s.input b).bpo = true)
    ∧ (raw = .unknown ↔ (s.input b).bpc = (s.input b).bpo)
    ∧ (raw = (s.input b).position →
      exec (.positionChange b) s = .next (s.setInput b { s.input b with stability := none }))
    ∧ (raw ≠ (s.input b).position → (s.trip b).phase ≠ .holding →
        ((s.trip b).phase = .driving ∨ (s.trip b).phase = .failed → raw ≠ .opened) → (leaves → off ∧ unlit) →
      exec (.positionChange b) s = .next (s.setInput b moved))
    ∧ (leaves → (s.trip b).phase = .holding → unlit →
        (∀ o x, s.order o = some x → b ∈ s.boundary x.span → (s.trip b).demands.has o = true ∧ x.lists b = true) →
      ∃ t, exec (.positionChange b) s = .next t
        ∧ t.input b = moved ∧ (∀ a, a ≠ b → t.input a = s.input a)
        ∧ t.trip b = { s.trip b with
            phase := .driving, bfTimer := some (s.now + (s.breakerRec b).bfTime * 1000) } ∧ OnlyTrip s t b
        ∧ (∀ o, t.order o = if (s.trip b).demands.has o then (s.order o).map (clearedOf b) else s.order o)
        ∧ SameBut [.inputs, .trips, .orders] s t)
    ∧ (∀ o x, leaves → (s.trip b).phase = .idle → unlit → s.order o = some x → (∀ q, q ≠ o → s.order q = none) →
        b ∈ s.boundary x.span →
      ∃ t, exec (.positionChange b) s = .next t
        ∧ t.input b = moved ∧ (∀ a, a ≠ b → t.input a = s.input a)
        ∧ Demanded s t o [b]
        ∧ t.order o = some (clearedOf b (listed x)) ∧ OnlyOrder s t o ∧ SameBut [.inputs, .trips, .orders, .lockout] s t)
    ∧ (∀ o x, leaves → (s.trip b).phase ≠ .idle → (s.trip b).phase ≠ .holding → unlit → s.order o = some x →
        (∀ q, q ≠ o → s.order q = none) → b ∈ s.boundary x.span →
        (∃ e, e ∈ x.entries ∧ e.breaker ≠ b ∧ e.outcome = none) →
      DemandTaken (s.setInput b moved) (exec (.positionChange b) s) o (listed x) b)
    ∧ ∀ z, leaves → (s.trip b).phase = .idle → (∀ o, s.order o = none) → (s.zone z).prot = .lit →
        (∀ y, y ≠ z → (s.zone y).prot ≠ .lit) → (s.zoneRec z).lightOnly = true → s.batch.state = .idle →
        b ∈ s.boundary (s.island z) → (∀ a, a ∈ s.boundary (s.island z) → (s.trip a).phase = .idle) →
      ∃ t, exec (.positionChange b) s = .next t
        ∧ t.input b = moved ∧ (∀ a, a ≠ b → t.input a = s.input a)
        ∧ t.zone z = { s.zone z with prot := .arc, alarmTimer := none, orderSlot := some 0 } ∧ OnlyZone s t z
        ∧ Created s t z 0 ((s.boundary (s.island z)).filter (fun a => a == b || !s.isOpen a))
        ∧ SameBut [.inputs, .zones, .orders, .trips, .lockout] s t

/-! ### Arc decisions, breakers and UT lines -/

/-- R52, R141: the light-alarm timer's end seals a LIGHT_ALARM record with the origin channel and the lit-since time and
sets the flag, unless the flag is set; the zone stays LIT, and nothing else changes. The origin is the channel of the
confirmed set with the earliest pickup time, each stamp read as microseconds, and a tie goes to the lowest channel number;
an empty set has none. -/
def Obligations.LightAlarmSealsOnce : Prop :=
  ∀ (s : State) (z : ZoneId), s.inService = true → (s.zone z).prot = .lit → (s.zone z).alarmTimer.isSome = true →
    ∃ t, exec (.lightAlarmTimerExpiry z) s = .next t
      ∧ t.zone z = { s.zone z with alarmTimer := none, alarmSent := true } ∧ OnlyZone s t z
      ∧ ((s.zone z).alarmSent = false → Sealed s t (.lightAlarm z (s.zoneOrigin z) (s.zone z).litSince))
      ∧ ((s.zone z).confirmed = 0 → s.zoneOrigin z = none)
      ∧ ((s.zone z).confirmed ≠ 0 → ∃ c, s.zoneOrigin z = some c ∧ (s.zone z).confirmed.has c = true
          ∧ ∀ d, (s.zone z).confirmed.has d = true →
            StandsBefore (c, (s.chan c).pickupTime) (d, (s.chan d).pickupTime))
      ∧ ((s.zone z).alarmSent = true → SameBut [.zones] s t)
      ∧ SameBut [.zones, .records, .ports] s t

/-- R56, R58, R61, R63, R91: a current assertion finds a LIT zone whose trip set includes the breaker, with no order active.
An order is created in slot 0 with the trip set at level 0 in ascending order, the zone enters ARC, and every IDLE breaker of
the trip set enters DRIVING with its three timers started, the order's demand, its TRIP line asserted and its lockout set. No
other zone, order or trip record changes. That the source is absent for a light-only zone, also where a current is ASSERTED,
is the model's reading of R61 (DEDUCED, log 33). -/
def Obligations.CurrentAssertionTrips : Prop :=
  ∀ (s : State) (b : BreakerId) (z : ZoneId), s.inService = true → (s.input b).filterTimer.isSome = true →
    (s.input b).curLine = true → (s.input b).current = false →
    (s.zone z).prot = .lit → (s.zoneRec z).inUse = true → (∀ y, y ≠ z → (s.zone y).prot ≠ .lit) →
    (∀ o, s.order o = none) → s.batch.state = .idle →
    b ∈ s.tripSet (s.island z) → (s.breakerRec b).ccUsed = true →
    (∀ x, x ∈ s.tripSet (s.island z) → (s.trip x).phase = .idle) →
    ∃ t, exec (.filteredCurrentChange b) s = .next t
      ∧ t.input b = { s.input b with filterTimer := none, current := true } ∧ (∀ a, a ≠ b → t.input a = s.input a)
      ∧ t.zone z = { s.zone z with prot := .arc, alarmTimer := none, orderSlot := some 0 } ∧ OnlyZone s t z
      ∧ Created s t z 0 (s.tripSet (s.island z)) ∧ SameBut [.inputs, .zones, .orders, .trips, .lockout] s t

/-- R64, R65, R60, R69, R70, R75, R76, R144: a position change to OPEN with the current RELEASED or not used, or a change of
the current to RELEASED with the position OPEN, at a breaker in DRIVING or FAILED. The report is stored, and the BF timer
stops. While its minimum pulse runs the breaker is HOLDING, else OPEN_DONE with the ceiling stopped. The order that demands
it gets the outcome with the event's time and the open offset in tenths of a ms, FAILED_THEN_OPENED where the
failed-since-drive flag is set, and is tested for resolution. With another entry still open, or a line of the UT set short
of its minimum, it is not resolved. Else it is: with a zone lit it has its resolution time and the 5 s close timer, and with
every zone unlit it closes at once. Its record is sealed, its claims and demands are withdrawn, and its zones enter HELD
where a hold stands, else DARK. A batch SUSPENDED with cause LIGHT has its quiet timer started at 1 s where the close leaves
the board dark (R134). Nothing else changes. -/
def Obligations.OpeningWritesOutcome : Prop :=
  ∀ (s : State) (b : BreakerId) (c : Instr) (i : Inputs) (o : SlotId) (x : Order), OpeningReport s b c i → QuietOk s →
    (s.trip b).phase = .driving ∨ (s.trip b).phase = .failed → (s.trip b).demands.members = [o] → s.order o = some x →
    x.resolution = none →
    let opened :=
      if (s.trip b).minTimer.isSome = true then { s.trip b with phase := .holding, bfTimer := none }
      else { s.trip b with phase := .openDone, bfTimer := none, ceilTimer := none }
    ∃ t, exec c s = .next t
      ∧ Tested ((s.setInput b i).setTrip b opened) t o
          (writtenIn s.stamp b (if (s.trip b).failed then .failedThenOpened else .opened) x)

/-- R66, R69, R70, R71, R75, R77: the minimum-pulse timer's end takes HOLDING to OPEN_DONE with TRIP released and the
ceiling stopped; at a breaker in DRIVING or FAILED only the timer stops. The pulse-ceiling timer's end at a FAILED breaker
gives SPENT with its three timers stopped and TRIP released: the one order of its demand set gets outcome SPENT with the
event's time, and is tested for resolution: with another entry still open it is not resolved, and the last outcome resolves
it, or closes it where its zones are unlit. -/
def Obligations.PulseTimersEnd : Prop :=
  ∀ (s : State) (b : BreakerId), s.inService = true →
    ((s.trip b).minTimer.isSome = true → (s.trip b).phase = .holding →
      ∃ t, exec (.minimumPulseTimerExpiry b) s = .next t
        ∧ t = s.setTrip b { s.trip b with phase := .openDone, minTimer := none, ceilTimer := none }
        ∧ t.tripLine b = false)
    ∧ ((s.trip b).minTimer.isSome = true → (s.trip b).phase = .driving ∨ (s.trip b).phase = .failed →
      ∃ t, exec (.minimumPulseTimerExpiry b) s = .next t
        ∧ t = s.setTrip b { s.trip b with minTimer := none } ∧ t.tripLine b = true)
    ∧ ∀ (o : SlotId) (x : Order), QuietOk s →
        (s.trip b).phase = .failed → (s.trip b).ceilTimer.isSome = true → (s.trip b).demands.members = [o] →
        s.order o = some x → x.resolution = none →
      ∃ t, exec (.pulseCeilingTimerExpiry b) s = .next t ∧ t.tripLine b = false
        ∧ Tested (s.setTrip b { s.trip b with phase := .spent, bfTimer := none, minTimer := none, ceilTimer := none }) t o
            (writtenIn s.stamp b .spent x)

/-- R74, R83, R84: the BF timer's end takes a DRIVING incomer to FAILED, still driven, with its flag set and the other
timers running on. The one order of its demand set claims the incomer's UT line: a released line is asserted with a 200 ms
minimum, and a line already asserted gets the claim and nothing else. With no UT line, the incomer joins the order's
no-upstream-path set. -/
def Obligations.FailedIncomerEscalatesUpstream : Prop :=
  ∀ (s : State) (b : BreakerId) (o : SlotId) (x : Order), s.inService = true → QuietOk s →
    (s.trip b).phase = .driving → (s.trip b).bfTimer.isSome = true → (s.breakerRec b).role = .incomer →
    (s.trip b).demands.members = [o] → s.order o = some x →
    let failed := s.setTrip b { s.trip b with phase := .failed, bfTimer := none, failed := true }
    (∀ u, (s.breakerRec b).utLine = some u →
      exec (.bfTimerExpiry b) s =
        .next ((failed.setUt u
          (if (s.utLine u).asserted = true then { s.utLine u with claims := (s.utLine u).claims.add o }
          else
            { asserted := true, claims := (s.utLine u).claims.add o, since := some s.stamp
              minimum := .running (s.now + 200000) })).setOrder o (some { x with ut := x.ut.add u })))
    ∧ ((s.breakerRec b).utLine = none →
      exec (.bfTimerExpiry b) s = .next (failed.setOrder o (some { x with noUpstream := x.noUpstream.add b })))

/-- R63, R74, R80, R81, R82: the BF timer's end at a DRIVING coupler, which is FAILED, still driven. With both sides or
neither side in the span of the one order that demands it, that is all. With one side in the span, either one, and the other
outside: below level 2 the span grows by the outer side's island, the level rises by 1, and the new boundary's breakers that
are neither OPEN nor listed are appended at the new level in ascending number and, IDLE, driven with their three timers
started, and locked. The rest of the order, the other orders and the other trip records stay as they are; an order that was
resolved loses its resolution with an entry appended (R69). At level 2 only the escalation-limit flag is set. Where the one
breaker appended is not IDLE and another entry is open, its demand is that of Table 3-6 (R63): nothing more at one in
DRIVING, the outcome at one in HOLDING, a fresh drive at one in OPEN_DONE, and an escalation across one in FAILED or SPENT.
-/
def Obligations.FailedCouplerGrowsSpan : Prop :=
  ∀ (s : State) (b : BreakerId) (o : SlotId) (x : Order) (a : ZoneId), s.inService = true → QuietOk s →
    (s.trip b).phase = .driving → (s.trip b).bfTimer.isSome = true → (s.breakerRec b).role = .coupler →
    (s.breakerRec b).sideA = .zone a → (s.trip b).demands.members = [o] → s.order o = some x →
    let failed := s.setTrip b { s.trip b with phase := .failed, bfTimer := none, failed := true }
    let inA := x.span.has a
    let inB := x.span.has (s.breakerRec b).sideB
    (inA = inB → exec (.bfTimerExpiry b) s = .next failed)
    ∧ ∀ far, (inA = true ∧ inB = false ∧ far = (s.breakerRec b).sideB) ∨ (inA = false ∧ inB = true ∧ far = a) →
      (x.level = 2 → exec (.bfTimerExpiry b) s = .next (failed.setOrder o (some { x with escLimit := true })))
      ∧ (let new := s.missing x (x.span ||| s.island far)
        x.level < 2 → (∀ y, y ∈ new → (s.trip y).phase = .idle ∧ (s.trip y).demands = 0) →
        ∃ t, exec (.bfTimerExpiry b) s = .next t
          ∧ t.order o = some { x with
              span := x.span ||| s.island far, level := x.level + 1
              entries := x.entries ++ new.map (openEntry (x.level + 1))
              resolution := if new = [] then x.resolution else none
              closeTimer := if new = [] then x.closeTimer else none } ∧ OnlyOrder s t o
          ∧ Demanded failed t o new ∧ SameBut [.trips, .orders, .lockout] s t)
      ∧ ∀ y, x.level < 2 → s.missing x (x.span ||| s.island far) = [y] → y ≠ b → (s.trip y).phase ≠ .idle →
          (∃ e, e ∈ x.entries ∧ e.breaker ≠ y ∧ e.outcome = none) →
        DemandTaken failed (exec (.bfTimerExpiry b) s) o { x with
          span := x.span ||| s.island far, level := x.level + 1, entries := x.entries ++ [openEntry (x.level + 1) y]
          resolution := none, closeTimer := none } y

/-- R69, R70, R84, R85: the minimum timer's end marks it run out. A line without claims is released at once. A line that is
claimed stays asserted, and while each claimant is resolved or has an entry still open, that is all. A sole claimant that is
not resolved is tested for resolution: complete, it is resolved, or closed where its zones are unlit, which withdraws its
claim and releases the line. -/
def Obligations.UtMinimumEnds : Prop :=
  ∀ (s : State) (u : UtId), s.inService = true → QuietOk s → (s.utLine u).timing = true →
    let ranOut := s.setUt u { s.utLine u with minimum := .runOut }
    ((s.utLine u).claims = 0 →
      exec (.utMinimumTimerExpiry u) s =
        .next (s.setUt u { asserted := false, claims := 0, since := none, minimum := .stopped }))
    ∧ ((s.utLine u).claims ≠ 0 →
        (∀ o x, (s.utLine u).claims.has o = true → s.order o = some x →
          x.resolution ≠ none ∨ ∃ e, e ∈ x.entries ∧ e.outcome = none) →
      exec (.utMinimumTimerExpiry u) s = .next ranOut)
    ∧ ∀ o x, (s.utLine u).claims.members = [o] → s.order o = some x → x.resolution = none → x.ut.has u = true →
      ∃ t, exec (.utMinimumTimerExpiry u) s = .next t ∧ Tested ranOut t o x

/-- R53, R71, R85, R109, R131, R133, R134: the five steps of a close, reached by the close timer's end. Among the channels
only those in PICKUP or CONFIRMED that watch a zone which enters HELD change: their counts are cleared. A zone that enters
LIT suspends a batch that is GATHERING, or RUNNING with a current channel that does not watch it: the cause is LIGHT, and
the current channel is released. Otherwise the batch stays, but for the quiet timer: at a batch SUSPENDED with cause LIGHT
it is stopped while a zone is LIT or ARC, and on a dark board runs on or starts at 1 s. A zone that enters HELD has no
lit-since time and no light-alarm timer, and its held-light-sent flag is clear. That a zone which enters DARK or HELD has
both sent-flags cleared is the model's reading (DEDUCED, log 17); R71 says it for a zone that enters LIT. That the emit sum
of a suspended batch is 0 is the model's choice (log 37). -/
def Obligations.CloseOrderFiveSteps : Prop :=
  ∀ (s : State) (o : SlotId) (x : Order), s.inService = true → s.order o = some x → x.closeTimer.isSome = true →
    let suspends := ∃ z, z ∈ x.zones ∧ (s.zone z).hasHold = false ∧ (s.zoneRec z).inUse = true ∧ (s.zone z).confirmed ≠ 0
      ∧ LitSuspends s z
    ∃ t, exec (.closeTimerExpiry o) s = .next t
      ∧ (∀ u, u ∈ x.ut.members →
          (t.utLine u).claims = (s.utLine u).claims.drop o
            ∧ ((s.utLine u).claims.drop o = 0 → (s.utLine u).minimum = .runOut →
                (t.utLine u).asserted = false ∧ (t.utLine u).since = none ∧ (t.utLine u).minimum = .stopped)
            ∧ ((s.utLine u).minimum ≠ .runOut → t.utLine u = { s.utLine u with claims := (s.utLine u).claims.drop o }))
      ∧ (∀ u, u ∉ x.ut.members → t.utLine u = s.utLine u)
      ∧ Sealed s t (.arc (s.arcRecord o x))
      ∧ (∀ b, x.lists b = true → t.trip b = { s.trip b with demands := (s.trip b).demands.drop o })
      ∧ (∀ b, x.lists b = false → t.trip b = s.trip b)
      ∧ (∀ z, z ∈ x.zones →
          (t.zone z).orderSlot = none ∧ (t.zone z).confirmed = (s.zone z).confirmed ∧ (t.zone z).holds = (s.zone z).holds
            ∧ (t.zone z).alarmSent = false ∧ (t.zone z).noSourceSent = false
            ∧ (t.zone z).heldLightSent = (if (s.zone z).hasHold then false else (s.zone z).heldLightSent)
            ∧ (if (s.zone z).hasHold then
                  (t.zone z).prot = .held ∧ (t.zone z).litSince = none ∧ (t.zone z).alarmTimer = none
                else if (s.zoneRec z).inUse = false ∨ (s.zone z).confirmed = 0 then
                  (t.zone z).prot = .dark ∧ (t.zone z).litSince = none ∧ (t.zone z).alarmTimer = none
                else
                  (t.zone z).prot = .lit ∧ (t.zone z).litSince = some s.stamp
                    ∧ (t.zone z).alarmTimer = some (s.now + 2000000)))
      ∧ (∀ z, z ∉ x.zones → t.zone z = s.zone z)
      ∧ t.order o = none ∧ OnlyOrder s t o
      ∧ (suspends → t.batch = suspendedByLight s.batch)
      ∧ (¬ suspends → t.batch = quietSettled s t)
      ∧ (∀ c, (suspends → s.batch.current = some c → Released s.inForce.fast (s.chan c) (t.chan c))
          ∧ (¬ (suspends ∧ s.batch.current = some c) → t.chan c = countsCleared s x c))
      ∧ SameBut [.channels, .zones, .orders, .trips, .ut, .batch, .records, .ports] s t

/-- R62, R84, R92, R118, R148, R159, R169, R184, R189, R191: the output lines and the data they follow. TRIP follows the
trip state; CI follows the mark in PROTECTING and BACKSTOP, and is asserted in RESET and LOADING of a powered part; UT
follows its line's record; TE is on exactly for the current channel in its EMIT step. TRIP, UT and TE are off in RESET and
LOADING. HEALTHY is asserted exactly in PROTECTING with every zone covered and no store fault, position fault or unsound
trip supply. A zone is uncovered exactly in PROTECTING and BACKSTOP, in use and not HELD, where no channel in use that
watches it is in QUIET, PICKUP or CONFIRMED. ATTN is asserted exactly while the port's slot is ANSWERED, its unfetched count
is above 0, or one of its three flags is set, and is released in RESET. SDO is high-impedance with no frame outgoing, else
it shows the frame's bits, the most significant of byte 0 first, and after the 192nd the last bit of byte 23. That a part
without power is told by the powered flag is the model's choice (log 30). -/
def Obligations.OutputLinesFollowState : Prop :=
  ∀ s : State,
    (s.inService = true ↔ s.mode = .protecting ∨ s.mode = .backstop)
    ∧ (∀ b, s.tripLine b = true ↔
      s.inService = true ∧ ((s.trip b).phase = .driving ∨ (s.trip b).phase = .holding ∨ (s.trip b).phase = .failed))
    ∧ (∀ b, s.powered = true → (s.inService = true → s.ciLine b = s.locked b) ∧ (s.inService = false → s.ciLine b = true))
    ∧ (∀ u, s.utLevel u = true ↔ s.inService = true ∧ (s.utLine u).asserted = true)
    ∧ (∀ c, s.teLine c = true ↔ s.inService = true ∧ s.batch.current = some c ∧ s.batch.step = some .emit)
    ∧ (∀ z, s.uncovered z = true ↔
        s.inService = true ∧ (s.zoneRec z).inUse = true ∧ (s.zone z).prot ≠ .held
          ∧ ∀ c, (s.chanRec c).inUse = true → (s.chanRec c).primary = z ∨ (s.chanRec c).secondary = some z →
            (s.chan c).phase ≠ .quiet ∧ (s.chan c).phase ≠ .pickup ∧ (s.chan c).phase ≠ .confirmed)
    ∧ (s.healthy = true ↔
        s.mode = .protecting ∧ (∀ z, s.uncovered z = false) ∧ s.lockout.fault = false ∧ s.sets.failed = false
          ∧ s.sup.supply = .ok ∧ ∀ b, (s.input b).positionFault = false)
    ∧ (∀ p, s.unfetched p = (s.nextSeq + 65536 - (s.port p).cursor) % 65536)
    ∧ (s.mode = .reset → ∀ p, s.attn p = false)
    ∧ (s.mode ≠ .reset → ∀ p, s.attn p = true ↔
        (∃ r a, (s.port p).slot = .answered r a) ∨ 0 < s.unfetched p ∨ (s.port p).frameError = true
          ∨ (s.port p).dropped = true ∨ (s.port p).lost = true)
    ∧ ∀ p k, ((s.port p).outgoing = none → s.sdo p k = none)
      ∧ ∀ f, (s.port p).outgoing = some f → f.bytes.length = 24 →
        s.sdo p k = some ((f.bytes.getD (min k 191 / 8) 0#8).getLsbD (7 - min k 191 % 8))

/-! ### Lockouts -/

/-- R99, R100: the two ends of a lockout word update. A completion stops the timer and clears FAULT: the store goes to IDLE
with a valid word that holds the lockout set, or, where a change waits, starts a fresh update. The end of the 60 ms timer
abandons the update with FAULT set and the word invalid: IDLE, or a fresh update where a change waits; the abandoned update's
completion does not follow. That this completion is told by its running time, that of the abandonment, is the model's choice
(log 39). That before its end the timer's command changes nothing, as after a completion taken first, which has stopped the
timer and started a fresh one, is the model's choice (log 4). -/
def Obligations.LockoutUpdateEnds : Prop :=
  ∀ s : State, LockoutWordOk s →
    (s.lockout.abandonedAt ≠ some s.now →
      (s.inService = true → s.lockout.store = .updating →
        exec .lockoutUpdateCompletion s = .next (s.setLockout {
          marks := s.lockout.marks, store := .idle, snapshot := none, timer := none, fault := false
          word := { marks := s.lockout.marks, complement := ~~~ s.lockout.marks, marker := true }
          abandonedAt := s.lockout.abandonedAt }))
      ∧ (s.lockout.store = .updatingAgain →
        ∃ t, exec .lockoutUpdateCompletion s = .next t
          ∧ t.lockout.marks = s.lockout.marks ∧ t.lockout.store = .updating
          ∧ t.lockout.snapshot = some s.lockout.marks ∧ t.lockout.timer = some (s.now + 60000)
          ∧ t.lockout.fault = false ∧ t.lockout.word.valid = false
          ∧ t.lockout.abandonedAt = s.lockout.abandonedAt ∧ SameBut [.lockout] s t))
    ∧ (s.lockout.abandonedAt = some s.now → exec .lockoutUpdateCompletion s = .next s)
    ∧ (∀ e, s.lockout.timer = some e → e ≤ s.now → s.lockout.store = .updating →
      ∃ t, exec .lockoutUpdateTimerExpiry s = .next t
        ∧ t.lockout.marks = s.lockout.marks ∧ t.lockout.store = .idle ∧ t.lockout.snapshot = none
        ∧ t.lockout.timer = none ∧ t.lockout.fault = true ∧ t.lockout.word.valid = false
        ∧ exec .lockoutUpdateCompletion t = .next t ∧ SameBut [.lockout] s t)
    ∧ (∀ e, s.lockout.timer = some e → s.now < e → exec .lockoutUpdateTimerExpiry s = .next s)
    ∧ (∀ e, s.lockout.timer = some e → e ≤ s.now → s.lockout.store = .updatingAgain →
      ∃ t, exec .lockoutUpdateTimerExpiry s = .next t
        ∧ t.lockout.marks = s.lockout.marks ∧ t.lockout.store = .updating
        ∧ t.lockout.snapshot = some s.lockout.marks ∧ t.lockout.timer = some (s.now + 60000)
        ∧ t.lockout.fault = true ∧ t.lockout.word.valid = false
        ∧ exec .lockoutUpdateCompletion t = .next t ∧ SameBut [.lockout] s t)

/-- R93: the checks of Release Lockout, in their order. A refused release has no effect, and one that passes is answered
DONE; at an UNLOCKED breaker it changes nothing. -/
def Obligations.ReleaseLockoutChecks : Prop :=
  ∀ (s : State) (p : PortId) (r : Request), s.executing = some (p, r) → r.kind = 0x18#8 →
    let refused := fun c : ResultCode =>
      ∃ t, exec .releaseLockout s = .next t ∧ Answered s t p r (.refuse c) ∧ SameBut [.ports, .limits] s t
    if s.inService = false then refused .mode
    else if h : r.byte 0 < 8 then
      let b : BreakerId := ⟨r.byte 0, h⟩
      if s.mode = .protecting ∧ (s.breakerRec b).owner ≠ p then refused .notOwner
      else if ¬ ((s.trip b).phase = .idle ∨ (s.trip b).phase = .openDone ∨ (s.trip b).phase = .spent) then refused .state
      else if ¬ (((s.zone (s.breakerRec b).sideB).prot = .dark ∨ (s.zone (s.breakerRec b).sideB).prot = .held)
          ∧ ((s.breakerRec b).role = .coupler → ∀ a, (s.breakerRec b).sideA = .zone a →
              (s.zone a).prot = .dark ∨ (s.zone a).prot = .held)) then refused .state
      else
        ∃ t, exec .releaseLockout s = .next t ∧ Answered s t p r { code := .done, data := [] }
          ∧ SameBut [.trips, .inputs, .lockout, .ports, .limits] s t
          ∧ (s.locked b = false → SameBut [.ports, .limits] s t)
    else refused .item

/-- R94: an accepted release of a LOCKED breaker: IDLE with an empty demand set and its timers stopped, UNLOCKED with CI
released, closed-against-lockout clear, and the change handed to the store. An accepted release of an UNLOCKED breaker
changes none of these. -/
def Obligations.ReleaseLockoutUnlocks : Prop :=
  ∀ (s : State) (p : PortId) (r : Request) (b : BreakerId), Serving s p r → r.kind = 0x18#8 → r.byte 0 = b.val →
    (s.mode = .protecting → (s.breakerRec b).owner = p) →
    (s.trip b).phase = .idle ∨ (s.trip b).phase = .openDone ∨ (s.trip b).phase = .spent →
    (∀ z, z ∈ (s.breakerRec b).sideZones → (s.zone z).prot = .dark ∨ (s.zone z).prot = .held) →
    (s.locked b = true →
      ∃ t, exec .releaseLockout s = .next t ∧ Answered s t p r { code := .done, data := [] }
        ∧ t.trip b = { phase := .idle, demands := 0, bfTimer := none, minTimer := none, ceilTimer := none
                       failed := false } ∧ OnlyTrip s t b
        ∧ t.lockout.marks = s.lockout.marks.drop b ∧ t.ciLine b = false
        ∧ (t.input b) = { s.input b with closedAgainstLockout := false } ∧ (∀ a, a ≠ b → t.input a = s.input a)
        ∧ (s.lockout.store = .idle →
            t.lockout.store = .updating ∧ t.lockout.snapshot = some t.lockout.marks
              ∧ t.lockout.timer = some (s.now + 60000) ∧ t.lockout.word.valid = false)
        ∧ (s.lockout.store ≠ .idle →
            t.lockout.store = .updatingAgain ∧ t.lockout.snapshot = s.lockout.snapshot
              ∧ t.lockout.timer = s.lockout.timer)
        ∧ SameBut [.trips, .inputs, .lockout, .ports, .limits] s t)
    ∧ (s.locked b = false →
      ∃ t, exec .releaseLockout s = .next t ∧ Answered s t p r { code := .done, data := [] }
        ∧ SameBut [.ports, .limits] s t)

/-! ### Zone holds -/

/-- R24, R53, R105 to R109, R134: a zone is held while a port has an entry on it. Hold Zone is refused ITEM for a zone
number above 11 and for a zone not in use. On a zone in use it places or renews the port's entry with a duration clamped to
1 to 480 min. A zone with an order stays ARC, and one that is held already stays as it is, but for the entry. A DARK or LIT
zone without an entry enters HELD: its lit-since time, its two sent-flags, its light-alarm timer and its held-light-sent
flag are cleared, its confirmed set is kept, and the counts of watching channels in PICKUP or CONFIRMED are cleared. The
batch is kept but for its quiet timer, which at a batch SUSPENDED with cause LIGHT is stopped while a zone is LIT or ARC,
and on a dark board runs on or starts at 1 s (R134). -/
def Obligations.HoldZoneHolds : Prop :=
  ∀ (s : State) (p : PortId) (r : Request), Serving s p r → r.kind = 0x10#8 →
    let refused := ∃ t, exec .holdZone s = .next t ∧ Answered s t p r (.refuse .item) ∧ SameBut [.ports, .limits] s t
    (∀ z, (s.zone z).hasHold = true ↔ ∃ q, s.holdOf z q ≠ none)
    ∧ (12 ≤ r.byte 0 → refused)
    ∧ ∀ z : ZoneId, r.byte 0 = z.val →
      ((s.zoneRec z).inUse = false → refused)
      ∧ ((s.zoneRec z).inUse = true → HoldsOk s →
        let d := r.byte 1 * 256 + r.byte 2
        let m := max 1 (min 480 d)
        let entered := (s.zone z).prot = .dark ∨ (s.zone z).prot = .lit
        ∃ t, exec .holdZone s = .next t
          ∧ (∀ q, t.holdOf z q = if q = p then some (s.now + m * 60000000) else s.holdOf z q)
          ∧ (entered → t.zone z =
              { prot := .held, confirmed := (s.zone z).confirmed, litSince := none, alarmSent := false
                noSourceSent := false, alarmTimer := none, orderSlot := none, holds := (t.zone z).holds
                heldLightSent := false })
          ∧ (¬ entered → t.zone z = { s.zone z with holds := (t.zone z).holds })
          ∧ OnlyZone s t z
          ∧ (∀ c, t.chan c =
              if entered ∧ (s.chanRec c).watches z = true ∧ ((s.chan c).phase = .pickup ∨ (s.chan c).phase = .confirmed) then
                { s.chan c with count := 0 }
              else s.chan c)
          ∧ Answered s t p r {
              code := if m = d then .done else .doneClamped
              data := num1 (if (s.zone z).prot = .arc then 2 else 3) ++ num2 (m * 60) }
          ∧ t.batch = quietSettled s t
          ∧ SameBut [.zones, .channels, .batch, .ports, .limits] s t)

/-- R111, R113, R25, R134: Free Zone is refused ITEM for a zone number above 11, and makes no check that the zone is in use.
It removes the port's own entry, if it has one. Where another port's entry remains, or the zone is ARC, that is all. Where
the last entry of a HELD zone goes, the zone enters DARK and the channels that watch it are forced quiet: a channel in
PICKUP returns to QUIET with c = 0, and one in CONFIRMED to QUIET or to a fresh WARMUP, with its drop at the zones it
watches; a quiet timer starts at 1 s where the drop leaves the board dark under a batch SUSPENDED with cause LIGHT. -/
def Obligations.FreeZoneFrees : Prop :=
  ∀ (s : State) (p : PortId) (r : Request), Serving s p r → QuietOk s → r.kind = 0x11#8 →
    (12 ≤ r.byte 0 →
      ∃ t, exec .freeZone s = .next t ∧ Answered s t p r (.refuse .item) ∧ SameBut [.ports, .limits] s t)
    ∧ ∀ z : ZoneId, r.byte 0 = z.val →
      (s.holdOf z p = none →
        ∃ t, exec .freeZone s = .next t ∧ Answered s t p r { code := .done, data := [] } ∧ SameBut [.ports, .limits] s t)
      ∧ (s.holdOf z p ≠ none → (∃ q, q ≠ p ∧ s.holdOf z q ≠ none) ∨ (s.zone z).prot = .arc →
        ∃ t, exec .freeZone s = .next t ∧ Answered s t p r { code := .done, data := [] }
          ∧ t.zone z = { s.zone z with holds := put (s.zone z).holds p none } ∧ OnlyZone s t z
          ∧ SameBut [.zones, .ports, .limits] s t)
      ∧ (s.holdOf z p ≠ none → (∀ q, q ≠ p → s.holdOf z q = none) → (s.zone z).prot = .held →
          (∀ c, (s.chanRec c).watches z = true → (s.chan c).phase ≠ .confirmed) →
        ∃ t, exec .freeZone s = .next t ∧ Answered s t p r { code := .done, data := [] }
          ∧ (t.zone z).prot = .dark ∧ (t.zone z).hasHold = false ∧ (t.zone z).confirmed = (s.zone z).confirmed
          ∧ OnlyZone s t z
          ∧ (∀ c, t.chan c =
              if (s.chanRec c).watches z = true ∧ (s.chan c).phase = .pickup then
                { s.chan c with phase := .quiet, early := false, count := 0 }
              else s.chan c)
          ∧ SameBut [.zones, .channels, .ports, .limits] s t)
      ∧ (s.holdOf z p ≠ none → (∀ q, q ≠ p → s.holdOf z q = none) → (s.zone z).prot = .held → ArcUntouched s z →
        ∃ t, exec .freeZone s = .next t ∧ Answered s t p r { code := .done, data := [] } ∧ LeftHeld s t z
          ∧ t.batch = quietSettled s t
          ∧ SameBut [.zones, .channels, .batch, .ports, .limits] s t)

/-- R112, R113, R114, R25, R134: the expiry of a hold entry removes it and seals a HOLD_EXPIRED record. Where another entry
remains, or the zone is ARC, that is all; where the list ends empty at a HELD zone, the zone enters DARK and the channels
that watch it are forced quiet; a quiet timer starts at 1 s where that leaves the board dark under a batch SUSPENDED with
cause LIGHT. An entry whose expiry has not come stays, and nothing changes: R114 says it of a renewal taken first, and that
it holds of the command in every state is the model's choice (DESIGN CHOICE, log 4). -/
def Obligations.HoldExpiryRemovesEntry : Prop :=
  ∀ (s : State) (p : PortId) (z : ZoneId) (e : Nat), s.inService = true → QuietOk s → s.holdOf z p = some e →
    (∀ y q, s.holdOf y q = some e → y = z ∧ q = p) →
    (s.now < e → exec (.holdExpiry z p) s = .next s)
    ∧ (e ≤ s.now → (∃ q, q ≠ p ∧ s.holdOf z q ≠ none) ∨ (s.zone z).prot = .arc →
      ∃ t, exec (.holdExpiry z p) s = .next t ∧ Sealed s t (.holdExpired z p)
        ∧ t.zone z = { s.zone z with holds := put (s.zone z).holds p none } ∧ OnlyZone s t z
        ∧ SameBut [.zones, .records, .ports] s t)
    ∧ (e ≤ s.now → (∀ q, q ≠ p → s.holdOf z q = none) → (s.zone z).prot = .held →
        (∀ c, (s.chanRec c).watches z = true → (s.chan c).phase ≠ .confirmed) →
      ∃ t, exec (.holdExpiry z p) s = .next t ∧ Sealed s t (.holdExpired z p)
        ∧ (t.zone z).prot = .dark ∧ (t.zone z).hasHold = false ∧ (t.zone z).confirmed = (s.zone z).confirmed
        ∧ OnlyZone s t z
        ∧ (∀ c, t.chan c =
            if (s.chanRec c).watches z = true ∧ (s.chan c).phase = .pickup then
              { s.chan c with phase := .quiet, early := false, count := 0 }
            else s.chan c)
        ∧ SameBut [.zones, .channels, .records, .ports] s t)
    ∧ (e ≤ s.now → (∀ q, q ≠ p → s.holdOf z q = none) → (s.zone z).prot = .held → ArcUntouched s z →
      ∃ t, exec (.holdExpiry z p) s = .next t ∧ Sealed s t (.holdExpired z p) ∧ LeftHeld s t z
        ∧ t.batch = quietSettled s t
        ∧ SameBut [.zones, .channels, .batch, .records, .ports] s t)

/-! ### Channel test batches -/

/-- R119: Test Channels by batch state. -/
def Obligations.TestChannelsGathers : Prop :=
  ∀ (s : State) (p : PortId) (r : Request) (set : Marks 24) (learn : Bool), s.executing = some (p, r) → r.kind = 0x20#8 →
    set.toNat = r.byte 0 * 65536 + r.byte 1 * 256 + r.byte 2 → (learn = true ↔ r.byte 3 ≠ 0) →
    let refused := fun c : ResultCode =>
      ∃ t, exec .testChannels s = .next t ∧ Answered s t p r (.refuse c) ∧ SameBut [.ports, .limits] s t
    (s.inService = false → refused .mode)
    ∧ (s.inService = true → set = 0 → refused .value)
    ∧ (s.inService = true → set ≠ 0 → s.batch.state = .idle →
      ∃ t, exec .testChannels s = .next t ∧ Answered s t p r { code := .done, data := [1#8] }
        ∧ (∀ c, t.result c = if set.has c then .pending else .none)
        ∧ t.batch = { s.batch with
            state := .gathering, selected := set, learn := learn, results := t.batch.results
            gatherStart := some s.stamp, windowExpiry := some (s.now + 5000), windowLimit := some (s.now + 50000) }
        ∧ SameBut [.batch, .ports, .limits] s t)
    ∧ (s.inService = true → set ≠ 0 → s.batch.state = .gathering → s.batch.learn = learn →
        ∀ l, s.batch.windowLimit = some l →
      ∃ t, exec .testChannels s = .next t ∧ Answered s t p r { code := .done, data := [1#8] }
        ∧ (∀ c, t.result c = if set.has c && !s.batch.selected.has c then .pending else s.result c)
        ∧ t.batch = { s.batch with
            selected := s.batch.selected ||| set, results := t.batch.results
            windowExpiry := some (min (s.now + 5000) l) }
        ∧ SameBut [.batch, .ports, .limits] s t)
    ∧ (s.inService = true → set ≠ 0 → s.batch.state = .gathering → s.batch.learn ≠ learn → refused .state)
    ∧ (s.inService = true → set ≠ 0 → s.batch.state = .running ∨ s.batch.state = .suspended → refused .busy)

/-- R120 to R124, R131, R133, R134, R136, R26: the gathering window's end and the quiet timer's end. With a zone LIT or ARC
the window's end leaves the batch SUSPENDED with cause LIGHT and its quiet timer stopped. A window whose expiry has not
come, as after an addition taken first, goes on (the model's choice, log 4). Otherwise, and at the quiet timer's end, the
batch is RUNNING without a cause and its next channel is taken up: PENDING channels that fail a skip check have their skip
outcome, and the first that passes is in TESTING with its emitter on and the 2 ms settle timer started. A zone that enters
LIT suspends a GATHERING batch, and a RUNNING one unless the zone is of its current channel; a zone that enters ARC, here at
a current assertion, suspends either without that exception. The cause is LIGHT, the current channel, PENDING still, is
released to QUIET, or to a fresh WARMUP where its fault cause was OPTICAL, and the quiet timer is stopped, as is that of a
batch already SUSPENDED. That the emit sum is then 0 is the model's choice (log 37), and that the order of a light-only zone
has no source its reading (log 33). -/
def Obligations.BatchStartsAndResumes : Prop :=
  ∀ s : State, s.inService = true →
    (s.anyBright = true ↔ ∃ z, (s.zone z).prot = .lit ∨ (s.zone z).prot = .arc)
    ∧ (QuietOk s → s.batch.state = .gathering → s.ranOut s.batch.windowExpiry = true → s.anyBright = true →
      exec .gatheringWindowExpiry s = .next (s.setBatch { s.batch with
        state := .suspended, cause := some .light, gatherStart := none, windowExpiry := none, windowLimit := none }))
    ∧ (s.ranOut s.batch.windowExpiry = false → exec .gatheringWindowExpiry s = .next s)
    ∧ (∀ c, s.batch.state = .gathering → s.ranOut s.batch.windowExpiry = true → s.anyBright = false → NextUp s c →
      ∃ t, exec .gatheringWindowExpiry s = .next t
        ∧ t = (s.setChan c (inTesting (s.chan c))).setBatch
            (testing { s.batch with gatherStart := none, windowExpiry := none, windowLimit := none } c s.now)
        ∧ t.teLine c = true)
    ∧ (s.batch.state = .gathering → s.ranOut s.batch.windowExpiry = true → s.anyBright = false →
      ∃ t, exec .gatheringWindowExpiry s = .next t
        ∧ TakenUp (s.setBatch { s.batch with
            state := .running, gatherStart := none, windowExpiry := none, windowLimit := none }) t)
    ∧ (∀ c, s.batch.state = .suspended → s.batch.quietTimer.isSome = true → NextUp s c →
      ∃ t, exec .quietTimerExpiry s = .next t
        ∧ t = (s.setChan c (inTesting (s.chan c))).setBatch
            (testing { s.batch with cause := none, quietTimer := none } c s.now)
        ∧ t.teLine c = true)
    ∧ (s.batch.state = .suspended → s.batch.quietTimer.isSome = true →
      ∃ t, exec .quietTimerExpiry s = .next t
        ∧ TakenUp (s.setBatch { s.batch with state := .running, cause := none, quietTimer := none }) t)
    ∧ (∀ b z, (s.input b).filterTimer.isSome = true → (s.input b).curLine = true → (s.input b).current = false →
        (s.zone z).prot = .lit → (s.zoneRec z).inUse = true → (∀ y, y ≠ z → (s.zone y).prot ≠ .lit) →
        (∀ o, s.order o = none) → b ∈ s.tripSet (s.island z) → (s.breakerRec b).ccUsed = true →
        (∀ x, x ∈ s.tripSet (s.island z) → (s.trip x).phase = .idle) →
        s.batch.state = .gathering ∨ s.batch.state = .running →
      ∃ t, exec (.filteredCurrentChange b) s = .next t
        ∧ t.batch = suspendedByLight s.batch
        ∧ t.zone z = { s.zone z with prot := .arc, alarmTimer := none, orderSlot := some 0 } ∧ OnlyZone s t z
        ∧ (∀ d, s.batch.current = some d → Released s.inForce.fast (s.chan d) (t.chan d))
        ∧ (∀ d, s.batch.current ≠ some d → t.chan d = s.chan d)
        ∧ Created s t z 0 (s.tripSet (s.island z))
        ∧ SameBut [.channels, .inputs, .zones, .orders, .trips, .lockout, .batch] s t)
    ∧ ∀ c v z, Confirms s c v z → (s.zone z).prot = .dark → s.currentCondition z = false →
      (s.batch.state = .running → ¬ LitSuspends s z →
        exec (.sampleArrival c v .ok) s =
          .next ((s.setChan c (confirmedBy s.stamp v (s.chan c))).setZone z (litBy c s.stamp s.now (s.zone z))))
      ∧ (s.batch.state = .suspended →
        exec (.sampleArrival c v .ok) s =
          .next (((s.setChan c (confirmedBy s.stamp v (s.chan c))).setZone z (litBy c s.stamp s.now (s.zone z))).setBatch
            { s.batch with quietTimer := none }))
      ∧ (LitSuspends s z → s.batch.current ≠ some c →
        ∃ t, exec (.sampleArrival c v .ok) s = .next t
          ∧ t.batch = suspendedByLight s.batch
          ∧ t.zone z = litBy c s.stamp s.now (s.zone z) ∧ OnlyZone s t z
          ∧ t.chan c = confirmedBy s.stamp v (s.chan c)
          ∧ (∀ d, s.batch.current = some d → Released s.inForce.fast (s.chan d) (t.chan d))
          ∧ (∀ d, d ≠ c → s.batch.current ≠ some d → t.chan d = s.chan d)
          ∧ SameBut [.channels, .zones, .batch] s t)

/-- R125: the settle timer's end lets the next OK samples be summed, and the eighth switches the emitter off and starts
the DARKEN step with its 20 ms limit. A sample handed while the settle timer runs is discarded. -/
def Obligations.EmitStepSumsEight : Prop :=
  ∀ (s : State) (c : ChanId) (v : Nat), s.inService = true → QuietOk s → s.batch.current = some c →
    s.batch.step = some .emit → (s.chan c).phase = .testing → (s.chan c).nonOkRun = 0 → v ≤ 4095 →
    (s.batch.settleTimer.isSome = true →
      exec .settleTimerExpiry s = .next (s.setBatch { s.batch with settleTimer := none })
        ∧ exec (.sampleArrival c v .ok) s = .next s)
    ∧ (s.batch.settleTimer = none →
      exec (.sampleArrival c v .ok) s = .next (s.setBatch
        (if s.batch.emitCount + 1 = 8 then
          { s.batch with
            emitSum := s.batch.emitSum + v, emitCount := s.batch.emitCount + 1, step := some .darken
            darkenTimer := some (s.now + 20000), darkenCount := 0 }
        else { s.batch with emitSum := s.batch.emitSum + v, emitCount := s.batch.emitCount + 1 })))

/-- R121, R126 to R130, R27, Table 7-4: the end of a channel's test. The darken timer's end gives STUCK. In the DARKEN step
a sample at or below T is dark: the first one makes the dark count 1, and a sample above T makes it 0 again. The second dark
sample in a row gives, without learning, PASS where 4 r is 3 ref or more, else WEAK where 2 r is ref or more, else FAIL;
with learning, LEARNED where r is 64 or more, else FAIL. r is max(0, floor(sum / 8) − b_int). LEARNED writes r into ref of
the working record and sets the dirty flag, and while WRITING the written-since flag; no other verdict touches the settings.
At FAIL and STUCK the channel is FAULTED(OPTICAL), and a CHANNEL_FAULT record is sealed; at the others it is QUIET, or in a
fresh WARMUP where its fault cause was OPTICAL. The last test and the result are written. A line fault of the channel under
test takes it to FAULTED(LINE) with its record, and the result is SKIPPED_LINE; no verdict is given. Each time the step is
cleared, with it the emit sum (the model's choice, log 37), and the next channel is taken up, which may be skipped. -/
def Obligations.TestEndsWithVerdict : Prop :=
  (∀ (s : State) (c : ChanId), s.inService = true → s.batch.current = some c → s.batch.state = .running →
    let r := s.batch.emitSum / 8 - (s.chan c).bfp / 16
    let ref := (look s.sets.working.channels c).ref
    let last := fun v : Verdict => some { verdict := v, response := r, time := s.stamp : LastTest }
    let ended := fun (u : State) (v : TestResult) =>
      u.result c = v ∧ (∀ d, d ≠ c → u.result d = s.result d)
        ∧ u.batch = { stepCleared s.batch with results := u.batch.results }
    (s.batch.step = some .darken → s.batch.darkenTimer.isSome = true →
      ∃ u t, exec .darkenTimerExpiry s = .next t ∧ TakenUp u t
        ∧ u.chan c = { s.chan c with
            phase := .faulted, cause := some .optical, early := false, count := 0, lastTest := last .stuck }
        ∧ OnlyChan s u c ∧ Sealed s u (.channelFault c .optical (some .stuck)) ∧ ended u (.verdict .stuck)
        ∧ SameBut [.channels, .batch, .records, .ports] s u)
    ∧ (∀ v, s.batch.step = some .darken → (s.chan c).phase = .testing → v ≤ 4095 →
        (v ≤ threshold (s.chanRec c) (s.chan c) → s.batch.darkenCount = 0 →
          exec (.sampleArrival c v .ok) s =
            .next ((s.setChan c { s.chan c with nonOkRun := 0 }).setBatch { s.batch with darkenCount := 1 }))
        ∧ (threshold (s.chanRec c) (s.chan c) < v →
          exec (.sampleArrival c v .ok) s =
            .next ((s.setChan c { s.chan c with nonOkRun := 0 }).setBatch { s.batch with darkenCount := 0 })))
    ∧ (∀ v, s.batch.step = some .darken → (s.chan c).phase = .testing → v ≤ threshold (s.chanRec c) (s.chan c) →
        v ≤ 4095 → s.batch.darkenCount = 1 →
      let x := if s.batch.learn = true then (if 64 ≤ r then Verdict.learned else .fail)
        else if ref * 3 ≤ r * 4 then .pass else if ref ≤ r * 2 then .weak else .fail
      ∃ u t, exec (.sampleArrival c v .ok) s = .next t ∧ TakenUp u t ∧ ended u (.verdict x)
        ∧ (x = .fail →
            u.chan c = { s.chan c with
              phase := .faulted, cause := some .optical, early := false, count := 0, nonOkRun := 0, lastTest := last .fail }
            ∧ Sealed s u (.channelFault c .optical (some .fail)))
        ∧ (x ≠ .fail → (s.chan c).cause ≠ some .optical →
            u.chan c = { s.chan c with phase := .quiet, early := false, count := 0, nonOkRun := 0, lastTest := last x })
        ∧ (x ≠ .fail → (s.chan c).cause = some .optical →
            FreshWarmup s.inForce.fast { s.chan c with lastTest := last x } (u.chan c) ∧ (u.chan c).cause = none)
        ∧ (x ≠ .fail → SameBut [.channels, .batch, .sets] s u)
        ∧ u.sets =
            (if x = .learned then
              { s.sets with
                working := { s.sets.working with
                  channels := put s.sets.working.channels c { look s.sets.working.channels c with ref := r } }
                dirty := true
                writtenSince := s.sets.writtenSince || decide (s.sets.store = .writing) }
            else s.sets)
        ∧ OnlyChan s u c ∧ SameBut [.channels, .batch, .records, .ports, .sets] s u)
    ∧ ((s.chan c).phase = .testing → (s.chan c).nonOkRun = 199 →
      ∃ u t, exec (.lineFault c) s = .next t ∧ (∀ v, v ≤ 4095 → exec (.sampleArrival c v .openLoop) s = .next t)
        ∧ TakenUp u t
        ∧ u.chan c = { s.chan c with
            phase := .faulted, cause := some .line, early := false, count := 0, nonOkRun := 0, okRun := 0 }
        ∧ OnlyChan s u c ∧ Sealed s u (.channelFault c .line none) ∧ ended u .skippedLine
        ∧ SameBut [.channels, .batch, .records, .ports] s u))
  ∧ ∀ r ref emitSum bInt : Nat,
    (response emitSum bInt : Int) = max 0 ((emitSum : Int) / 8 - bInt)
      ∧ (plainVerdict r ref = .pass ↔ r * 4 ≥ ref * 3)
      ∧ (plainVerdict r ref = .weak ↔ r * 4 < ref * 3 ∧ r * 2 ≥ ref)
      ∧ (plainVerdict r ref = .fail ↔ r * 4 < ref * 3 ∧ r * 2 < ref)
      ∧ (learnVerdict r = .learned ↔ r ≥ 64) ∧ (learnVerdict r = .fail ↔ r < 64)

/-- R132, R133: Suspend Test by batch state. A RUNNING batch releases its current channel without a verdict, to QUIET with
its result PENDING, or to a fresh WARMUP where its fault cause was OPTICAL. That the emit sum is then 0 is the model's choice
(log 37). -/
def Obligations.SuspendTestSuspends : Prop :=
  ∀ (s : State) (p : PortId) (r : Request), s.executing = some (p, r) → r.kind = 0x21#8 →
    let refused := fun c : ResultCode =>
      ∃ t, exec .suspendTest s = .next t ∧ Answered s t p r (.refuse c) ∧ SameBut [.ports, .limits] s t
    (s.inService = false → refused .mode)
    ∧ (s.inService = true → s.batch.state = .idle → refused .state)
    ∧ (s.inService = true → s.batch.state = .gathering ∨ s.batch.state = .running →
      ∃ t, exec .suspendTest s = .next t ∧ Answered s t p r { code := .done, data := [3#8] }
        ∧ t.batch = { s.batch with
            state := .suspended, cause := some .request, current := none, step := none, settleTimer := none
            emitSum := 0, emitCount := 0, darkenTimer := none, darkenCount := 0, gatherStart := none
            windowExpiry := none, windowLimit := none }
        ∧ (∀ c, s.batch.current = some c →
            ((s.chan c).cause ≠ some .optical →
              t.chan c = { s.chan c with phase := .quiet, early := false, count := 0 })
            ∧ ((s.chan c).cause = some .optical →
              FreshWarmup s.inForce.fast (s.chan c) (t.chan c) ∧ (t.chan c).cause = none))
        ∧ (∀ c, s.batch.current ≠ some c → t.chan c = s.chan c)
        ∧ SameBut [.channels, .batch, .ports, .limits] s t)
    ∧ (s.inService = true → s.batch.state = .suspended →
      ∃ t, exec .suspendTest s = .next t ∧ Answered s t p r { code := .done, data := [3#8] }
        ∧ t.batch = { s.batch with cause := some .request, quietTimer := none }
        ∧ SameBut [.batch, .ports, .limits] s t)

/-- R121, R122, R135, R136: Resume Test by batch state. On a dark board a batch suspended by request resumes with its lowest
PENDING channel that passes its skip checks, which are made afresh: those before it have their skip outcomes, one that was
CONFIRMED leaves its zones' sets, and with none left the batch is IDLE. With a zone LIT or ARC it is left to its quiet timer;
in every other case the request is refused STATE. -/
def Obligations.ResumeTestResumes : Prop :=
  ∀ (s : State) (p : PortId) (r : Request), s.executing = some (p, r) → QuietOk s → r.kind = 0x22#8 →
    let refused := fun c : ResultCode =>
      ∃ t, exec .resumeTest s = .next t ∧ Answered s t p r (.refuse c) ∧ SameBut [.ports, .limits] s t
    (s.inService = false → refused .mode)
    ∧ (s.inService = true → ¬ (s.batch.state = .suspended ∧ s.batch.cause = some .request) → refused .state)
    ∧ (s.inService = true → s.batch.state = .suspended → s.batch.cause = some .request → s.anyBright = true →
      ∃ t, exec .resumeTest s = .next t ∧ Answered s t p r { code := .done, data := [3#8] }
        ∧ t.batch = { s.batch with cause := some .light } ∧ SameBut [.batch, .ports, .limits] s t)
    ∧ (s.inService = true → s.batch.state = .suspended → s.batch.cause = some .request → s.anyBright = false →
        ∀ c, NextUp s c →
      ∃ t, exec .resumeTest s = .next t ∧ Answered s t p r { code := .done, data := [2#8] }
        ∧ t.chan c = inTesting (s.chan c) ∧ OnlyChan s t c
        ∧ t.batch = testing { s.batch with cause := none, quietTimer := none } c s.now
        ∧ SameBut [.channels, .batch, .ports, .limits] s t)
    ∧ (s.inService = true → s.batch.state = .suspended → s.batch.cause = some .request → s.anyBright = false →
      ∃ u t, exec .resumeTest s = .next t
        ∧ TakenUp (s.setBatch { s.batch with state := .running, cause := none, quietTimer := none }) u
        ∧ Answered u t p r { code := .done, data := [if u.batch.state = .idle then 0#8 else 2#8] }
        ∧ SameBut [.ports, .limits] u t)

/-! ### Records and the time base -/

/-- R152, R155, R156, R157: a time stamp is the seconds and u as they stand. The rollover, at u = 999,999, gives the next
second and a microsecond count of 0; that its command does nothing at any other u is the model's choice (log 4). The
freewheel timer's end makes SYNCED FREEWHEEL and leaves the other statuses; Set Seconds makes its value the pending value
and touches nothing else of the time base. -/
def Obligations.RolloverFreewheelAndSetSeconds : Prop :=
  ∀ s : State,
    s.stamp = { sec := s.time.seconds, us := s.time.micros }
    ∧ (s.mode ≠ .reset → 999999 ≤ s.time.micros →
      exec .rollover s =
        .next (s.setTime { s.time with micros := 0, seconds := (s.time.seconds + 1) % 4294967296 }))
    ∧ (s.mode = .reset ∨ s.time.micros < 999999 → exec .rollover s = .next s)
    ∧ (s.time.freewheel.isSome = true →
      exec .freewheelTimerExpiry s = .next (s.setTime { s.time with
        freewheel := none
        status := match s.time.status with
          | .synced => .freewheel
          | .unset => .unset
          | .freewheel => .freewheel }))
    ∧ ∀ (p : PortId) (r : Request), Serving s p r → r.kind = 0x48#8 →
      ∃ t, exec .setSeconds s = .next t ∧ Answered s t p r { code := .done, data := [] }
        ∧ t.time = { s.time with
            pendingSeconds :=
              some (r.byte 0 * 16777216 + r.byte 1 * 65536 + r.byte 2 * 256 + r.byte 3) }
        ∧ SameBut [.time, .ports, .limits] s t

/-- R153, R154: a pulse on SYNC. Within 1 ms of the second it is accepted: the time base takes the nearer second, or the
pending value, and the freewheel timer starts; a pulse taken at u = 999,999 and one taken right after the rollover leave the
same state, and no rollover follows an accepted pulse. Outside, the first pulse is ignored and sets the mark, and the second
steps the time in the same way, seals a TIME_STEP record with the time status after the step, and marks every open record. -/
def Obligations.SyncPulseAlignsOrSteps : Prop :=
  ∀ s : State, s.inService = true →
    let aligned := fun late : Bool =>
      ({ seconds := match s.time.pendingSeconds with
          | some v => v
          | none => if late then (s.time.seconds + 1) % 4294967296 else s.time.seconds
         micros := 0
         status := if s.time.applied || s.time.pendingSeconds.isSome then .synced else .unset
         pendingSeconds := none
         applied := s.time.applied || s.time.pendingSeconds.isSome
         offWindow := false
         freewheel := some (s.now + 1500000) } : TimeBase)
    (s.time.micros ≥ 999000 → exec .syncPulse s = .next (s.setTime (aligned true)))
    ∧ (s.time.micros ≤ 1000 → exec .syncPulse s = .next (s.setTime (aligned false)))
    ∧ (s.time.micros = 999999 → ∀ t, exec .rollover s = .next t → exec .syncPulse t = exec .syncPulse s)
    ∧ (999000 ≤ s.time.micros ∨ s.time.micros ≤ 1000 →
        ∀ t, exec .syncPulse s = .next t → exec .rollover t = .next t)
    ∧ (1001 ≤ s.time.micros → s.time.micros ≤ 998999 →
      (s.time.offWindow = false → exec .syncPulse s = .next (s.setTime { s.time with offWindow := true }))
      ∧ (s.time.offWindow = true →
        ∃ t, exec .syncPulse s = .next t
          ∧ t.time = aligned (decide (s.time.micros ≥ 500000))
          ∧ Sealed (s.setTime t.time) t (.timeStep s.time.seconds s.time.micros t.time.seconds)
          ∧ (∀ o, t.order o = (s.order o).map (fun x => { x with timeStep := true }))
          ∧ SameBut [.time, .records, .ports, .orders] s t))

/-- R149, R173, Tables 9-6 and 9-7: Fetch Record: its checks in order, the page of the record at the port's cursor, DONE_LOST
where records were lost, the LOST flag cleared, and the cursor advanced where asked. The page is laid out field by field:
the header with the page count, the kind and the sequence number; in page 0 the seal time with the time status, and the
kind fields; in a later page its 16 bytes of the continuation. -/
def Obligations.FetchRecordReads : Prop :=
  ∀ (s : State) (p : PortId) (r : Request), s.executing = some (p, r) → RecordsOk s → r.kind = 0x30#8 →
    let refused := fun c : ResultCode =>
      ∃ t, exec .fetchRecord s = .next t ∧ Answered s t p r (.refuse c) ∧ SameBut [.ports, .limits] s t
    (s.inService = false → refused .mode)
    ∧ (s.inService = true → s.unfetched p = 0 → refused .empty)
    ∧ (s.inService = true → s.unfetched p ≠ 0 → ∃ x, x ∈ s.ring ∧ x.seq = (s.port p).cursor
      ∧ (pageCount x.body ≤ r.byte 0 → refused .value)
      ∧ (r.byte 0 < pageCount x.body →
          ∃ t data, exec .fetchRecord s = .next t ∧ IsPage data x.body (some x.seq) x.time x.status (r.byte 0)
            ∧ t.port p = { s.port p with
                slot := .answered r { code := if (s.port p).lost then .doneLost else .done, data := data }
                lost := false
                cursor := if r.byte 1 = 0 then (s.port p).cursor else ((s.port p).cursor + 1) % 65536 }
            ∧ t.unfetched p = (if r.byte 1 = 0 then s.unfetched p else s.unfetched p - 1)
            ∧ (∀ q, q ≠ p → PortGranted (s.port q) (t.port q)) ∧ SameBut [.ports, .limits] s t))

/-- R141, R143, R146, R150, R173: Peek Order returns a page of the open record as it would be sealed now, and changes
nothing. The page is laid out as Fetch Record's; its sequence number reads absent, and in page 0 the seal time too, with the
present time status. An ARC record, as sealed and as peeked, gives the order's fields and its breaker entries. Its origin
channel is that of the channel entry with the earliest pickup time, a tie to the lowest channel number; each entry's pickup
offset is its pickup time less the origin's in µs, from 0 to 65,535; its peak is the channel's present one while the channel
is still in the entry's light episode. That the absent microseconds are all ones in their twenty bits is the model's choice
(log 13). -/
def Obligations.PeekOrderReads : Prop :=
  (∀ (s : State) (p : PortId) (r : Request), s.executing = some (p, r) → r.kind = 0x31#8 →
    let answered := fun a : Answer =>
      ∃ t, exec .peekOrder s = .next t ∧ Answered s t p r a ∧ SameBut [.ports, .limits] s t
    (s.inService = false → answered (.refuse .mode))
    ∧ (s.inService = true → 12 ≤ r.byte 0 → answered (.refuse .item))
    ∧ (∀ o : SlotId, s.inService = true → r.byte 0 = o.val → s.order o = none → answered (.refuse .item))
    ∧ ∀ (o : SlotId) (x : Order), s.inService = true → r.byte 0 = o.val → s.order o = some x →
        (pageCount (.arc (s.arcRecord o x)) ≤ r.byte 1 → answered (.refuse .value))
        ∧ (r.byte 1 < pageCount (.arc (s.arcRecord o x)) →
            ∃ data, answered { code := .done, data := data }
              ∧ IsPage data (.arc (s.arcRecord o x)) none { sec := 0xFFFFFFFF, us := 0xFFFFF } s.time.status (r.byte 1)))
  ∧ ∀ (s : State) (o : SlotId) (x : Order),
      let rec_ := s.arcRecord o x
      let first := (x.channels.find? (fun e => some e.chan == rec_.origin)).bind (·.pickup)
      rec_ = {
        slot := o, zones := x.zones, span := x.span, level := x.level, decision := x.decision
        decisionStatus := x.decisionStatus, source := x.source, resolution := x.resolution, channels := rec_.channels
        origin := rec_.origin, breakers := x.entries, ut := x.ut, noUpstream := x.noUpstream, escLimit := x.escLimit
        supplyLow := x.supplyLow, timeStep := x.timeStep }
      ∧ (x.channels = [] → rec_.origin = none)
      ∧ (x.channels ≠ [] → ∃ e, e ∈ x.channels ∧ rec_.origin = some e.chan
          ∧ ∀ f, f ∈ x.channels → StandsBefore (e.chan, e.pickup) (f.chan, f.pickup))
      ∧ rec_.channels = x.channels.map (fun e => {
          chan := e.chan, pickup := e.pickup
          offset := match first, e.pickup with
            | some u, some v => some (min 65535 ((v.sec * 1000000 + v.us) - (u.sec * 1000000 + u.us)))
            | some _, none => none
            | none, _ => none
          peak := if (s.chan e.chan).pickupTime = e.pickup then (s.chan e.chan).peak else e.peak })

/-! ### Ports -/

/-- R161, R138, R168, Tables 9-2b, 9-3 and 9-4: the frame fixed at a transaction's start. An ANSWERED slot gives its
RESPONSE and flips nothing: 24 bytes from C3, with the request's kind and tag, the result code, the response data, 0 where
there are none, and a good check byte. Any other slot gives a STATUS frame after the port's RUN toggle has flipped under
GATHERING and RUNNING and its HALT toggle under SUSPENDED: 24 bytes from 3C, with the port and the slot state, the tag and
the kind of the slot's request, the status data bytes of Table 9-4 as the state stands, and a good check byte. In LOADING no
toggle is flipped, and only data bytes 0 and 16 are not 0. In RESET no transaction begins. -/
def Obligations.TransactionStartFixesFrame : Prop :=
  ∀ (s : State) (p : PortId), (s.port p).selected = false →
    (s.mode = .reset → exec (.transactionStart p) s = .next (s.setPort p { s.port p with selected := true }))
    ∧ (s.mode ≠ .reset → ∀ r a, (s.port p).slot = .answered r a →
      ∃ bs, bs.length = 24 ∧ crcOk bs = true
        ∧ exec (.transactionStart p) s =
            .next (s.setPort p { s.port p with selected := true, outgoing := some (.response bs) })
        ∧ bs.getD 0 0#8 = 0xC3#8 ∧ bs.getD 1 0#8 = r.kind ∧ bs.getD 2 0#8 = r.tag
        ∧ bs.getD 3 0#8 =
            (match a.code with
            | .done => 0x00#8 | .doneClamped => 0x01#8 | .doneLost => 0x02#8 | .busy => 0x10#8 | .notHeld => 0x11#8
            | .notOwner => 0x12#8 | .state => 0x13#8 | .item => 0x14#8 | .value => 0x15#8 | .mode => 0x16#8
            | .empty => 0x17#8)
        ∧ ∀ i, i < 19 → bs.getD (4 + i) 0#8 = a.data.getD i 0#8)
    ∧ (s.mode ≠ .reset → (s.port p).slot.isAnswered = false →
      ∃ bs, bs.length = 24 ∧ crcOk bs = true
        ∧ exec (.transactionStart p) s = .next (s.setPort p { s.port p with
            selected := true
            run := if s.inService = true ∧ (s.batch.state = .gathering ∨ s.batch.state = .running) then !(s.port p).run
              else (s.port p).run
            halt := if s.inService = true ∧ s.batch.state = .suspended then !(s.port p).halt else (s.port p).halt
            outgoing := some (.status (s.port p).frameError (s.port p).dropped bs) })
        ∧ bs.getD 0 0#8 = 0x3C#8
        ∧ (match (s.port p).slot with
            | .empty => (bs.getD 1 0#8).toNat = p.val ∧ bs.getD 2 0#8 = 0#8 ∧ bs.getD 3 0#8 = 0#8
            | .queued r => (bs.getD 1 0#8).toNat = p.val + 16 ∧ bs.getD 2 0#8 = r.tag ∧ bs.getD 3 0#8 = r.kind
            | .executing r => (bs.getD 1 0#8).toNat = p.val + 32 ∧ bs.getD 2 0#8 = r.tag ∧ bs.getD 3 0#8 = r.kind
            | .answered _ _ => False)
        ∧ let d := fun i : Nat => (bs.getD (4 + i) 0#8).toNat
          let bit := fun i j : Nat => (bs.getD (4 + i) 0#8).getLsbD j
          let timeBits := match s.time.status with | .unset => 0 | .synced => 8 | .freewheel => 16
          let fetchByte := s.unfetched p % 32 + (if (s.port p).frameError then 32 else 0)
            + (if (s.port p).dropped then 64 else 0) + (if (s.port p).lost then 128 else 0)
          (s.inService = false →
            d 0 = timeBits ∧ d 16 = fetchByte ∧ ∀ i, i < 19 → i ≠ 0 → i ≠ 16 → d i = 0)
          ∧ (s.inService = true →
            d 0 = (if s.mode = .protecting then 1 else 2) + (if s.healthy then 4 else 0) + timeBits
            ∧ d 16 = fetchByte
            ∧ (bit 1 0 = true ↔ ∃ z, s.uncovered z = true) ∧ bit 1 1 = s.lockout.fault ∧ bit 1 2 = s.sets.failed
            ∧ bit 1 3 = decide (s.sup.supply = .low) ∧ bit 1 4 = decide (s.sup.supply = .unknown)
            ∧ (bit 1 5 = true ↔ ∃ b, (s.input b).positionFault = true) ∧ bit 1 6 = false ∧ bit 1 7 = false
            ∧ (∀ z : ZoneId, d (2 + z.val / 4) / 4 ^ (z.val % 4) % 4 =
                match (s.zone z).prot with | .dark => 0 | .lit => 1 | .arc => 2 | .held => 3)
            ∧ (∀ z : ZoneId, bit (5 + z.val / 8) (z.val % 8) = (s.zone z).hasHold
                ∧ bit (17 + z.val / 8) (z.val % 8) = s.uncovered z)
            ∧ (∀ o : SlotId, bit (7 + o.val / 8) (o.val % 8) = (s.order o).isSome)
            ∧ (∀ j, 4 ≤ j → bit 6 j = false ∧ bit 8 j = false ∧ bit 18 j = false)
            ∧ (∀ b : BreakerId, bit 9 b.val = s.locked b ∧ bit 10 b.val = decide ((s.trip b).phase ≠ .idle))
            ∧ (∀ u : UtId, bit 11 u.val = s.utLevel u)
            ∧ d 11 / 16 % 4 =
                (match s.batch.state with | .idle => 0 | .gathering => 1 | .running => 2 | .suspended => 3)
            ∧ bit 11 6 = ((s.port p).run != (s.batch.state == .gathering || s.batch.state == .running))
            ∧ bit 11 7 = ((s.port p).halt != (s.batch.state == .suspended))
            ∧ d 12 = (match s.batch.current with | none => 0 | some c => 128 + c.val)
            ∧ d 13 = (match s.lockout.store with | .idle => 0 | .updating => 1 | .updatingAgain => 2)
                + (if s.lockout.fault then 4 else 0) + (if s.sets.store = .writing then 8 else 0)
                + (if s.sets.failed then 16 else 0) + (if s.sets.dirty then 32 else 0)
            ∧ d 14 * 256 + d 15 = s.sets.generation % 65536))

/-- R162: what counts as delivered at a transaction's end, shown with a NOP as the incoming frame: a RESPONSE empties its
slot, and a STATUS frame clears the flags it showed set. At a wrong length nothing counts as delivered, and the
frame-error flag is set (R163). -/
def Obligations.TransactionEndDelivers : Prop :=
  ∀ (s : State) (p : PortId) (bytes : List Byte) (n : Nat), n ≤ 7 →
    (bytes.length = 24 → n = 0 → crcOk bytes = true → bytes.head? = some 0#8 →
      (∀ bs, (s.port p).outgoing = some (.response bs) →
        exec (.transactionEnd p bytes n) s = .next (s.setPort p { s.port p with
          selected := false, outgoing := none, slot := .empty }))
      ∧ (∀ fe dr bs, (s.port p).outgoing = some (.status fe dr bs) →
        exec (.transactionEnd p bytes n) s = .next (s.setPort p { s.port p with
          selected := false, outgoing := none
          frameError := (s.port p).frameError && !fe, dropped := (s.port p).dropped && !dr })))
    ∧ (¬ (bytes.length = 24 ∧ n = 0) → (s.port p).outgoing ≠ none →
        exec (.transactionEnd p bytes n) s = .next (s.setPort p { s.port p with
          selected := false, outgoing := none, frameError := true }))

/-- R160 to R163, R165: the incoming frame at the end of a transaction of correct length, examined after the delivery of the
outgoing frame: a RESPONSE has emptied its slot, and a STATUS frame has cleared the flags it showed set. A bad check byte
sets the frame-error flag. A request at a slot that is empty, also one emptied by this delivery, is taken: with the executor
idle it is granted at once with 20 µs to complete, else it is QUEUED. A request at an occupied slot sets the dropped-request
flag. The check byte is the CRC-8 of the bytes before it, generator 07 from FF, most significant bit first. -/
def Obligations.TransactionEndTakesRequest : Prop :=
  (∀ (s : State) (p : PortId) (bytes : List Byte) (f : OutFrame), bytes.length = 24 → (s.port p).outgoing = some f →
    let r : Request := { kind := bytes.getD 0 0#8, tag := bytes.getD 1 0#8, data := (bytes.drop 2).take 21 }
    let x : Port :=
      match f with
      | .response _ => { s.port p with selected := false, outgoing := none, slot := .empty }
      | .status fe dr _ => { s.port p with
          selected := false, outgoing := none
          frameError := (s.port p).frameError && !fe, dropped := (s.port p).dropped && !dr }
    (crcOk bytes = false →
      exec (.transactionEnd p bytes 0) s = .next (s.setPort p { x with frameError := true }))
    ∧ (crcOk bytes = true → r.kind ≠ 0 → x.slot = .empty → PortsOk s → s.executing = none →
      ∃ t, exec (.transactionEnd p bytes 0) s = .next t
        ∧ t.port p = { x with slot := .executing r, skip := 0 }
        ∧ (∀ q, q ≠ p → t.port q = s.port q) ∧ t.execLimit = some (s.now + 20) ∧ t.loadLimit = s.loadLimit
        ∧ SameBut [.ports, .limits] s t)
    ∧ (crcOk bytes = true → r.kind ≠ 0 → x.slot = .empty → (∀ q, (s.port p).slot ≠ .executing q) → s.executing ≠ none →
      exec (.transactionEnd p bytes 0) s = .next (s.setPort p { x with slot := .queued r }))
    ∧ (crcOk bytes = true → r.kind ≠ 0 → x.slot ≠ .empty →
      exec (.transactionEnd p bytes 0) s = .next (s.setPort p { x with dropped := true })))
  ∧ (∀ bytes : List Byte, crcOk bytes = true ↔ bytes.getD 23 0#8 = crc8 (bytes.take 23))
  ∧ ∀ bytes : List Byte, crc8 bytes = crcRegister 0x07#8 0xFF#8 (messageBits bytes)

/-- R166: the grant at a completion. Every completion ends with it: the answer stored, the other slots and the skip counts
as they were, then the grant. With no slot QUEUED the executor is idle. Otherwise one waiting port is granted: the promoted
port with the highest skip count, or with none promoted the port with the highest priority, a tie to the lowest number. Its
skip count becomes 0, every other waiting port's rises by 1 up to 255, and no other port changes. -/
def Obligations.ArbiterGrants : Prop :=
  ∀ s : State,
    (∀ p, s.isQueued p = true ↔ ∃ r, (s.port p).slot = .queued r)
    ∧ (∀ p r, s.executing = some (p, r) →
      ∃ (u : State) (a : Answer), (u.port p).slot = .answered r a ∧ u.now = s.now
        ∧ (∀ q, (q ≠ p → (u.port q).slot = (s.port q).slot) ∧ (u.port q).skip = (s.port q).skip)
        ∧ exec r.row.command s = .next u.grantNext)
    ∧ ((∀ p, s.isQueued p = false) → s.grantNext = { s with execLimit := none })
    ∧ ((∃ p, s.isQueued p = true) →
      ∃ p r, (s.port p).slot = .queued r
        ∧ (if ∃ q, s.isQueued q = true ∧ (s.portRec q).ceiling ≠ 0 ∧ (s.portRec q).ceiling ≤ (s.port q).skip then
            (s.portRec p).ceiling ≠ 0 ∧ (s.portRec p).ceiling ≤ (s.port p).skip
              ∧ ∀ q, s.isQueued q = true → (s.portRec q).ceiling ≠ 0 → (s.portRec q).ceiling ≤ (s.port q).skip →
                  (s.port q).skip ≤ (s.port p).skip ∧ ((s.port q).skip = (s.port p).skip → p ≤ q)
          else
            ∀ q, s.isQueued q = true →
              (s.portRec q).priority ≤ (s.portRec p).priority
                ∧ ((s.portRec q).priority = (s.portRec p).priority → p ≤ q))
        ∧ s.grantNext.port p = { s.port p with slot := .executing r, skip := 0 }
        ∧ (∀ q, q ≠ p → s.isQueued q = true →
            s.grantNext.port q = { s.port q with skip := min 255 ((s.port q).skip + 1) })
        ∧ (∀ q, s.isQueued q = false → s.grantNext.port q = s.port q)
        ∧ s.grantNext.execLimit = some (s.now + 20) ∧ SameBut [.ports, .limits] s s.grantNext)

/-- R163, R167, R172: requests that have no effect whatever their data. A request whose execution completes outside
PROTECTING and BACKSTOP is answered MODE, whatever its kind. In them, a request of unknown kind, and a Write Item of a kind
not marked W, are answered VALUE. That a Write Item of a kind not marked W is completed by UNKNOWN_REQUEST is the model's
reading (DEDUCED, log 6). -/
def Obligations.RequestsWithoutEffect : Prop :=
  ∀ (s : State) (p : PortId) (r : Request), s.executing = some (p, r) →
    (s.port p).slot = .executing r
    ∧ (s.inService = false →
      ∃ t, exec r.row.command s = .next t ∧ Answered s t p r (.refuse .mode) ∧ SameBut [.ports, .limits] s t)
    ∧ (s.inService = true →
      (r.kind ∉ [0x01#8, 0x02#8, 0x10#8, 0x11#8, 0x18#8, 0x20#8, 0x21#8, 0x22#8, 0x30#8, 0x31#8, 0x40#8, 0x48#8])
        ∨ (r.kind = 0x02#8 ∧ r.byte 0 ∉ [1, 2, 3, 4, 9, 10]) →
      ∃ t, exec .unknownRequest s = .next t ∧ Answered s t p r (.refuse .value) ∧ SameBut [.ports, .limits] s t)

/-- R171, R172, Table 9-5: Read Item: its checks in order, then the page count and the 18 bytes of the page; nothing is
changed. The pages of an item, put together, are its content. The content of each kind is laid out field by field, settings
fields first, then the live fields, each in its width, most significant byte first; a kind or an index outside Table 9-5 has
none. The model's readings in it: a named value is coded by its place in the owning table's list, ASSERTED 0 and RELEASED 1
(DEDUCED, log 12), and an entry read at the microsecond of its expiry shows 1 s (DEDUCED, log 36). -/
def Obligations.ReadItemReads : Prop :=
  (∀ (s : State) (p : PortId) (r : Request), Serving s p r → r.kind = 0x01#8 →
    let answered := fun a : Answer =>
      ∃ t, exec .readItem s = .next t ∧ Answered s t p r a ∧ SameBut [.ports, .limits] s t
    (s.itemContent (r.byte 0) (r.byte 1) = none → answered (.refuse .item))
    ∧ ∀ content, s.itemContent (r.byte 0) (r.byte 1) = some content →
        ((content.length + 17) / 18 ≤ r.byte 2 → answered (.refuse .value))
        ∧ (r.byte 2 < (content.length + 17) / 18 →
            answered { code := .done
                       data := BitVec.ofNat 8 ((content.length + 17) / 18)
                         :: (content.drop (18 * r.byte 2)).take 18 }))
  ∧ (∀ s : State,
      let laid := fun (kind index : Nat) (fs : List Field) => ∃ bs, s.itemContent kind index = some bs ∧ Carries bs fs
      let w := s.sets.working
      (∀ c : ChanId, laid 1 c.val (channelRecordFields (look w.channels c) ++ channelLiveFields s c))
      ∧ (∀ z : ZoneId,
          laid 2 z.val ([flag (look w.zones z).inUse, flag (look w.zones z).lightOnly] ++ zoneLiveFields s z))
      ∧ (∀ l : LinkId, laid 3 l.val (match look w.links l with
          | none => [(1, 0), (1, 0xFF), (1, 0xFF)]
          | some (a, b) => [(1, 1), (1, min a.val b.val), (1, max a.val b.val)]))
      ∧ (∀ b : BreakerId, laid 4 b.val (breakerRecordFields (look w.breakers b) ++ breakerLiveFields s b))
      ∧ (∀ u : UtId, laid 5 u.val (utFields (s.utLine u)))
      ∧ laid 6 0 (lockoutFields s.lockout) ∧ laid 7 0 (batchFields s.batch) ∧ laid 8 0 (timeFields s.time)
      ∧ (∀ q : PortId, laid 9 q.val
          [(1, (look w.ports q).priority), (1, (look w.ports q).ceiling), slotField (s.port q).slot, (1, (s.port q).skip)])
      ∧ laid 10 0 [flag w.fast]
      ∧ laid 11 0 [named [.idle, .writing] s.sets.store, flag s.sets.failed, (2, s.sets.generation), flag s.sets.dirty]
      ∧ laid 12 0 (supervisionFields s)
      ∧ ∀ kind index, s.itemContent kind index = none ↔
          [0, 24, 12, 16, 8, 4, 1, 1, 1, 3, 1, 1, 1].getD kind 0 ≤ index)
  ∧ ∀ content : List Byte,
      ((List.range ((content.length + 17) / 18)).map (fun k => (content.drop (18 * k)).take 18)).flatten = content

/-- R170, R171, Table 9-5: decode and encode agree on the settings fields of every item. The fields of a record, as Read Item
gives them, read back from data byte 2 of a Write Item as that record, for every value of every field that its width admits.
A COUPLER with the external side as side A is left out: its side A byte is no value of the kind, and the model refuses it
VALUE (DESIGN CHOICE, log 11). -/
def Obligations.SettingsFieldsRoundTrip : Prop :=
  ∀ (tag a b : Byte) (rest : List Byte),
    let write := fun fields : List Byte => ({ kind := 0x02#8, tag := tag, data := a :: b :: (fields ++ rest) } : Request)
    (∀ x : ChannelRecord, x.ta < 65536 → x.g < 256 → x.m < 65536 → x.k < 256 → x.n < 256 → x.ref < 65536 →
      (write (encodeChannel x)).channelRecord = some x)
    ∧ (∀ x : ZoneRecord, (write (encodeZone x)).zoneRecord = some x)
    ∧ (write (encodeLink none)).linkSlot = some none
    ∧ (∀ y z : ZoneId, y ≤ z →
      (write (encodeLink (some (y, z)))).linkSlot = some (some (y, z))
        ∧ (write (encodeLink (some (z, y)))).linkSlot = some (some (y, z)))
    ∧ (∀ x : BreakerRecord, x.bfTime < 65536 → ¬ (x.role = .coupler ∧ x.sideA = .external) →
      (write (encodeBreaker x)).breakerRecord = some x)
    ∧ (∀ x : PortRecord, x.priority < 256 → x.ceiling < 256 → (write (encodePort x)).portRecord = x)
    ∧ ∀ x : Bool, (write (flag1 x)).fastFlag = some x

/-! ### Settings, start-up and supervision -/

/-- R2, R3, R171, R175 to R178: Write Item of a channel record. A channel number above 23 is refused ITEM, and a field that
is no value of its kind VALUE: an in-use byte that is neither 0 nor 1 (the model's reading of R171, log 11), a primary zone
above 11, or a secondary zone above 11 that is not FF. A secondary zone equal to the primary is refused VALUE; in PROTECTING
a zone of the old or the written record that is not HELD refuses it NOT_HELD. An accepted write replaces the record by the
clamped one and restarts the channel: WARMUP where the record in force is in use, else OFF. A CONFIRMED channel, its zones
HELD, leaves their sets. The record, the dirty flag and, while WRITING, the written-since flag are all that changes of the
settings. A channel under test is restarted in the same way: its result is WITHDRAWN, the step is cleared, with it the emit
sum (the model's choice, log 37), and the next channel is taken up (R130). -/
def Obligations.WriteChannelRestartsChannel : Prop :=
  ∀ (s : State) (p : PortId) (r : Request), Serving s p r → QuietOk s → r.kind = 0x02#8 → r.byte 0 = 1 →
    let refused := fun code : ResultCode =>
      ∃ t, exec .writeChannelRecord s = .next t ∧ Answered s t p r (.refuse code) ∧ SameBut [.ports, .limits] s t
    let badField := 2 ≤ r.byte 2 ∨ 12 ≤ r.byte 3 ∨ (12 ≤ r.byte 4 ∧ r.byte 4 ≠ 255)
    (24 ≤ r.byte 1 → refused .item)
    ∧ (r.byte 1 < 24 → badField → refused .value)
    ∧ (¬ badField → ∃ x, r.channelRecord = some x)
    ∧ ∀ (c : ChanId) (x : ChannelRecord), r.byte 1 = c.val → r.channelRecord = some x →
      let old := look s.sets.working.channels c
      let stored : ChannelRecord := { x with
        ta := max 64 (min 4000 x.ta), g := max 8 (min 64 x.g), m := min 1023 x.m, k := max 4 (min 12 x.k)
        n := max 1 (min 8 x.n), ref := min 4095 x.ref }
      (∀ z, z ∈ x.zones ↔ x.primary = z ∨ x.secondary = some z)
      ∧ (x.secondary = some x.primary → refused .value)
      ∧ (x.secondary ≠ some x.primary → s.mode = .protecting → (∃ z, z ∈ old.zones ++ x.zones ∧ (s.zone z).prot ≠ .held) →
          refused .notHeld)
      ∧ (x.secondary ≠ some x.primary → (s.mode = .protecting → ∀ z, z ∈ old.zones ++ x.zones → (s.zone z).prot = .held) →
          (s.mode = .backstop → (s.chan c).phase ≠ .confirmed) →
        let answer : Answer := { code := if stored = x then .done else .doneClamped, data := encodeChannel stored }
        let written := { s.sets with
          working := { s.sets.working with channels := put s.sets.working.channels c stored }
          dirty := true
          writtenSince := s.sets.writtenSince || decide (s.sets.store = .writing) }
        let restarted := fun t : State =>
          OnlyChan s t c ∧ (t.chan c).cause = none
            ∧ (x.inUse = true ∨ s.mode = .backstop → FreshWarmup s.inForce.fast (s.chan c) (t.chan c))
            ∧ (x.inUse = false → s.mode = .protecting →
                (t.chan c).phase = .off ∧ (t.chan c).early = false ∧ (t.chan c).count = 0 ∧ (t.chan c).nonOkRun = 0
                  ∧ (t.chan c).okRun = 0 ∧ (t.chan c).bfp = 0 ∧ (t.chan c).glare = false ∧ (t.chan c).pickupTime = none
                  ∧ (t.chan c).peak = 0 ∧ (t.chan c).lastTest = (s.chan c).lastTest)
        ((s.chan c).phase ≠ .testing →
          ∃ t, exec .writeChannelRecord s = .next t ∧ Answered s t p r answer ∧ t.sets = written ∧ restarted t
            ∧ (∀ z, t.zone z =
                if (s.chan c).phase = .confirmed ∧ (s.chanRec c).watches z = true then
                  { s.zone z with confirmed := (s.zone z).confirmed.drop c }
                else s.zone z)
            ∧ SameBut [.channels, .zones, .sets, .ports, .limits] s t)
        ∧ ((s.chan c).phase = .testing → s.batch.current = some c → s.batch.state = .running →
          ∃ u v t, exec .writeChannelRecord s = .next t ∧ u.sets = written ∧ restarted u
            ∧ u.result c = .withdrawn ∧ (∀ d, d ≠ c → u.result d = s.result d)
            ∧ u.batch = { stepCleared s.batch with results := u.batch.results } ∧ SameBut [.channels, .batch, .sets] s u
            ∧ TakenUp u v ∧ Answered v t p r answer ∧ SameBut [.ports, .limits] v t))

/-- R30, R32, R49, R171, R176 to R178: Write Item of a zone record and of a link slot, with no order active and no zone LIT.
An index above 11 or 15 is refused ITEM. A field that is no value of its kind is refused VALUE: a flag byte that is neither
0 nor 1, or a zone above 11 in the pair of a filled slot; that the pair bytes of an empty slot are not read is the model's
reading (log 11), as is that of the flag bytes. A zone named by a filled link or an in-use breaker may not leave use; a link
must join two distinct zones in use and hold no other slot's pair. In PROTECTING a zone in use, and every zone of a link's
old and written pair, must be HELD. An accepted write replaces the record and sets the dirty flag; a DARK zone put into use
with light in its set enters LIT, and, with no breaker in its trip set, seals a NO_SOURCE record (R57). Nothing else
changes. -/
def Obligations.WriteZoneAndLinkChangeMap : Prop :=
  ∀ (s : State) (p : PortId) (r : Request), Serving s p r → QuietOk s → AtRest s → r.kind = 0x02#8 →
    let w := s.sets.working
    let changed := fun v : Settings => { s.sets with
      working := v, dirty := true, writtenSince := s.sets.writtenSince || decide (s.sets.store = .writing) }
    let refusedZone := fun code : ResultCode =>
      ∃ t, exec .writeZoneRecord s = .next t ∧ Answered s t p r (.refuse code) ∧ SameBut [.ports, .limits] s t
    let refusedLink := fun code : ResultCode =>
      ∃ t, exec .writeLinkSlot s = .next t ∧ Answered s t p r (.refuse code) ∧ SameBut [.ports, .limits] s t
    let badZone := 2 ≤ r.byte 2 ∨ 2 ≤ r.byte 3
    let badLink := 2 ≤ r.byte 2 ∨ (r.byte 2 = 1 ∧ (12 ≤ r.byte 3 ∨ 12 ≤ r.byte 4))
    (r.byte 0 = 2 → (12 ≤ r.byte 1 → refusedZone .item) ∧ (r.byte 1 < 12 → badZone → refusedZone .value)
      ∧ (¬ badZone → ∃ x, r.zoneRecord = some x))
    ∧ (r.byte 0 = 3 → (16 ≤ r.byte 1 → refusedLink .item) ∧ (r.byte 1 < 16 → badLink → refusedLink .value)
      ∧ (¬ badLink → ∃ x, r.linkSlot = some x))
    ∧ (∀ (z : ZoneId) (x : ZoneRecord), r.byte 0 = 2 → r.byte 1 = z.val → r.zoneRecord = some x →
      let named := (∃ l a b, look w.links l = some (a, b) ∧ (a = z ∨ b = z))
        ∨ ∃ b, (look w.breakers b).inUse = true ∧ z ∈ (look w.breakers b).sideZones
      let lit := s.mode = .protecting ∧ (look w.zones z).inUse = false ∧ x.inUse = true ∧ (s.zone z).prot = .dark
        ∧ (s.zone z).confirmed ≠ 0
      (x.inUse = false → named → refusedZone .value)
      ∧ (x.inUse = true ∨ ¬ named → s.mode = .protecting → (look w.zones z).inUse = true → (s.zone z).prot ≠ .held →
          refusedZone .notHeld)
      ∧ (x.inUse = true ∨ ¬ named →
          (s.mode = .protecting → (look w.zones z).inUse = true → (s.zone z).prot = .held) → ¬ lit →
        ∃ t, exec .writeZoneRecord s = .next t ∧ Answered s t p r { code := .done, data := encodeZone x }
          ∧ t.sets = changed { w with zones := put w.zones z x } ∧ SameBut [.sets, .ports, .limits] s t)
      ∧ (lit → s.batch.state = .idle →
          (s.setSets (changed { w with zones := put w.zones z x })).tripSet
            ((s.setSets (changed { w with zones := put w.zones z x })).island z) = [] →
        ∃ t u, exec .writeZoneRecord s = .next t
          ∧ Sealed s u (.noSource z (s.zoneOrigin z) (s.zone z).confirmed) ∧ t.ring = u.ring ∧ t.nextSeq = u.nextSeq
          ∧ Answered u t p r { code := .done, data := encodeZone x }
          ∧ t.sets = changed { w with zones := put w.zones z x } ∧ OnlyZone s t z
          ∧ t.zone z = { s.zone z with
              prot := .lit, litSince := some s.stamp, alarmSent := false, noSourceSent := true
              alarmTimer := some (s.now + 2000000), orderSlot := none }
          ∧ SameBut [.zones, .records, .sets, .ports, .limits] s t))
    ∧ ∀ (l : LinkId) (x : Option (ZoneId × ZoneId)), r.byte 0 = 3 → r.byte 1 = l.val → r.linkSlot = some x →
      let ok := ∀ a b, x = some (a, b) → a ≠ b ∧ (look w.zones a).inUse = true ∧ (look w.zones b).inUse = true
        ∧ ∀ j, j ≠ l → look w.links j ≠ some (a, b) ∧ look w.links j ≠ some (b, a)
      let held := ∀ a b, look w.links l = some (a, b) ∨ x = some (a, b) →
        (s.zone a).prot = .held ∧ (s.zone b).prot = .held
      (¬ ok → refusedLink .value)
      ∧ (ok → s.mode = .protecting → ¬ held → refusedLink .notHeld)
      ∧ (ok → (s.mode = .protecting → held) →
        ∃ t, exec .writeLinkSlot s = .next t ∧ Answered s t p r { code := .done, data := encodeLink x }
          ∧ t.sets = changed { w with links := put w.links l x } ∧ SameBut [.sets, .ports, .limits] s t)

/-- R33, R34, R35, R171, R176 to R178: Write Item of a breaker record, with no order active and no zone LIT. A breaker
number above 7 is refused ITEM, and a field that is no value of its kind VALUE: a flag byte that is neither 0 nor 1, a role
above 1, a side above zone 11 that is not the external source of an INCOMER, an owner above 2, a UT line above 3 that is not
FF. The flag bytes, and the external source at a COUPLER, are the model's reading (log 11). A record in use must be one that
the map can place: its side B in use; for an INCOMER the external source as side A; for a COUPLER another zone in use as
side A, and no UT line. In PROTECTING every zone that the old or the written record names must be HELD. An accepted write
replaces the record with its BF time clamped. In PROTECTING a breaker with position UNKNOWN that enters use starts the 1 s
timer, and one that leaves use stops it and clears the fault flag. Nothing else changes. -/
def Obligations.WriteBreakerSupervises : Prop :=
  ∀ (s : State) (p : PortId) (r : Request), Serving s p r → QuietOk s → AtRest s → r.kind = 0x02#8 → r.byte 0 = 4 →
    let refused := fun code : ResultCode =>
      ∃ t, exec .writeBreakerRecord s = .next t ∧ Answered s t p r (.refuse code) ∧ SameBut [.ports, .limits] s t
    let badField := 2 ≤ r.byte 2 ∨ 2 ≤ r.byte 3 ∨ (12 ≤ r.byte 4 ∧ ¬ (r.byte 3 = 0 ∧ r.byte 4 = 0xFE)) ∨ 12 ≤ r.byte 5
      ∨ 3 ≤ r.byte 6 ∨ 2 ≤ r.byte 7 ∨ (4 ≤ r.byte 10 ∧ r.byte 10 ≠ 255)
    (8 ≤ r.byte 1 → refused .item)
    ∧ (r.byte 1 < 8 → badField → refused .value)
    ∧ (¬ badField → ∃ x, r.breakerRecord = some x)
    ∧ ∀ (b : BreakerId) (x : BreakerRecord), r.byte 1 = b.val → r.breakerRecord = some x →
      let w := s.sets.working
      let old := look w.breakers b
      let ok := x.inUse = true → Placed w x
      let held := ∀ z, z ∈ old.sideZones ++ x.sideZones → (s.zone z).prot = .held
      (∀ z, z ∈ x.sideZones ↔ z = x.sideB ∨ (x.role = .coupler ∧ x.sideA = .zone z))
      ∧ (¬ ok → refused .value)
      ∧ (ok → s.mode = .protecting → ¬ held → refused .notHeld)
      ∧ (ok → (s.mode = .protecting → held) →
        ∃ t, exec .writeBreakerRecord s = .next t
          ∧ Answered s t p r {
              code := if 30 ≤ x.bfTime ∧ x.bfTime ≤ 500 then .done else .doneClamped
              data := encodeBreaker { x with bfTime := max 30 (min 500 x.bfTime) } }
          ∧ t.sets = { s.sets with
              working := { w with breakers := put w.breakers b { x with bfTime := max 30 (min 500 x.bfTime) } }
              dirty := true
              writtenSince := s.sets.writtenSince || decide (s.sets.store = .writing) }
          ∧ t.input b =
              (if s.mode = .protecting ∧ old.inUse = false ∧ x.inUse = true ∧ (s.input b).position = .unknown then
                { s.input b with unknownTimer := some (s.now + 1000000) }
              else if s.mode = .protecting ∧ old.inUse = true ∧ x.inUse = false then
                { s.input b with unknownTimer := none, positionFault := false }
              else s.input b)
          ∧ (∀ a, a ≠ b → t.input a = s.input a) ∧ SameBut [.inputs, .sets, .ports, .limits] s t)

/-- R167, R176 to R178: Write Item of a port record and of the global record need no hold. A port record is clamped to
priority 0 to 3 and ceiling 0 to 15; an index out of range is refused ITEM, and a flag byte that is neither 0 nor 1 VALUE
(the model's reading of R171, log 11). Nothing but the settings changes. -/
def Obligations.WritePortAndGlobal : Prop :=
  ∀ (s : State) (p : PortId) (r : Request), Serving s p r → QuietOk s → r.kind = 0x02#8 →
    let w := s.sets.working
    let changed := fun v : Settings => { s.sets with
      working := v, dirty := true, writtenSince := s.sets.writtenSince || decide (s.sets.store = .writing) }
    (r.byte 0 = 9 →
      (3 ≤ r.byte 1 →
        ∃ t, exec .writePortRecord s = .next t ∧ Answered s t p r (.refuse .item) ∧ SameBut [.ports, .limits] s t)
      ∧ ∀ q : PortId, r.byte 1 = q.val →
        ∃ t, exec .writePortRecord s = .next t
          ∧ Answered s t p r {
              code := if r.byte 2 ≤ 3 ∧ r.byte 3 ≤ 15 then .done else .doneClamped
              data := num1 (min 3 (r.byte 2)) ++ num1 (min 15 (r.byte 3)) }
          ∧ t.sets = changed { w with
              ports := put w.ports q { priority := min 3 (r.byte 2), ceiling := min 15 (r.byte 3) } }
          ∧ SameBut [.sets, .ports, .limits] s t)
    ∧ (r.byte 0 = 10 →
      (r.byte 1 ≠ 0 →
        ∃ t, exec .writeGlobalRecord s = .next t ∧ Answered s t p r (.refuse .item) ∧ SameBut [.ports, .limits] s t)
      ∧ (r.byte 1 = 0 → 2 ≤ r.byte 2 →
        ∃ t, exec .writeGlobalRecord s = .next t ∧ Answered s t p r (.refuse .value) ∧ SameBut [.ports, .limits] s t)
      ∧ (r.byte 1 = 0 → r.byte 2 ≤ 1 →
        ∃ t, exec .writeGlobalRecord s = .next t ∧ Answered s t p r { code := .done, data := num1 (r.byte 2) }
          ∧ t.sets = changed { w with fast := decide (r.byte 2 = 1) } ∧ SameBut [.sets, .ports, .limits] s t))

/-- R179, R180, R181: Commit Settings in IDLE takes the working settings with the next generation as its snapshot, starts
the 800 ms timer and erases the stored image; in WRITING it is refused BUSY. The completion makes the stored image the
snapshot, with its CRC, and takes its generation; the image is valid where the snapshot is settings that Write Item could
have built, every number in its range and every structural condition met (among them two of the model's reading, log 11: a
pair stands with its lower zone first, and a COUPLER has no external side A); the dirty flag stays only where a write came
since. The timer's end abandons the commit: FAILED is set, and generation, dirty flag and the erased image stay. R181 gives
the CRC over the image bytes; that these are the records in the order of Table 10-1, encoded by R171, on which the CRC's
value rests, is the model's choice (DESIGN CHOICE, log 9). -/
def Obligations.CommitWritesSnapshot : Prop :=
  (∀ s : State,
    (∀ (p : PortId) (r : Request), s.executing = some (p, r) → r.kind = 0x40#8 →
      (s.inService = false →
        ∃ t, exec .commitSettings s = .next t ∧ Answered s t p r (.refuse .mode) ∧ SameBut [.ports, .limits] s t)
      ∧ (s.inService = true → s.sets.store = .idle →
        ∃ t, exec .commitSettings s = .next t
          ∧ Answered s t p r { code := .done, data := 1#8 :: num2 s.sets.generation }
          ∧ t.sets = { s.sets with
              store := .writing, snapshot := some (s.sets.working, (s.sets.generation + 1) % 65536)
              timer := some (s.now + 800000), writtenSince := false, image := { s.sets.image with erased := true } }
          ∧ t.sets.image.valid = false ∧ SameBut [.sets, .ports, .limits] s t)
      ∧ (s.inService = true → s.sets.store = .writing →
        ∃ t, exec .commitSettings s = .next t ∧ Answered s t p r (.refuse .busy) ∧ SameBut [.ports, .limits] s t))
    ∧ ∀ w g, s.sets.snapshot = some (w, g) →
      (∃ t, exec .commitCompletion s = .next t
        ∧ t.sets = { s.sets with
            store := .idle, snapshot := none, timer := none, generation := g, failed := false
            dirty := s.sets.dirty && s.sets.writtenSince
            image := { erased := false, settings := w, generation := g, crc := crc16 (imageBytes w g) } }
        ∧ (t.sets.image.valid = true ↔ Buildable w) ∧ SameBut [.sets] s t)
      ∧ (s.sets.timer.isSome = true →
        exec .commitTimerExpiry s =
          .next (s.setSets { s.sets with store := .idle, snapshot := none, timer := none, failed := true })))
  ∧ (∀ i : StoredImage,
      i.valid = true ↔ i.erased = false ∧ i.crc = crc16 (imageBytes i.settings i.generation) ∧ Buildable i.settings)
  ∧ ∀ bytes : List Byte, crc16 bytes = crcRegister 0x1021#16 0xFFFF#16 (messageBits bytes)

/-- R102, R118, R151, R164, R182, R184, R186: a power-on reset, a RESET_N and a loss of power put the unit in RESET with no
order, TRIP, UT and TE off and no request held, and leave the two nonvolatile stores as they are. A lockout word update and
a commit that are under way are abandoned: both stores are IDLE with no snapshot and no timer, and the word whose marker,
the image whose erase has begun, stay invalid. Power-on reset and loss of power empty the record ring and zero its counter;
RESET_N keeps both and moves every cursor to the oldest record. CI is asserted while the part has power. The model's choices
in it: contact, current and select lines keep their levels over a reset (log 7); blocks that hold no state in RESET have
DARK, UNKNOWN and their other reset values there (log 8); a part without power, held by the powered flag (log 30). -/
def Obligations.ResetsKeepTheStores : Prop :=
  ∀ s : State,
    let inReset := fun t : State =>
      t.mode = .reset ∧ t.inService = false ∧ (∀ c, (t.chan c).phase = .off) ∧ (∀ z, (t.zone z).prot = .dark)
        ∧ (∀ z, (t.zone z).hasHold = false) ∧ (∀ o, t.order o = none) ∧ (∀ b, (t.trip b).phase = .idle)
        ∧ (∀ b, t.tripLine b = false) ∧ (∀ u, t.utLevel u = false) ∧ (∀ c, t.teLine c = false)
        ∧ t.batch.state = .idle ∧ t.sup = { supply := .unknown, lastReading := none }
        ∧ t.time = { seconds := 0, micros := 0, status := .unset, pendingSeconds := none, applied := false
                     offWindow := false, freewheel := none }
        ∧ t.lockout.store = .idle ∧ t.lockout.snapshot = none ∧ t.lockout.timer = none ∧ t.lockout.fault = false
        ∧ (LockoutWordOk s → s.lockout.store ≠ .idle → t.lockout.word.valid = false)
        ∧ t.sets.store = .idle ∧ t.sets.snapshot = none ∧ t.sets.timer = none ∧ t.sets.failed = false
        ∧ (s.sets.image.erased = true → t.sets.image.valid = false) ∧ t.execLimit = none ∧ t.loadLimit = none
        ∧ (∀ p, (t.port p).slot = .empty ∧ (t.port p).outgoing = none ∧ (t.port p).frameError = false
            ∧ (t.port p).dropped = false ∧ (t.port p).lost = false ∧ (t.port p).skip = 0 ∧ (t.port p).run = false
            ∧ (t.port p).halt = false ∧ t.attn p = false ∧ (t.port p).selected = (s.port p).selected)
        ∧ (∀ b, (t.input b).bpc = (s.input b).bpc ∧ (t.input b).bpo = (s.input b).bpo
            ∧ (t.input b).curLine = (s.input b).curLine ∧ (t.input b).position = .unknown)
        ∧ t.lockout.word = s.lockout.word ∧ t.sets.image = s.sets.image ∧ t.pending = s.pending
    (∃ t, exec .powerOnReset s = .next t ∧ inReset t ∧ t.powered = true ∧ (∀ b, t.ciLine b = true)
      ∧ t.ring = [] ∧ t.nextSeq = 0 ∧ ∀ p, (t.port p).cursor = 0)
    ∧ (s.powered = true →
      ∃ t, exec .resetN s = .next t ∧ inReset t ∧ t.powered = true ∧ (∀ b, t.ciLine b = true)
        ∧ t.ring = s.ring ∧ t.nextSeq = s.nextSeq
        ∧ ∀ p, (t.port p).cursor = match s.ring with
          | [] => s.nextSeq
          | x :: _ => x.seq)
    ∧ (∃ t, exec .lossOfPower s = .next t ∧ inReset t ∧ t.powered = false ∧ (∀ b, t.ciLine b = false)
      ∧ t.ring = [] ∧ t.nextSeq = 0 ∧ ∀ p, (t.port p).cursor = 0)

/-- R4, R38, R96, R101, R175, R182, R183, Tables 9-2a and 10-6: the end of RESET enters LOADING, with 5 ms for the store
reads. Their end enters PROTECTING with the image's settings and generation where the image is valid, else BACKSTOP with the
defaults, generation 0 and the dirty flag. The settings in force are the defaults in BACKSTOP, as Table 10-6 and Table 9-2a
give them, else the working settings. A lockout word is valid with its marker and a true complement. A valid one gives the
lockout set with the store IDLE; an invalid one locks every breaker and starts an update. Channels in use enter WARMUP,
zones are DARK, breakers IDLE with position UNKNOWN, and records, time and ports run on. That records, time and ports run on
over LOADING_END, which Table 10-5 gives start values, is the model's reading (DEDUCED, log 28). -/
def Obligations.LoadingEndsInServiceMode : Prop :=
  (∀ s : State,
    (s.powered = true → s.mode = .reset →
      exec .resetEnd s = .next { s with mode := .loading, loadLimit := some (s.now + 5000) })
    ∧ (s.mode = .loading →
      ∃ t, exec .loadingEnd s = .next t
        ∧ (s.sets.image.valid = true → t.mode = .protecting ∧ t.sets.working = s.sets.image.settings
            ∧ t.sets.generation = s.sets.image.generation ∧ t.sets.dirty = false)
        ∧ (s.sets.image.valid = false → t.mode = .backstop ∧ t.sets.working = backstopDefaults
            ∧ t.sets.generation = 0 ∧ t.sets.dirty = true)
        ∧ t.sets.store = .idle ∧ t.sets.snapshot = none ∧ t.sets.timer = none ∧ t.sets.failed = false
        ∧ t.sets.writtenSince = false ∧ t.sets.image = s.sets.image
        ∧ (s.lockout.word.valid = true → t.lockout.marks = s.lockout.word.marks ∧ t.lockout.store = .idle
            ∧ t.lockout.snapshot = none ∧ t.lockout.word = s.lockout.word)
        ∧ (s.lockout.word.valid = false → (∀ b, t.locked b = true) ∧ t.lockout.store = .updating
            ∧ t.lockout.snapshot = some t.lockout.marks ∧ t.lockout.timer = some (s.now + 60000)
            ∧ t.lockout.word.valid = false)
        ∧ t.lockout.fault = false
        ∧ t.lockout.abandonedAt = none
        ∧ (∀ c, t.chan c = {
            phase := if (t.chanRec c).inUse then .warmup else .off
            cause := none, early := false, bfp := 0, count := 0, pickupTime := none, peak := 0, glare := false
            warmSum := 0, warmCount := 0, warmLength := if t.inForce.fast then 16 else 256
            nonOkRun := 0, okRun := 0, lastTest := none })
        ∧ (∀ z, t.zone z = {
            prot := .dark, confirmed := 0, litSince := none, alarmSent := false, noSourceSent := false, alarmTimer := none
            orderSlot := none, holds := Vector.replicate 3 none, heldLightSent := false })
        ∧ (∀ o, t.order o = none)
        ∧ (∀ b, t.trip b = {
            phase := .idle, demands := 0, bfTimer := none, minTimer := none, ceilTimer := none, failed := false })
        ∧ (∀ u, t.utLine u = { asserted := false, claims := 0, since := none, minimum := .stopped })
        ∧ t.batch = {
            state := .idle, selected := 0, learn := false, results := Vector.replicate 24 .none, current := none
            step := none, settleTimer := none, emitSum := 0, emitCount := 0, darkenTimer := none, darkenCount := 0
            cause := none, quietTimer := none, gatherStart := none, windowExpiry := none, windowLimit := none }
        ∧ t.sup = { supply := .unknown, lastReading := none }
        ∧ (∀ b, t.input b = {
            bpc := (s.input b).bpc, bpo := (s.input b).bpo, stability := some (s.now + 3000), position := .unknown
            positionFault := false
            unknownTimer := if (t.breakerRec b).inUse then some (s.now + 1000000) else none
            current := false, curLine := (s.input b).curLine
            filterTimer := if (s.input b).curLine then some (s.now + 100) else none, closedAgainstLockout := false })
        ∧ t.loadLimit = none ∧ t.execLimit = s.execLimit
        ∧ SameBut [.mode, .channels, .inputs, .zones, .orders, .trips, .ut, .lockout, .batch, .sets, .sup, .limits] s t))
  ∧ (∀ w : LockoutWord, w.valid = true ↔ w.marker = true ∧ w.complement = ~~~ w.marks)
  ∧ (∀ s : State, s.inForce = (if s.mode = .backstop then backstopDefaults else s.sets.working)
      ∧ (∀ c, s.chanRec c = look s.inForce.channels c) ∧ (∀ z, s.zoneRec z = look s.inForce.zones z)
      ∧ (∀ b, s.breakerRec b = look s.inForce.breakers b) ∧ ∀ p, s.portRec p = look s.inForce.ports p)
  ∧ (∀ c, look backstopDefaults.channels c =
      { inUse := true, primary := 0, secondary := none, ta := 2048, g := 32, m := 200, k := 8, n := 2, ref := 0 })
  ∧ (∀ z, look backstopDefaults.zones z = { inUse := decide (z = 0), lightOnly := false })
  ∧ (∀ l, look backstopDefaults.links l = none)
  ∧ (∀ b, look backstopDefaults.breakers b =
      { inUse := true, role := .incomer, sideA := .external, sideB := 0, owner := 2, ccUsed := true, bfTime := 120
        utLine := if h : b.val < 4 then some ⟨b.val, h⟩ else none })
  ∧ (∀ p, look backstopDefaults.ports p =
      if p = 2 then { priority := 3, ceiling := 0 } else { priority := 2, ceiling := 4 })
  ∧ backstopDefaults.fast = true

/-- R180, R182, R183: a completed commit and the next reset by RESET_N, whatever the mode at the commit, bring the part to
PROTECTING on the committed settings with their generation, if they are settings that Write Item could have built (two of
its conditions are the model's reading, log 11). -/
def Obligations.CommittedSettingsReturn : Prop :=
  ∀ (s : State) (w : Settings) (g : Nat), s.powered = true → s.sets.snapshot = some (w, g) → Buildable w →
    ∃ t1 t2 t3 t4, exec .commitCompletion s = .next t1 ∧ exec .resetN t1 = .next t2 ∧ exec .resetEnd t2 = .next t3
      ∧ exec .loadingEnd t3 = .next t4
      ∧ t4.mode = .protecting ∧ t4.inForce = w ∧ t4.sets.working = w ∧ t4.sets.generation = g ∧ t4.sets.dirty = false
      ∧ t4.ring = s.ring ∧ t4.nextSeq = s.nextSeq

/-- R187: a reading of the trip supply is stored, and the state becomes OK or LOW where the reading agrees with the last
one; else it stays. In RESET and LOADING no reading is taken. -/
def Obligations.TripSupplyNeedsTwoReadings : Prop :=
  ∀ (s : State) (good : Bool),
    (s.inService = true →
      ∃ t, exec (.tripSupplyReading good) s = .next t ∧ t.sup.lastReading = some good
        ∧ (s.sup.lastReading = some good → t.sup.supply = if good then .ok else .low)
        ∧ (s.sup.lastReading ≠ some good → t.sup.supply = s.sup.supply) ∧ SameBut [.sup] s t)
    ∧ (s.inService = false → exec (.tripSupplyReading good) s = .next s)

/-! ### Invariants -/

/-- The state after power-on reset meets every invariant below. -/
def Obligations.ResetMeetsInvariants : Prop :=
  DrivenIsLocked State.reset ∧ LockoutWordOk State.reset ∧ RecordsOk State.reset ∧ HoldsOk State.reset
    ∧ PortsOk State.reset ∧ OrdersOk State.reset ∧ LevelBounded State.reset ∧ QuietOk State.reset
    ∧ TestingOk State.reset ∧ LinksOk State.reset.sets.working

/-- R91, R96, R97, R99: every step keeps these: a breaker whose trip state is not IDLE is LOCKED, and the lockout word is
valid only while it holds the lockout set as it stands. -/
def Obligations.StepKeepsLockouts : Prop :=
  ∀ s t : State, step s = .next t →
    (DrivenIsLocked s → DrivenIsLocked t) ∧ (LockoutWordOk s → LockoutWordOk t)

/-- R147, R148, R161, R164, R165: every step keeps these: the ring is at most 16 records long, with consecutive sequence
numbers that end before the counter, and every port's unfetched count is at most the number of records held; at most one
slot is EXECUTING, a slot is QUEUED only while one is, and a RESPONSE is sent only from an ANSWERED slot. -/
def Obligations.StepKeepsRecordsAndPorts : Prop :=
  ∀ s t : State, step s = .next t → (RecordsOk s → RecordsOk t) ∧ (PortsOk s → PortsOk t)

/-- R105, R108, R113: every step keeps a HELD zone with a non-empty hold list, and a zone with a non-empty hold list HELD
or ARC. -/
def Obligations.StepKeepsHolds : Prop := ∀ s t : State, step s = .next t → HoldsOk s → HoldsOk t

/-- R58, R81: every step keeps these: a zone stands in the zone list of an active order exactly while it is ARC with that
order's slot, and no order's level exceeds 2. -/
def Obligations.StepKeepsOrders : Prop :=
  ∀ s t : State, step s = .next t → (OrdersOk s → OrdersOk t) ∧ (LevelBounded s → LevelBounded t)

/-- R118, R124, R134: every step keeps these: a channel is in TESTING exactly while it is the current channel of a RUNNING
batch, and the quiet timer runs exactly while the batch is SUSPENDED with cause LIGHT on a board with no zone LIT or
ARC. -/
def Obligations.StepKeepsTestEngine : Prop :=
  ∀ s t : State, step s = .next t → TestingOk s → QuietOk s → TestingOk t ∧ QuietOk t

/-- R31: every step keeps the links of the working settings: each filled slot names two distinct zones, both in use, and no
two filled slots hold the same pair. -/
def Obligations.StepKeepsLinks : Prop := ∀ s t : State, step s = .next t → LinksOk s.sets.working → LinksOk t.sets.working
end

