-- ==== Sys2Proof/Laws/State.lean ====
section
/-! SUPPORT. One lemma for each field of the state and each update of one part, and for each reading that an update leaves
alone. -/

namespace Sys2Proof.Machine

open Sys2Proof

/-- A table read after one of its records was replaced. -/
@[simp] theorem look_put {α : Type} {n : Nat} (t : Vector α n) (i j : Fin n) (x : α) :
    look (put t i x) j = if i = j then x else look t j := by
  simp [put, look, Vector.getElem_set, Fin.ext_iff]

/-- Replacing a record by itself. -/
@[simp] theorem put_look {α : Type} {n : Nat} (t : Vector α n) (i : Fin n) : put t i (look t i) = t := by
  simp [put, look]

/-- The later replacement of a record counts. -/
@[simp] theorem put_put {α : Type} {n : Nat} (t : Vector α n) (i : Fin n) (x y : α) :
    put (put t i x) i y = put t i y := by
  simp [put]

/-- Tables with equal records are equal. -/
theorem look_ext {α : Type} {n : Nat} {t u : Vector α n} (h : ∀ i, look t i = look u i) : t = u :=
  Vector.ext fun i hi => h ⟨i, hi⟩

theorem look_map {α β : Type} {n : Nat} (f : α → β) (t : Vector α n) (i : Fin n) :
    look (t.map f) i = f (look t i) := by simp [look]

theorem look_replicate {α : Type} {n : Nat} (x : α) (i : Fin n) : look (Vector.replicate n x) i = x := by simp [look]

theorem look_ofFn {α : Type} {n : Nat} (f : Fin n → α) (i : Fin n) : look (Vector.ofFn f) i = f i := by simp [look]

/-! ### setChan -/

section
variable (s : State) (c : ChanId) (x : Channel)

@[simp] theorem State.setChan_pending : (s.setChan c x).pending = s.pending := rfl
@[simp] theorem State.setChan_powered : (s.setChan c x).powered = s.powered := rfl
@[simp] theorem State.setChan_mode : (s.setChan c x).mode = s.mode := rfl
@[simp] theorem State.setChan_now : (s.setChan c x).now = s.now := rfl
@[simp] theorem State.setChan_ties : (s.setChan c x).ties = s.ties := rfl
@[simp] theorem State.setChan_channels : (s.setChan c x).channels = put s.channels c x := rfl
@[simp] theorem State.setChan_inputs : (s.setChan c x).inputs = s.inputs := rfl
@[simp] theorem State.setChan_zones : (s.setChan c x).zones = s.zones := rfl
@[simp] theorem State.setChan_orders : (s.setChan c x).orders = s.orders := rfl
@[simp] theorem State.setChan_trips : (s.setChan c x).trips = s.trips := rfl
@[simp] theorem State.setChan_ut : (s.setChan c x).ut = s.ut := rfl
@[simp] theorem State.setChan_lockout : (s.setChan c x).lockout = s.lockout := rfl
@[simp] theorem State.setChan_batch : (s.setChan c x).batch = s.batch := rfl
@[simp] theorem State.setChan_ring : (s.setChan c x).ring = s.ring := rfl
@[simp] theorem State.setChan_nextSeq : (s.setChan c x).nextSeq = s.nextSeq := rfl
@[simp] theorem State.setChan_time : (s.setChan c x).time = s.time := rfl
@[simp] theorem State.setChan_ports : (s.setChan c x).ports = s.ports := rfl
@[simp] theorem State.setChan_sets : (s.setChan c x).sets = s.sets := rfl
@[simp] theorem State.setChan_sup : (s.setChan c x).sup = s.sup := rfl
@[simp] theorem State.setChan_execLimit : (s.setChan c x).execLimit = s.execLimit := rfl
@[simp] theorem State.setChan_loadLimit : (s.setChan c x).loadLimit = s.loadLimit := rfl
@[simp] theorem State.setChan_chan (j : ChanId) : (s.setChan c x).chan j = if c = j then x else s.chan j := look_put _ _ _ _
@[simp] theorem State.setChan_input (j : BreakerId) : (s.setChan c x).input j = s.input j := rfl
@[simp] theorem State.setChan_zone (j : ZoneId) : (s.setChan c x).zone j = s.zone j := rfl
@[simp] theorem State.setChan_order (j : SlotId) : (s.setChan c x).order j = s.order j := rfl
@[simp] theorem State.setChan_trip (j : BreakerId) : (s.setChan c x).trip j = s.trip j := rfl
@[simp] theorem State.setChan_utLine (j : UtId) : (s.setChan c x).utLine j = s.utLine j := rfl
@[simp] theorem State.setChan_port (j : PortId) : (s.setChan c x).port j = s.port j := rfl
@[simp] theorem State.setChan_stamp : (s.setChan c x).stamp = s.stamp := rfl
@[simp] theorem State.setChan_inService : (s.setChan c x).inService = s.inService := rfl
@[simp] theorem State.setChan_inForce : (s.setChan c x).inForce = s.inForce := rfl
@[simp] theorem State.setChan_chanRec (j : ChanId) : (s.setChan c x).chanRec j = s.chanRec j := rfl
@[simp] theorem State.setChan_zoneRec (j : ZoneId) : (s.setChan c x).zoneRec j = s.zoneRec j := rfl
@[simp] theorem State.setChan_breakerRec (j : BreakerId) : (s.setChan c x).breakerRec j = s.breakerRec j := rfl
@[simp] theorem State.setChan_portRec (j : PortId) : (s.setChan c x).portRec j = s.portRec j := rfl
@[simp] theorem State.setChan_island (j : ZoneId) : (s.setChan c x).island j = s.island j := rfl
@[simp] theorem State.setChan_watchers (j : ZoneId) : (s.setChan c x).watchers j = s.watchers j := rfl
@[simp] theorem State.setChan_locked (j : BreakerId) : (s.setChan c x).locked j = s.locked j := rfl
@[simp] theorem State.setChan_anyBright : (s.setChan c x).anyBright = s.anyBright := rfl
@[simp] theorem State.setChan_boundary (j : Marks 12) : (s.setChan c x).boundary j = s.boundary j := rfl
@[simp] theorem State.setChan_isOpen (j : BreakerId) : (s.setChan c x).isOpen j = s.isOpen j := rfl
@[simp] theorem State.setChan_tripSet (j : Marks 12) : (s.setChan c x).tripSet j = s.tripSet j := rfl
@[simp] theorem State.setChan_currentCondition (j : ZoneId) : (s.setChan c x).currentCondition j = s.currentCondition j := rfl
@[simp] theorem State.setChan_hasOpened (j : BreakerId) : (s.setChan c x).hasOpened j = s.hasOpened j := rfl
@[simp] theorem State.setChan_executing : (s.setChan c x).executing = s.executing := rfl
@[simp] theorem State.setChan_isQueued (j : PortId) : (s.setChan c x).isQueued j = s.isQueued j := rfl
@[simp] theorem State.setChan_result (j : ChanId) : (s.setChan c x).result j = s.result j := rfl
@[simp] theorem State.setChan_after (j : Nat) : (s.setChan c x).after j = s.after j := rfl
@[simp] theorem State.setChan_unfetched (j : PortId) : (s.setChan c x).unfetched j = s.unfetched j := rfl
@[simp] theorem State.setChan_setChan (y) : (s.setChan c x).setChan c y = s.setChan c y := by simp [State.setChan]
@[simp] theorem State.setChan_self : s.setChan c (s.chan c) = s := by simp [State.setChan, State.chan]

end

/-! ### setInput -/

section
variable (s : State) (b : BreakerId) (x : Inputs)

@[simp] theorem State.setInput_pending : (s.setInput b x).pending = s.pending := rfl
@[simp] theorem State.setInput_powered : (s.setInput b x).powered = s.powered := rfl
@[simp] theorem State.setInput_mode : (s.setInput b x).mode = s.mode := rfl
@[simp] theorem State.setInput_now : (s.setInput b x).now = s.now := rfl
@[simp] theorem State.setInput_ties : (s.setInput b x).ties = s.ties := rfl
@[simp] theorem State.setInput_channels : (s.setInput b x).channels = s.channels := rfl
@[simp] theorem State.setInput_inputs : (s.setInput b x).inputs = put s.inputs b x := rfl
@[simp] theorem State.setInput_zones : (s.setInput b x).zones = s.zones := rfl
@[simp] theorem State.setInput_orders : (s.setInput b x).orders = s.orders := rfl
@[simp] theorem State.setInput_trips : (s.setInput b x).trips = s.trips := rfl
@[simp] theorem State.setInput_ut : (s.setInput b x).ut = s.ut := rfl
@[simp] theorem State.setInput_lockout : (s.setInput b x).lockout = s.lockout := rfl
@[simp] theorem State.setInput_batch : (s.setInput b x).batch = s.batch := rfl
@[simp] theorem State.setInput_ring : (s.setInput b x).ring = s.ring := rfl
@[simp] theorem State.setInput_nextSeq : (s.setInput b x).nextSeq = s.nextSeq := rfl
@[simp] theorem State.setInput_time : (s.setInput b x).time = s.time := rfl
@[simp] theorem State.setInput_ports : (s.setInput b x).ports = s.ports := rfl
@[simp] theorem State.setInput_sets : (s.setInput b x).sets = s.sets := rfl
@[simp] theorem State.setInput_sup : (s.setInput b x).sup = s.sup := rfl
@[simp] theorem State.setInput_execLimit : (s.setInput b x).execLimit = s.execLimit := rfl
@[simp] theorem State.setInput_loadLimit : (s.setInput b x).loadLimit = s.loadLimit := rfl
@[simp] theorem State.setInput_chan (j : ChanId) : (s.setInput b x).chan j = s.chan j := rfl
@[simp] theorem State.setInput_input (j : BreakerId) : (s.setInput b x).input j = if b = j then x else s.input j := look_put _ _ _ _
@[simp] theorem State.setInput_zone (j : ZoneId) : (s.setInput b x).zone j = s.zone j := rfl
@[simp] theorem State.setInput_order (j : SlotId) : (s.setInput b x).order j = s.order j := rfl
@[simp] theorem State.setInput_trip (j : BreakerId) : (s.setInput b x).trip j = s.trip j := rfl
@[simp] theorem State.setInput_utLine (j : UtId) : (s.setInput b x).utLine j = s.utLine j := rfl
@[simp] theorem State.setInput_port (j : PortId) : (s.setInput b x).port j = s.port j := rfl
@[simp] theorem State.setInput_stamp : (s.setInput b x).stamp = s.stamp := rfl
@[simp] theorem State.setInput_inService : (s.setInput b x).inService = s.inService := rfl
@[simp] theorem State.setInput_inForce : (s.setInput b x).inForce = s.inForce := rfl
@[simp] theorem State.setInput_chanRec (j : ChanId) : (s.setInput b x).chanRec j = s.chanRec j := rfl
@[simp] theorem State.setInput_zoneRec (j : ZoneId) : (s.setInput b x).zoneRec j = s.zoneRec j := rfl
@[simp] theorem State.setInput_breakerRec (j : BreakerId) : (s.setInput b x).breakerRec j = s.breakerRec j := rfl
@[simp] theorem State.setInput_portRec (j : PortId) : (s.setInput b x).portRec j = s.portRec j := rfl
@[simp] theorem State.setInput_island (j : ZoneId) : (s.setInput b x).island j = s.island j := rfl
@[simp] theorem State.setInput_watchers (j : ZoneId) : (s.setInput b x).watchers j = s.watchers j := rfl
@[simp] theorem State.setInput_locked (j : BreakerId) : (s.setInput b x).locked j = s.locked j := rfl
@[simp] theorem State.setInput_anyBright : (s.setInput b x).anyBright = s.anyBright := rfl
@[simp] theorem State.setInput_boundary (j : Marks 12) : (s.setInput b x).boundary j = s.boundary j := rfl
@[simp] theorem State.setInput_executing : (s.setInput b x).executing = s.executing := rfl
@[simp] theorem State.setInput_isQueued (j : PortId) : (s.setInput b x).isQueued j = s.isQueued j := rfl
@[simp] theorem State.setInput_result (j : ChanId) : (s.setInput b x).result j = s.result j := rfl
@[simp] theorem State.setInput_after (j : Nat) : (s.setInput b x).after j = s.after j := rfl
@[simp] theorem State.setInput_unfetched (j : PortId) : (s.setInput b x).unfetched j = s.unfetched j := rfl
@[simp] theorem State.setInput_setInput (y) : (s.setInput b x).setInput b y = s.setInput b y := by simp [State.setInput]
@[simp] theorem State.setInput_self : s.setInput b (s.input b) = s := by simp [State.setInput, State.input]

end

/-! ### setZone -/

section
variable (s : State) (z : ZoneId) (x : Zone)

@[simp] theorem State.setZone_pending : (s.setZone z x).pending = s.pending := rfl
@[simp] theorem State.setZone_powered : (s.setZone z x).powered = s.powered := rfl
@[simp] theorem State.setZone_mode : (s.setZone z x).mode = s.mode := rfl
@[simp] theorem State.setZone_now : (s.setZone z x).now = s.now := rfl
@[simp] theorem State.setZone_ties : (s.setZone z x).ties = s.ties := rfl
@[simp] theorem State.setZone_channels : (s.setZone z x).channels = s.channels := rfl
@[simp] theorem State.setZone_inputs : (s.setZone z x).inputs = s.inputs := rfl
@[simp] theorem State.setZone_zones : (s.setZone z x).zones = put s.zones z x := rfl
@[simp] theorem State.setZone_orders : (s.setZone z x).orders = s.orders := rfl
@[simp] theorem State.setZone_trips : (s.setZone z x).trips = s.trips := rfl
@[simp] theorem State.setZone_ut : (s.setZone z x).ut = s.ut := rfl
@[simp] theorem State.setZone_lockout : (s.setZone z x).lockout = s.lockout := rfl
@[simp] theorem State.setZone_batch : (s.setZone z x).batch = s.batch := rfl
@[simp] theorem State.setZone_ring : (s.setZone z x).ring = s.ring := rfl
@[simp] theorem State.setZone_nextSeq : (s.setZone z x).nextSeq = s.nextSeq := rfl
@[simp] theorem State.setZone_time : (s.setZone z x).time = s.time := rfl
@[simp] theorem State.setZone_ports : (s.setZone z x).ports = s.ports := rfl
@[simp] theorem State.setZone_sets : (s.setZone z x).sets = s.sets := rfl
@[simp] theorem State.setZone_sup : (s.setZone z x).sup = s.sup := rfl
@[simp] theorem State.setZone_execLimit : (s.setZone z x).execLimit = s.execLimit := rfl
@[simp] theorem State.setZone_loadLimit : (s.setZone z x).loadLimit = s.loadLimit := rfl
@[simp] theorem State.setZone_chan (j : ChanId) : (s.setZone z x).chan j = s.chan j := rfl
@[simp] theorem State.setZone_input (j : BreakerId) : (s.setZone z x).input j = s.input j := rfl
@[simp] theorem State.setZone_zone (j : ZoneId) : (s.setZone z x).zone j = if z = j then x else s.zone j := look_put _ _ _ _
@[simp] theorem State.setZone_order (j : SlotId) : (s.setZone z x).order j = s.order j := rfl
@[simp] theorem State.setZone_trip (j : BreakerId) : (s.setZone z x).trip j = s.trip j := rfl
@[simp] theorem State.setZone_utLine (j : UtId) : (s.setZone z x).utLine j = s.utLine j := rfl
@[simp] theorem State.setZone_port (j : PortId) : (s.setZone z x).port j = s.port j := rfl
@[simp] theorem State.setZone_stamp : (s.setZone z x).stamp = s.stamp := rfl
@[simp] theorem State.setZone_inService : (s.setZone z x).inService = s.inService := rfl
@[simp] theorem State.setZone_inForce : (s.setZone z x).inForce = s.inForce := rfl
@[simp] theorem State.setZone_chanRec (j : ChanId) : (s.setZone z x).chanRec j = s.chanRec j := rfl
@[simp] theorem State.setZone_zoneRec (j : ZoneId) : (s.setZone z x).zoneRec j = s.zoneRec j := rfl
@[simp] theorem State.setZone_breakerRec (j : BreakerId) : (s.setZone z x).breakerRec j = s.breakerRec j := rfl
@[simp] theorem State.setZone_portRec (j : PortId) : (s.setZone z x).portRec j = s.portRec j := rfl
@[simp] theorem State.setZone_island (j : ZoneId) : (s.setZone z x).island j = s.island j := rfl
@[simp] theorem State.setZone_watchers (j : ZoneId) : (s.setZone z x).watchers j = s.watchers j := rfl
@[simp] theorem State.setZone_locked (j : BreakerId) : (s.setZone z x).locked j = s.locked j := rfl
@[simp] theorem State.setZone_boundary (j : Marks 12) : (s.setZone z x).boundary j = s.boundary j := rfl
@[simp] theorem State.setZone_isOpen (j : BreakerId) : (s.setZone z x).isOpen j = s.isOpen j := rfl
@[simp] theorem State.setZone_tripSet (j : Marks 12) : (s.setZone z x).tripSet j = s.tripSet j := rfl
@[simp] theorem State.setZone_currentCondition (j : ZoneId) : (s.setZone z x).currentCondition j = s.currentCondition j := rfl
@[simp] theorem State.setZone_hasOpened (j : BreakerId) : (s.setZone z x).hasOpened j = s.hasOpened j := rfl
@[simp] theorem State.setZone_executing : (s.setZone z x).executing = s.executing := rfl
@[simp] theorem State.setZone_isQueued (j : PortId) : (s.setZone z x).isQueued j = s.isQueued j := rfl
@[simp] theorem State.setZone_result (j : ChanId) : (s.setZone z x).result j = s.result j := rfl
@[simp] theorem State.setZone_after (j : Nat) : (s.setZone z x).after j = s.after j := rfl
@[simp] theorem State.setZone_unfetched (j : PortId) : (s.setZone z x).unfetched j = s.unfetched j := rfl
@[simp] theorem State.setZone_setZone (y) : (s.setZone z x).setZone z y = s.setZone z y := by simp [State.setZone]
@[simp] theorem State.setZone_self : s.setZone z (s.zone z) = s := by simp [State.setZone, State.zone]

end

/-! ### setOrder -/

section
variable (s : State) (o : SlotId) (x : Option Order)

@[simp] theorem State.setOrder_pending : (s.setOrder o x).pending = s.pending := rfl
@[simp] theorem State.setOrder_powered : (s.setOrder o x).powered = s.powered := rfl
@[simp] theorem State.setOrder_mode : (s.setOrder o x).mode = s.mode := rfl
@[simp] theorem State.setOrder_now : (s.setOrder o x).now = s.now := rfl
@[simp] theorem State.setOrder_ties : (s.setOrder o x).ties = s.ties := rfl
@[simp] theorem State.setOrder_channels : (s.setOrder o x).channels = s.channels := rfl
@[simp] theorem State.setOrder_inputs : (s.setOrder o x).inputs = s.inputs := rfl
@[simp] theorem State.setOrder_zones : (s.setOrder o x).zones = s.zones := rfl
@[simp] theorem State.setOrder_orders : (s.setOrder o x).orders = put s.orders o x := rfl
@[simp] theorem State.setOrder_trips : (s.setOrder o x).trips = s.trips := rfl
@[simp] theorem State.setOrder_ut : (s.setOrder o x).ut = s.ut := rfl
@[simp] theorem State.setOrder_lockout : (s.setOrder o x).lockout = s.lockout := rfl
@[simp] theorem State.setOrder_batch : (s.setOrder o x).batch = s.batch := rfl
@[simp] theorem State.setOrder_ring : (s.setOrder o x).ring = s.ring := rfl
@[simp] theorem State.setOrder_nextSeq : (s.setOrder o x).nextSeq = s.nextSeq := rfl
@[simp] theorem State.setOrder_time : (s.setOrder o x).time = s.time := rfl
@[simp] theorem State.setOrder_ports : (s.setOrder o x).ports = s.ports := rfl
@[simp] theorem State.setOrder_sets : (s.setOrder o x).sets = s.sets := rfl
@[simp] theorem State.setOrder_sup : (s.setOrder o x).sup = s.sup := rfl
@[simp] theorem State.setOrder_execLimit : (s.setOrder o x).execLimit = s.execLimit := rfl
@[simp] theorem State.setOrder_loadLimit : (s.setOrder o x).loadLimit = s.loadLimit := rfl
@[simp] theorem State.setOrder_chan (j : ChanId) : (s.setOrder o x).chan j = s.chan j := rfl
@[simp] theorem State.setOrder_input (j : BreakerId) : (s.setOrder o x).input j = s.input j := rfl
@[simp] theorem State.setOrder_zone (j : ZoneId) : (s.setOrder o x).zone j = s.zone j := rfl
@[simp] theorem State.setOrder_order (j : SlotId) : (s.setOrder o x).order j = if o = j then x else s.order j := look_put _ _ _ _
@[simp] theorem State.setOrder_trip (j : BreakerId) : (s.setOrder o x).trip j = s.trip j := rfl
@[simp] theorem State.setOrder_utLine (j : UtId) : (s.setOrder o x).utLine j = s.utLine j := rfl
@[simp] theorem State.setOrder_port (j : PortId) : (s.setOrder o x).port j = s.port j := rfl
@[simp] theorem State.setOrder_stamp : (s.setOrder o x).stamp = s.stamp := rfl
@[simp] theorem State.setOrder_inService : (s.setOrder o x).inService = s.inService := rfl
@[simp] theorem State.setOrder_inForce : (s.setOrder o x).inForce = s.inForce := rfl
@[simp] theorem State.setOrder_chanRec (j : ChanId) : (s.setOrder o x).chanRec j = s.chanRec j := rfl
@[simp] theorem State.setOrder_zoneRec (j : ZoneId) : (s.setOrder o x).zoneRec j = s.zoneRec j := rfl
@[simp] theorem State.setOrder_breakerRec (j : BreakerId) : (s.setOrder o x).breakerRec j = s.breakerRec j := rfl
@[simp] theorem State.setOrder_portRec (j : PortId) : (s.setOrder o x).portRec j = s.portRec j := rfl
@[simp] theorem State.setOrder_island (j : ZoneId) : (s.setOrder o x).island j = s.island j := rfl
@[simp] theorem State.setOrder_watchers (j : ZoneId) : (s.setOrder o x).watchers j = s.watchers j := rfl
@[simp] theorem State.setOrder_locked (j : BreakerId) : (s.setOrder o x).locked j = s.locked j := rfl
@[simp] theorem State.setOrder_anyBright : (s.setOrder o x).anyBright = s.anyBright := rfl
@[simp] theorem State.setOrder_boundary (j : Marks 12) : (s.setOrder o x).boundary j = s.boundary j := rfl
@[simp] theorem State.setOrder_isOpen (j : BreakerId) : (s.setOrder o x).isOpen j = s.isOpen j := rfl
@[simp] theorem State.setOrder_tripSet (j : Marks 12) : (s.setOrder o x).tripSet j = s.tripSet j := rfl
@[simp] theorem State.setOrder_currentCondition (j : ZoneId) : (s.setOrder o x).currentCondition j = s.currentCondition j := rfl
@[simp] theorem State.setOrder_hasOpened (j : BreakerId) : (s.setOrder o x).hasOpened j = s.hasOpened j := rfl
@[simp] theorem State.setOrder_executing : (s.setOrder o x).executing = s.executing := rfl
@[simp] theorem State.setOrder_isQueued (j : PortId) : (s.setOrder o x).isQueued j = s.isQueued j := rfl
@[simp] theorem State.setOrder_result (j : ChanId) : (s.setOrder o x).result j = s.result j := rfl
@[simp] theorem State.setOrder_after (j : Nat) : (s.setOrder o x).after j = s.after j := rfl
@[simp] theorem State.setOrder_unfetched (j : PortId) : (s.setOrder o x).unfetched j = s.unfetched j := rfl
@[simp] theorem State.setOrder_setOrder (y) : (s.setOrder o x).setOrder o y = s.setOrder o y := by simp [State.setOrder]
@[simp] theorem State.setOrder_self : s.setOrder o (s.order o) = s := by simp [State.setOrder, State.order]

end

/-! ### setTrip -/

section
variable (s : State) (b : BreakerId) (x : Trip)

@[simp] theorem State.setTrip_pending : (s.setTrip b x).pending = s.pending := rfl
@[simp] theorem State.setTrip_powered : (s.setTrip b x).powered = s.powered := rfl
@[simp] theorem State.setTrip_mode : (s.setTrip b x).mode = s.mode := rfl
@[simp] theorem State.setTrip_now : (s.setTrip b x).now = s.now := rfl
@[simp] theorem State.setTrip_ties : (s.setTrip b x).ties = s.ties := rfl
@[simp] theorem State.setTrip_channels : (s.setTrip b x).channels = s.channels := rfl
@[simp] theorem State.setTrip_inputs : (s.setTrip b x).inputs = s.inputs := rfl
@[simp] theorem State.setTrip_zones : (s.setTrip b x).zones = s.zones := rfl
@[simp] theorem State.setTrip_orders : (s.setTrip b x).orders = s.orders := rfl
@[simp] theorem State.setTrip_trips : (s.setTrip b x).trips = put s.trips b x := rfl
@[simp] theorem State.setTrip_ut : (s.setTrip b x).ut = s.ut := rfl
@[simp] theorem State.setTrip_lockout : (s.setTrip b x).lockout = s.lockout := rfl
@[simp] theorem State.setTrip_batch : (s.setTrip b x).batch = s.batch := rfl
@[simp] theorem State.setTrip_ring : (s.setTrip b x).ring = s.ring := rfl
@[simp] theorem State.setTrip_nextSeq : (s.setTrip b x).nextSeq = s.nextSeq := rfl
@[simp] theorem State.setTrip_time : (s.setTrip b x).time = s.time := rfl
@[simp] theorem State.setTrip_ports : (s.setTrip b x).ports = s.ports := rfl
@[simp] theorem State.setTrip_sets : (s.setTrip b x).sets = s.sets := rfl
@[simp] theorem State.setTrip_sup : (s.setTrip b x).sup = s.sup := rfl
@[simp] theorem State.setTrip_execLimit : (s.setTrip b x).execLimit = s.execLimit := rfl
@[simp] theorem State.setTrip_loadLimit : (s.setTrip b x).loadLimit = s.loadLimit := rfl
@[simp] theorem State.setTrip_chan (j : ChanId) : (s.setTrip b x).chan j = s.chan j := rfl
@[simp] theorem State.setTrip_input (j : BreakerId) : (s.setTrip b x).input j = s.input j := rfl
@[simp] theorem State.setTrip_zone (j : ZoneId) : (s.setTrip b x).zone j = s.zone j := rfl
@[simp] theorem State.setTrip_order (j : SlotId) : (s.setTrip b x).order j = s.order j := rfl
@[simp] theorem State.setTrip_trip (j : BreakerId) : (s.setTrip b x).trip j = if b = j then x else s.trip j := look_put _ _ _ _
@[simp] theorem State.setTrip_utLine (j : UtId) : (s.setTrip b x).utLine j = s.utLine j := rfl
@[simp] theorem State.setTrip_port (j : PortId) : (s.setTrip b x).port j = s.port j := rfl
@[simp] theorem State.setTrip_stamp : (s.setTrip b x).stamp = s.stamp := rfl
@[simp] theorem State.setTrip_inService : (s.setTrip b x).inService = s.inService := rfl
@[simp] theorem State.setTrip_inForce : (s.setTrip b x).inForce = s.inForce := rfl
@[simp] theorem State.setTrip_chanRec (j : ChanId) : (s.setTrip b x).chanRec j = s.chanRec j := rfl
@[simp] theorem State.setTrip_zoneRec (j : ZoneId) : (s.setTrip b x).zoneRec j = s.zoneRec j := rfl
@[simp] theorem State.setTrip_breakerRec (j : BreakerId) : (s.setTrip b x).breakerRec j = s.breakerRec j := rfl
@[simp] theorem State.setTrip_portRec (j : PortId) : (s.setTrip b x).portRec j = s.portRec j := rfl
@[simp] theorem State.setTrip_island (j : ZoneId) : (s.setTrip b x).island j = s.island j := rfl
@[simp] theorem State.setTrip_watchers (j : ZoneId) : (s.setTrip b x).watchers j = s.watchers j := rfl
@[simp] theorem State.setTrip_locked (j : BreakerId) : (s.setTrip b x).locked j = s.locked j := rfl
@[simp] theorem State.setTrip_anyBright : (s.setTrip b x).anyBright = s.anyBright := rfl
@[simp] theorem State.setTrip_boundary (j : Marks 12) : (s.setTrip b x).boundary j = s.boundary j := rfl
@[simp] theorem State.setTrip_isOpen (j : BreakerId) : (s.setTrip b x).isOpen j = s.isOpen j := rfl
@[simp] theorem State.setTrip_tripSet (j : Marks 12) : (s.setTrip b x).tripSet j = s.tripSet j := rfl
@[simp] theorem State.setTrip_currentCondition (j : ZoneId) : (s.setTrip b x).currentCondition j = s.currentCondition j := rfl
@[simp] theorem State.setTrip_hasOpened (j : BreakerId) : (s.setTrip b x).hasOpened j = s.hasOpened j := rfl
@[simp] theorem State.setTrip_executing : (s.setTrip b x).executing = s.executing := rfl
@[simp] theorem State.setTrip_isQueued (j : PortId) : (s.setTrip b x).isQueued j = s.isQueued j := rfl
@[simp] theorem State.setTrip_result (j : ChanId) : (s.setTrip b x).result j = s.result j := rfl
@[simp] theorem State.setTrip_after (j : Nat) : (s.setTrip b x).after j = s.after j := rfl
@[simp] theorem State.setTrip_unfetched (j : PortId) : (s.setTrip b x).unfetched j = s.unfetched j := rfl
@[simp] theorem State.setTrip_setTrip (y) : (s.setTrip b x).setTrip b y = s.setTrip b y := by simp [State.setTrip]
@[simp] theorem State.setTrip_self : s.setTrip b (s.trip b) = s := by simp [State.setTrip, State.trip]

end

/-! ### setUt -/

section
variable (s : State) (u : UtId) (x : UtLine)

@[simp] theorem State.setUt_pending : (s.setUt u x).pending = s.pending := rfl
@[simp] theorem State.setUt_powered : (s.setUt u x).powered = s.powered := rfl
@[simp] theorem State.setUt_mode : (s.setUt u x).mode = s.mode := rfl
@[simp] theorem State.setUt_now : (s.setUt u x).now = s.now := rfl
@[simp] theorem State.setUt_ties : (s.setUt u x).ties = s.ties := rfl
@[simp] theorem State.setUt_channels : (s.setUt u x).channels = s.channels := rfl
@[simp] theorem State.setUt_inputs : (s.setUt u x).inputs = s.inputs := rfl
@[simp] theorem State.setUt_zones : (s.setUt u x).zones = s.zones := rfl
@[simp] theorem State.setUt_orders : (s.setUt u x).orders = s.orders := rfl
@[simp] theorem State.setUt_trips : (s.setUt u x).trips = s.trips := rfl
@[simp] theorem State.setUt_ut : (s.setUt u x).ut = put s.ut u x := rfl
@[simp] theorem State.setUt_lockout : (s.setUt u x).lockout = s.lockout := rfl
@[simp] theorem State.setUt_batch : (s.setUt u x).batch = s.batch := rfl
@[simp] theorem State.setUt_ring : (s.setUt u x).ring = s.ring := rfl
@[simp] theorem State.setUt_nextSeq : (s.setUt u x).nextSeq = s.nextSeq := rfl
@[simp] theorem State.setUt_time : (s.setUt u x).time = s.time := rfl
@[simp] theorem State.setUt_ports : (s.setUt u x).ports = s.ports := rfl
@[simp] theorem State.setUt_sets : (s.setUt u x).sets = s.sets := rfl
@[simp] theorem State.setUt_sup : (s.setUt u x).sup = s.sup := rfl
@[simp] theorem State.setUt_execLimit : (s.setUt u x).execLimit = s.execLimit := rfl
@[simp] theorem State.setUt_loadLimit : (s.setUt u x).loadLimit = s.loadLimit := rfl
@[simp] theorem State.setUt_chan (j : ChanId) : (s.setUt u x).chan j = s.chan j := rfl
@[simp] theorem State.setUt_input (j : BreakerId) : (s.setUt u x).input j = s.input j := rfl
@[simp] theorem State.setUt_zone (j : ZoneId) : (s.setUt u x).zone j = s.zone j := rfl
@[simp] theorem State.setUt_order (j : SlotId) : (s.setUt u x).order j = s.order j := rfl
@[simp] theorem State.setUt_trip (j : BreakerId) : (s.setUt u x).trip j = s.trip j := rfl
@[simp] theorem State.setUt_utLine (j : UtId) : (s.setUt u x).utLine j = if u = j then x else s.utLine j := look_put _ _ _ _
@[simp] theorem State.setUt_port (j : PortId) : (s.setUt u x).port j = s.port j := rfl
@[simp] theorem State.setUt_stamp : (s.setUt u x).stamp = s.stamp := rfl
@[simp] theorem State.setUt_inService : (s.setUt u x).inService = s.inService := rfl
@[simp] theorem State.setUt_inForce : (s.setUt u x).inForce = s.inForce := rfl
@[simp] theorem State.setUt_chanRec (j : ChanId) : (s.setUt u x).chanRec j = s.chanRec j := rfl
@[simp] theorem State.setUt_zoneRec (j : ZoneId) : (s.setUt u x).zoneRec j = s.zoneRec j := rfl
@[simp] theorem State.setUt_breakerRec (j : BreakerId) : (s.setUt u x).breakerRec j = s.breakerRec j := rfl
@[simp] theorem State.setUt_portRec (j : PortId) : (s.setUt u x).portRec j = s.portRec j := rfl
@[simp] theorem State.setUt_island (j : ZoneId) : (s.setUt u x).island j = s.island j := rfl
@[simp] theorem State.setUt_watchers (j : ZoneId) : (s.setUt u x).watchers j = s.watchers j := rfl
@[simp] theorem State.setUt_locked (j : BreakerId) : (s.setUt u x).locked j = s.locked j := rfl
@[simp] theorem State.setUt_anyBright : (s.setUt u x).anyBright = s.anyBright := rfl
@[simp] theorem State.setUt_boundary (j : Marks 12) : (s.setUt u x).boundary j = s.boundary j := rfl
@[simp] theorem State.setUt_isOpen (j : BreakerId) : (s.setUt u x).isOpen j = s.isOpen j := rfl
@[simp] theorem State.setUt_tripSet (j : Marks 12) : (s.setUt u x).tripSet j = s.tripSet j := rfl
@[simp] theorem State.setUt_currentCondition (j : ZoneId) : (s.setUt u x).currentCondition j = s.currentCondition j := rfl
@[simp] theorem State.setUt_hasOpened (j : BreakerId) : (s.setUt u x).hasOpened j = s.hasOpened j := rfl
@[simp] theorem State.setUt_executing : (s.setUt u x).executing = s.executing := rfl
@[simp] theorem State.setUt_isQueued (j : PortId) : (s.setUt u x).isQueued j = s.isQueued j := rfl
@[simp] theorem State.setUt_result (j : ChanId) : (s.setUt u x).result j = s.result j := rfl
@[simp] theorem State.setUt_after (j : Nat) : (s.setUt u x).after j = s.after j := rfl
@[simp] theorem State.setUt_unfetched (j : PortId) : (s.setUt u x).unfetched j = s.unfetched j := rfl
@[simp] theorem State.setUt_setUt (y) : (s.setUt u x).setUt u y = s.setUt u y := by simp [State.setUt]
@[simp] theorem State.setUt_self : s.setUt u (s.utLine u) = s := by simp [State.setUt, State.utLine]

end

/-! ### setPort -/

section
variable (s : State) (p : PortId) (x : Port)

@[simp] theorem State.setPort_pending : (s.setPort p x).pending = s.pending := rfl
@[simp] theorem State.setPort_powered : (s.setPort p x).powered = s.powered := rfl
@[simp] theorem State.setPort_mode : (s.setPort p x).mode = s.mode := rfl
@[simp] theorem State.setPort_now : (s.setPort p x).now = s.now := rfl
@[simp] theorem State.setPort_ties : (s.setPort p x).ties = s.ties := rfl
@[simp] theorem State.setPort_channels : (s.setPort p x).channels = s.channels := rfl
@[simp] theorem State.setPort_inputs : (s.setPort p x).inputs = s.inputs := rfl
@[simp] theorem State.setPort_zones : (s.setPort p x).zones = s.zones := rfl
@[simp] theorem State.setPort_orders : (s.setPort p x).orders = s.orders := rfl
@[simp] theorem State.setPort_trips : (s.setPort p x).trips = s.trips := rfl
@[simp] theorem State.setPort_ut : (s.setPort p x).ut = s.ut := rfl
@[simp] theorem State.setPort_lockout : (s.setPort p x).lockout = s.lockout := rfl
@[simp] theorem State.setPort_batch : (s.setPort p x).batch = s.batch := rfl
@[simp] theorem State.setPort_ring : (s.setPort p x).ring = s.ring := rfl
@[simp] theorem State.setPort_nextSeq : (s.setPort p x).nextSeq = s.nextSeq := rfl
@[simp] theorem State.setPort_time : (s.setPort p x).time = s.time := rfl
@[simp] theorem State.setPort_ports : (s.setPort p x).ports = put s.ports p x := rfl
@[simp] theorem State.setPort_sets : (s.setPort p x).sets = s.sets := rfl
@[simp] theorem State.setPort_sup : (s.setPort p x).sup = s.sup := rfl
@[simp] theorem State.setPort_execLimit : (s.setPort p x).execLimit = s.execLimit := rfl
@[simp] theorem State.setPort_loadLimit : (s.setPort p x).loadLimit = s.loadLimit := rfl
@[simp] theorem State.setPort_chan (j : ChanId) : (s.setPort p x).chan j = s.chan j := rfl
@[simp] theorem State.setPort_input (j : BreakerId) : (s.setPort p x).input j = s.input j := rfl
@[simp] theorem State.setPort_zone (j : ZoneId) : (s.setPort p x).zone j = s.zone j := rfl
@[simp] theorem State.setPort_order (j : SlotId) : (s.setPort p x).order j = s.order j := rfl
@[simp] theorem State.setPort_trip (j : BreakerId) : (s.setPort p x).trip j = s.trip j := rfl
@[simp] theorem State.setPort_utLine (j : UtId) : (s.setPort p x).utLine j = s.utLine j := rfl
@[simp] theorem State.setPort_port (j : PortId) : (s.setPort p x).port j = if p = j then x else s.port j := look_put _ _ _ _
@[simp] theorem State.setPort_stamp : (s.setPort p x).stamp = s.stamp := rfl
@[simp] theorem State.setPort_inService : (s.setPort p x).inService = s.inService := rfl
@[simp] theorem State.setPort_inForce : (s.setPort p x).inForce = s.inForce := rfl
@[simp] theorem State.setPort_chanRec (j : ChanId) : (s.setPort p x).chanRec j = s.chanRec j := rfl
@[simp] theorem State.setPort_zoneRec (j : ZoneId) : (s.setPort p x).zoneRec j = s.zoneRec j := rfl
@[simp] theorem State.setPort_breakerRec (j : BreakerId) : (s.setPort p x).breakerRec j = s.breakerRec j := rfl
@[simp] theorem State.setPort_portRec (j : PortId) : (s.setPort p x).portRec j = s.portRec j := rfl
@[simp] theorem State.setPort_island (j : ZoneId) : (s.setPort p x).island j = s.island j := rfl
@[simp] theorem State.setPort_watchers (j : ZoneId) : (s.setPort p x).watchers j = s.watchers j := rfl
@[simp] theorem State.setPort_locked (j : BreakerId) : (s.setPort p x).locked j = s.locked j := rfl
@[simp] theorem State.setPort_anyBright : (s.setPort p x).anyBright = s.anyBright := rfl
@[simp] theorem State.setPort_boundary (j : Marks 12) : (s.setPort p x).boundary j = s.boundary j := rfl
@[simp] theorem State.setPort_isOpen (j : BreakerId) : (s.setPort p x).isOpen j = s.isOpen j := rfl
@[simp] theorem State.setPort_tripSet (j : Marks 12) : (s.setPort p x).tripSet j = s.tripSet j := rfl
@[simp] theorem State.setPort_currentCondition (j : ZoneId) : (s.setPort p x).currentCondition j = s.currentCondition j := rfl
@[simp] theorem State.setPort_hasOpened (j : BreakerId) : (s.setPort p x).hasOpened j = s.hasOpened j := rfl
@[simp] theorem State.setPort_result (j : ChanId) : (s.setPort p x).result j = s.result j := rfl
@[simp] theorem State.setPort_after (j : Nat) : (s.setPort p x).after j = s.after j := rfl
@[simp] theorem State.setPort_setPort (y) : (s.setPort p x).setPort p y = s.setPort p y := by simp [State.setPort]
@[simp] theorem State.setPort_self : s.setPort p (s.port p) = s := by simp [State.setPort, State.port]

end

/-! ### setBatch -/

section
variable (s : State) (x : Batch)

@[simp] theorem State.setBatch_pending : (s.setBatch x).pending = s.pending := rfl
@[simp] theorem State.setBatch_powered : (s.setBatch x).powered = s.powered := rfl
@[simp] theorem State.setBatch_mode : (s.setBatch x).mode = s.mode := rfl
@[simp] theorem State.setBatch_now : (s.setBatch x).now = s.now := rfl
@[simp] theorem State.setBatch_ties : (s.setBatch x).ties = s.ties := rfl
@[simp] theorem State.setBatch_channels : (s.setBatch x).channels = s.channels := rfl
@[simp] theorem State.setBatch_inputs : (s.setBatch x).inputs = s.inputs := rfl
@[simp] theorem State.setBatch_zones : (s.setBatch x).zones = s.zones := rfl
@[simp] theorem State.setBatch_orders : (s.setBatch x).orders = s.orders := rfl
@[simp] theorem State.setBatch_trips : (s.setBatch x).trips = s.trips := rfl
@[simp] theorem State.setBatch_ut : (s.setBatch x).ut = s.ut := rfl
@[simp] theorem State.setBatch_lockout : (s.setBatch x).lockout = s.lockout := rfl
@[simp] theorem State.setBatch_batch : (s.setBatch x).batch = x := rfl
@[simp] theorem State.setBatch_ring : (s.setBatch x).ring = s.ring := rfl
@[simp] theorem State.setBatch_nextSeq : (s.setBatch x).nextSeq = s.nextSeq := rfl
@[simp] theorem State.setBatch_time : (s.setBatch x).time = s.time := rfl
@[simp] theorem State.setBatch_ports : (s.setBatch x).ports = s.ports := rfl
@[simp] theorem State.setBatch_sets : (s.setBatch x).sets = s.sets := rfl
@[simp] theorem State.setBatch_sup : (s.setBatch x).sup = s.sup := rfl
@[simp] theorem State.setBatch_execLimit : (s.setBatch x).execLimit = s.execLimit := rfl
@[simp] theorem State.setBatch_loadLimit : (s.setBatch x).loadLimit = s.loadLimit := rfl
@[simp] theorem State.setBatch_chan (j : ChanId) : (s.setBatch x).chan j = s.chan j := rfl
@[simp] theorem State.setBatch_input (j : BreakerId) : (s.setBatch x).input j = s.input j := rfl
@[simp] theorem State.setBatch_zone (j : ZoneId) : (s.setBatch x).zone j = s.zone j := rfl
@[simp] theorem State.setBatch_order (j : SlotId) : (s.setBatch x).order j = s.order j := rfl
@[simp] theorem State.setBatch_trip (j : BreakerId) : (s.setBatch x).trip j = s.trip j := rfl
@[simp] theorem State.setBatch_utLine (j : UtId) : (s.setBatch x).utLine j = s.utLine j := rfl
@[simp] theorem State.setBatch_port (j : PortId) : (s.setBatch x).port j = s.port j := rfl
@[simp] theorem State.setBatch_stamp : (s.setBatch x).stamp = s.stamp := rfl
@[simp] theorem State.setBatch_inService : (s.setBatch x).inService = s.inService := rfl
@[simp] theorem State.setBatch_inForce : (s.setBatch x).inForce = s.inForce := rfl
@[simp] theorem State.setBatch_chanRec (j : ChanId) : (s.setBatch x).chanRec j = s.chanRec j := rfl
@[simp] theorem State.setBatch_zoneRec (j : ZoneId) : (s.setBatch x).zoneRec j = s.zoneRec j := rfl
@[simp] theorem State.setBatch_breakerRec (j : BreakerId) : (s.setBatch x).breakerRec j = s.breakerRec j := rfl
@[simp] theorem State.setBatch_portRec (j : PortId) : (s.setBatch x).portRec j = s.portRec j := rfl
@[simp] theorem State.setBatch_island (j : ZoneId) : (s.setBatch x).island j = s.island j := rfl
@[simp] theorem State.setBatch_watchers (j : ZoneId) : (s.setBatch x).watchers j = s.watchers j := rfl
@[simp] theorem State.setBatch_locked (j : BreakerId) : (s.setBatch x).locked j = s.locked j := rfl
@[simp] theorem State.setBatch_anyBright : (s.setBatch x).anyBright = s.anyBright := rfl
@[simp] theorem State.setBatch_boundary (j : Marks 12) : (s.setBatch x).boundary j = s.boundary j := rfl
@[simp] theorem State.setBatch_isOpen (j : BreakerId) : (s.setBatch x).isOpen j = s.isOpen j := rfl
@[simp] theorem State.setBatch_tripSet (j : Marks 12) : (s.setBatch x).tripSet j = s.tripSet j := rfl
@[simp] theorem State.setBatch_currentCondition (j : ZoneId) : (s.setBatch x).currentCondition j = s.currentCondition j := rfl
@[simp] theorem State.setBatch_hasOpened (j : BreakerId) : (s.setBatch x).hasOpened j = s.hasOpened j := rfl
@[simp] theorem State.setBatch_executing : (s.setBatch x).executing = s.executing := rfl
@[simp] theorem State.setBatch_isQueued (j : PortId) : (s.setBatch x).isQueued j = s.isQueued j := rfl
@[simp] theorem State.setBatch_after (j : Nat) : (s.setBatch x).after j = s.after j := rfl
@[simp] theorem State.setBatch_unfetched (j : PortId) : (s.setBatch x).unfetched j = s.unfetched j := rfl
@[simp] theorem State.setBatch_setBatch (y) : (s.setBatch x).setBatch y = s.setBatch y := rfl
@[simp] theorem State.setBatch_self : s.setBatch s.batch = s := rfl

end

/-! ### setLockout -/

section
variable (s : State) (x : Lockout)

@[simp] theorem State.setLockout_pending : (s.setLockout x).pending = s.pending := rfl
@[simp] theorem State.setLockout_powered : (s.setLockout x).powered = s.powered := rfl
@[simp] theorem State.setLockout_mode : (s.setLockout x).mode = s.mode := rfl
@[simp] theorem State.setLockout_now : (s.setLockout x).now = s.now := rfl
@[simp] theorem State.setLockout_ties : (s.setLockout x).ties = s.ties := rfl
@[simp] theorem State.setLockout_channels : (s.setLockout x).channels = s.channels := rfl
@[simp] theorem State.setLockout_inputs : (s.setLockout x).inputs = s.inputs := rfl
@[simp] theorem State.setLockout_zones : (s.setLockout x).zones = s.zones := rfl
@[simp] theorem State.setLockout_orders : (s.setLockout x).orders = s.orders := rfl
@[simp] theorem State.setLockout_trips : (s.setLockout x).trips = s.trips := rfl
@[simp] theorem State.setLockout_ut : (s.setLockout x).ut = s.ut := rfl
@[simp] theorem State.setLockout_lockout : (s.setLockout x).lockout = x := rfl
@[simp] theorem State.setLockout_batch : (s.setLockout x).batch = s.batch := rfl
@[simp] theorem State.setLockout_ring : (s.setLockout x).ring = s.ring := rfl
@[simp] theorem State.setLockout_nextSeq : (s.setLockout x).nextSeq = s.nextSeq := rfl
@[simp] theorem State.setLockout_time : (s.setLockout x).time = s.time := rfl
@[simp] theorem State.setLockout_ports : (s.setLockout x).ports = s.ports := rfl
@[simp] theorem State.setLockout_sets : (s.setLockout x).sets = s.sets := rfl
@[simp] theorem State.setLockout_sup : (s.setLockout x).sup = s.sup := rfl
@[simp] theorem State.setLockout_execLimit : (s.setLockout x).execLimit = s.execLimit := rfl
@[simp] theorem State.setLockout_loadLimit : (s.setLockout x).loadLimit = s.loadLimit := rfl
@[simp] theorem State.setLockout_chan (j : ChanId) : (s.setLockout x).chan j = s.chan j := rfl
@[simp] theorem State.setLockout_input (j : BreakerId) : (s.setLockout x).input j = s.input j := rfl
@[simp] theorem State.setLockout_zone (j : ZoneId) : (s.setLockout x).zone j = s.zone j := rfl
@[simp] theorem State.setLockout_order (j : SlotId) : (s.setLockout x).order j = s.order j := rfl
@[simp] theorem State.setLockout_trip (j : BreakerId) : (s.setLockout x).trip j = s.trip j := rfl
@[simp] theorem State.setLockout_utLine (j : UtId) : (s.setLockout x).utLine j = s.utLine j := rfl
@[simp] theorem State.setLockout_port (j : PortId) : (s.setLockout x).port j = s.port j := rfl
@[simp] theorem State.setLockout_stamp : (s.setLockout x).stamp = s.stamp := rfl
@[simp] theorem State.setLockout_inService : (s.setLockout x).inService = s.inService := rfl
@[simp] theorem State.setLockout_inForce : (s.setLockout x).inForce = s.inForce := rfl
@[simp] theorem State.setLockout_chanRec (j : ChanId) : (s.setLockout x).chanRec j = s.chanRec j := rfl
@[simp] theorem State.setLockout_zoneRec (j : ZoneId) : (s.setLockout x).zoneRec j = s.zoneRec j := rfl
@[simp] theorem State.setLockout_breakerRec (j : BreakerId) : (s.setLockout x).breakerRec j = s.breakerRec j := rfl
@[simp] theorem State.setLockout_portRec (j : PortId) : (s.setLockout x).portRec j = s.portRec j := rfl
@[simp] theorem State.setLockout_island (j : ZoneId) : (s.setLockout x).island j = s.island j := rfl
@[simp] theorem State.setLockout_watchers (j : ZoneId) : (s.setLockout x).watchers j = s.watchers j := rfl
@[simp] theorem State.setLockout_anyBright : (s.setLockout x).anyBright = s.anyBright := rfl
@[simp] theorem State.setLockout_boundary (j : Marks 12) : (s.setLockout x).boundary j = s.boundary j := rfl
@[simp] theorem State.setLockout_isOpen (j : BreakerId) : (s.setLockout x).isOpen j = s.isOpen j := rfl
@[simp] theorem State.setLockout_tripSet (j : Marks 12) : (s.setLockout x).tripSet j = s.tripSet j := rfl
@[simp] theorem State.setLockout_currentCondition (j : ZoneId) : (s.setLockout x).currentCondition j = s.currentCondition j := rfl
@[simp] theorem State.setLockout_hasOpened (j : BreakerId) : (s.setLockout x).hasOpened j = s.hasOpened j := rfl
@[simp] theorem State.setLockout_executing : (s.setLockout x).executing = s.executing := rfl
@[simp] theorem State.setLockout_isQueued (j : PortId) : (s.setLockout x).isQueued j = s.isQueued j := rfl
@[simp] theorem State.setLockout_result (j : ChanId) : (s.setLockout x).result j = s.result j := rfl
@[simp] theorem State.setLockout_after (j : Nat) : (s.setLockout x).after j = s.after j := rfl
@[simp] theorem State.setLockout_unfetched (j : PortId) : (s.setLockout x).unfetched j = s.unfetched j := rfl
@[simp] theorem State.setLockout_setLockout (y) : (s.setLockout x).setLockout y = s.setLockout y := rfl
@[simp] theorem State.setLockout_self : s.setLockout s.lockout = s := rfl

end

/-! ### setSets -/

section
variable (s : State) (x : SettingsUnit)

@[simp] theorem State.setSets_pending : (s.setSets x).pending = s.pending := rfl
@[simp] theorem State.setSets_powered : (s.setSets x).powered = s.powered := rfl
@[simp] theorem State.setSets_mode : (s.setSets x).mode = s.mode := rfl
@[simp] theorem State.setSets_now : (s.setSets x).now = s.now := rfl
@[simp] theorem State.setSets_ties : (s.setSets x).ties = s.ties := rfl
@[simp] theorem State.setSets_channels : (s.setSets x).channels = s.channels := rfl
@[simp] theorem State.setSets_inputs : (s.setSets x).inputs = s.inputs := rfl
@[simp] theorem State.setSets_zones : (s.setSets x).zones = s.zones := rfl
@[simp] theorem State.setSets_orders : (s.setSets x).orders = s.orders := rfl
@[simp] theorem State.setSets_trips : (s.setSets x).trips = s.trips := rfl
@[simp] theorem State.setSets_ut : (s.setSets x).ut = s.ut := rfl
@[simp] theorem State.setSets_lockout : (s.setSets x).lockout = s.lockout := rfl
@[simp] theorem State.setSets_batch : (s.setSets x).batch = s.batch := rfl
@[simp] theorem State.setSets_ring : (s.setSets x).ring = s.ring := rfl
@[simp] theorem State.setSets_nextSeq : (s.setSets x).nextSeq = s.nextSeq := rfl
@[simp] theorem State.setSets_time : (s.setSets x).time = s.time := rfl
@[simp] theorem State.setSets_ports : (s.setSets x).ports = s.ports := rfl
@[simp] theorem State.setSets_sets : (s.setSets x).sets = x := rfl
@[simp] theorem State.setSets_sup : (s.setSets x).sup = s.sup := rfl
@[simp] theorem State.setSets_execLimit : (s.setSets x).execLimit = s.execLimit := rfl
@[simp] theorem State.setSets_loadLimit : (s.setSets x).loadLimit = s.loadLimit := rfl
@[simp] theorem State.setSets_chan (j : ChanId) : (s.setSets x).chan j = s.chan j := rfl
@[simp] theorem State.setSets_input (j : BreakerId) : (s.setSets x).input j = s.input j := rfl
@[simp] theorem State.setSets_zone (j : ZoneId) : (s.setSets x).zone j = s.zone j := rfl
@[simp] theorem State.setSets_order (j : SlotId) : (s.setSets x).order j = s.order j := rfl
@[simp] theorem State.setSets_trip (j : BreakerId) : (s.setSets x).trip j = s.trip j := rfl
@[simp] theorem State.setSets_utLine (j : UtId) : (s.setSets x).utLine j = s.utLine j := rfl
@[simp] theorem State.setSets_port (j : PortId) : (s.setSets x).port j = s.port j := rfl
@[simp] theorem State.setSets_stamp : (s.setSets x).stamp = s.stamp := rfl
@[simp] theorem State.setSets_inService : (s.setSets x).inService = s.inService := rfl
@[simp] theorem State.setSets_locked (j : BreakerId) : (s.setSets x).locked j = s.locked j := rfl
@[simp] theorem State.setSets_anyBright : (s.setSets x).anyBright = s.anyBright := rfl
@[simp] theorem State.setSets_isOpen (j : BreakerId) : (s.setSets x).isOpen j = s.isOpen j := rfl
@[simp] theorem State.setSets_executing : (s.setSets x).executing = s.executing := rfl
@[simp] theorem State.setSets_isQueued (j : PortId) : (s.setSets x).isQueued j = s.isQueued j := rfl
@[simp] theorem State.setSets_result (j : ChanId) : (s.setSets x).result j = s.result j := rfl
@[simp] theorem State.setSets_after (j : Nat) : (s.setSets x).after j = s.after j := rfl
@[simp] theorem State.setSets_unfetched (j : PortId) : (s.setSets x).unfetched j = s.unfetched j := rfl
@[simp] theorem State.setSets_setSets (y) : (s.setSets x).setSets y = s.setSets y := rfl
@[simp] theorem State.setSets_self : s.setSets s.sets = s := rfl

end

/-! ### setTime -/

section
variable (s : State) (x : TimeBase)

@[simp] theorem State.setTime_pending : (s.setTime x).pending = s.pending := rfl
@[simp] theorem State.setTime_powered : (s.setTime x).powered = s.powered := rfl
@[simp] theorem State.setTime_mode : (s.setTime x).mode = s.mode := rfl
@[simp] theorem State.setTime_now : (s.setTime x).now = s.now := rfl
@[simp] theorem State.setTime_ties : (s.setTime x).ties = s.ties := rfl
@[simp] theorem State.setTime_channels : (s.setTime x).channels = s.channels := rfl
@[simp] theorem State.setTime_inputs : (s.setTime x).inputs = s.inputs := rfl
@[simp] theorem State.setTime_zones : (s.setTime x).zones = s.zones := rfl
@[simp] theorem State.setTime_orders : (s.setTime x).orders = s.orders := rfl
@[simp] theorem State.setTime_trips : (s.setTime x).trips = s.trips := rfl
@[simp] theorem State.setTime_ut : (s.setTime x).ut = s.ut := rfl
@[simp] theorem State.setTime_lockout : (s.setTime x).lockout = s.lockout := rfl
@[simp] theorem State.setTime_batch : (s.setTime x).batch = s.batch := rfl
@[simp] theorem State.setTime_ring : (s.setTime x).ring = s.ring := rfl
@[simp] theorem State.setTime_nextSeq : (s.setTime x).nextSeq = s.nextSeq := rfl
@[simp] theorem State.setTime_time : (s.setTime x).time = x := rfl
@[simp] theorem State.setTime_ports : (s.setTime x).ports = s.ports := rfl
@[simp] theorem State.setTime_sets : (s.setTime x).sets = s.sets := rfl
@[simp] theorem State.setTime_sup : (s.setTime x).sup = s.sup := rfl
@[simp] theorem State.setTime_execLimit : (s.setTime x).execLimit = s.execLimit := rfl
@[simp] theorem State.setTime_loadLimit : (s.setTime x).loadLimit = s.loadLimit := rfl
@[simp] theorem State.setTime_chan (j : ChanId) : (s.setTime x).chan j = s.chan j := rfl
@[simp] theorem State.setTime_input (j : BreakerId) : (s.setTime x).input j = s.input j := rfl
@[simp] theorem State.setTime_zone (j : ZoneId) : (s.setTime x).zone j = s.zone j := rfl
@[simp] theorem State.setTime_order (j : SlotId) : (s.setTime x).order j = s.order j := rfl
@[simp] theorem State.setTime_trip (j : BreakerId) : (s.setTime x).trip j = s.trip j := rfl
@[simp] theorem State.setTime_utLine (j : UtId) : (s.setTime x).utLine j = s.utLine j := rfl
@[simp] theorem State.setTime_port (j : PortId) : (s.setTime x).port j = s.port j := rfl
@[simp] theorem State.setTime_inService : (s.setTime x).inService = s.inService := rfl
@[simp] theorem State.setTime_inForce : (s.setTime x).inForce = s.inForce := rfl
@[simp] theorem State.setTime_chanRec (j : ChanId) : (s.setTime x).chanRec j = s.chanRec j := rfl
@[simp] theorem State.setTime_zoneRec (j : ZoneId) : (s.setTime x).zoneRec j = s.zoneRec j := rfl
@[simp] theorem State.setTime_breakerRec (j : BreakerId) : (s.setTime x).breakerRec j = s.breakerRec j := rfl
@[simp] theorem State.setTime_portRec (j : PortId) : (s.setTime x).portRec j = s.portRec j := rfl
@[simp] theorem State.setTime_island (j : ZoneId) : (s.setTime x).island j = s.island j := rfl
@[simp] theorem State.setTime_watchers (j : ZoneId) : (s.setTime x).watchers j = s.watchers j := rfl
@[simp] theorem State.setTime_locked (j : BreakerId) : (s.setTime x).locked j = s.locked j := rfl
@[simp] theorem State.setTime_anyBright : (s.setTime x).anyBright = s.anyBright := rfl
@[simp] theorem State.setTime_boundary (j : Marks 12) : (s.setTime x).boundary j = s.boundary j := rfl
@[simp] theorem State.setTime_isOpen (j : BreakerId) : (s.setTime x).isOpen j = s.isOpen j := rfl
@[simp] theorem State.setTime_tripSet (j : Marks 12) : (s.setTime x).tripSet j = s.tripSet j := rfl
@[simp] theorem State.setTime_currentCondition (j : ZoneId) : (s.setTime x).currentCondition j = s.currentCondition j := rfl
@[simp] theorem State.setTime_hasOpened (j : BreakerId) : (s.setTime x).hasOpened j = s.hasOpened j := rfl
@[simp] theorem State.setTime_executing : (s.setTime x).executing = s.executing := rfl
@[simp] theorem State.setTime_isQueued (j : PortId) : (s.setTime x).isQueued j = s.isQueued j := rfl
@[simp] theorem State.setTime_result (j : ChanId) : (s.setTime x).result j = s.result j := rfl
@[simp] theorem State.setTime_after (j : Nat) : (s.setTime x).after j = s.after j := rfl
@[simp] theorem State.setTime_unfetched (j : PortId) : (s.setTime x).unfetched j = s.unfetched j := rfl
@[simp] theorem State.setTime_setTime (y) : (s.setTime x).setTime y = s.setTime y := rfl
@[simp] theorem State.setTime_self : s.setTime s.time = s := rfl

end

/-! ### setPending -/

section
variable (s : State) (q : List Instr)

@[simp] theorem State.setPending_pending : (s.setPending q).pending = q := rfl
@[simp] theorem State.setPending_powered : (s.setPending q).powered = s.powered := rfl
@[simp] theorem State.setPending_mode : (s.setPending q).mode = s.mode := rfl
@[simp] theorem State.setPending_now : (s.setPending q).now = s.now := rfl
@[simp] theorem State.setPending_ties : (s.setPending q).ties = s.ties := rfl
@[simp] theorem State.setPending_channels : (s.setPending q).channels = s.channels := rfl
@[simp] theorem State.setPending_inputs : (s.setPending q).inputs = s.inputs := rfl
@[simp] theorem State.setPending_zones : (s.setPending q).zones = s.zones := rfl
@[simp] theorem State.setPending_orders : (s.setPending q).orders = s.orders := rfl
@[simp] theorem State.setPending_trips : (s.setPending q).trips = s.trips := rfl
@[simp] theorem State.setPending_ut : (s.setPending q).ut = s.ut := rfl
@[simp] theorem State.setPending_lockout : (s.setPending q).lockout = s.lockout := rfl
@[simp] theorem State.setPending_batch : (s.setPending q).batch = s.batch := rfl
@[simp] theorem State.setPending_ring : (s.setPending q).ring = s.ring := rfl
@[simp] theorem State.setPending_nextSeq : (s.setPending q).nextSeq = s.nextSeq := rfl
@[simp] theorem State.setPending_time : (s.setPending q).time = s.time := rfl
@[simp] theorem State.setPending_ports : (s.setPending q).ports = s.ports := rfl
@[simp] theorem State.setPending_sets : (s.setPending q).sets = s.sets := rfl
@[simp] theorem State.setPending_sup : (s.setPending q).sup = s.sup := rfl
@[simp] theorem State.setPending_execLimit : (s.setPending q).execLimit = s.execLimit := rfl
@[simp] theorem State.setPending_loadLimit : (s.setPending q).loadLimit = s.loadLimit := rfl
@[simp] theorem State.setPending_chan (j : ChanId) : (s.setPending q).chan j = s.chan j := rfl
@[simp] theorem State.setPending_input (j : BreakerId) : (s.setPending q).input j = s.input j := rfl
@[simp] theorem State.setPending_zone (j : ZoneId) : (s.setPending q).zone j = s.zone j := rfl
@[simp] theorem State.setPending_order (j : SlotId) : (s.setPending q).order j = s.order j := rfl
@[simp] theorem State.setPending_trip (j : BreakerId) : (s.setPending q).trip j = s.trip j := rfl
@[simp] theorem State.setPending_utLine (j : UtId) : (s.setPending q).utLine j = s.utLine j := rfl
@[simp] theorem State.setPending_port (j : PortId) : (s.setPending q).port j = s.port j := rfl
@[simp] theorem State.setPending_stamp : (s.setPending q).stamp = s.stamp := rfl
@[simp] theorem State.setPending_inService : (s.setPending q).inService = s.inService := rfl
@[simp] theorem State.setPending_inForce : (s.setPending q).inForce = s.inForce := rfl
@[simp] theorem State.setPending_chanRec (j : ChanId) : (s.setPending q).chanRec j = s.chanRec j := rfl
@[simp] theorem State.setPending_zoneRec (j : ZoneId) : (s.setPending q).zoneRec j = s.zoneRec j := rfl
@[simp] theorem State.setPending_breakerRec (j : BreakerId) : (s.setPending q).breakerRec j = s.breakerRec j := rfl
@[simp] theorem State.setPending_portRec (j : PortId) : (s.setPending q).portRec j = s.portRec j := rfl
@[simp] theorem State.setPending_island (j : ZoneId) : (s.setPending q).island j = s.island j := rfl
@[simp] theorem State.setPending_watchers (j : ZoneId) : (s.setPending q).watchers j = s.watchers j := rfl
@[simp] theorem State.setPending_locked (j : BreakerId) : (s.setPending q).locked j = s.locked j := rfl
@[simp] theorem State.setPending_anyBright : (s.setPending q).anyBright = s.anyBright := rfl
@[simp] theorem State.setPending_boundary (j : Marks 12) : (s.setPending q).boundary j = s.boundary j := rfl
@[simp] theorem State.setPending_isOpen (j : BreakerId) : (s.setPending q).isOpen j = s.isOpen j := rfl
@[simp] theorem State.setPending_tripSet (j : Marks 12) : (s.setPending q).tripSet j = s.tripSet j := rfl
@[simp] theorem State.setPending_currentCondition (j : ZoneId) : (s.setPending q).currentCondition j = s.currentCondition j := rfl
@[simp] theorem State.setPending_hasOpened (j : BreakerId) : (s.setPending q).hasOpened j = s.hasOpened j := rfl
@[simp] theorem State.setPending_executing : (s.setPending q).executing = s.executing := rfl
@[simp] theorem State.setPending_isQueued (j : PortId) : (s.setPending q).isQueued j = s.isQueued j := rfl
@[simp] theorem State.setPending_result (j : ChanId) : (s.setPending q).result j = s.result j := rfl
@[simp] theorem State.setPending_after (j : Nat) : (s.setPending q).after j = s.after j := rfl
@[simp] theorem State.setPending_unfetched (j : PortId) : (s.setPending q).unfetched j = s.unfetched j := rfl
@[simp] theorem State.setPending_setPending (y) : (s.setPending q).setPending y = s.setPending y := rfl
@[simp] theorem State.setPending_self : s.setPending s.pending = s := rfl

end

end Sys2Proof.Machine
end

