-- ==== Sys2Proof/Laws/Ops.lean ====
section
/-! SUPPORT. What the shared operations can do, once each: sealing a record, the lockout set and its store, the quiet
timer, demand sets of one order, and frames put together. -/

namespace Sys2Proof.Safety

open Sys2Proof Sys2Proof.Machine

/-! ### Frames -/

theorem SameBut.refl (ps : List Part) (s : State) : SameBut ps s s := by
  simp [SameBut]

theorem SameBut.mono {ps qs : List Part} {s t : State} (h : SameBut ps s t) (hsub : ∀ p, p ∈ ps → p ∈ qs) :
    SameBut qs s t := by
  obtain ⟨h1, h2, h3, hm, hc, hi, hz, ho, ht, hu, hl, hb, hr, htm, hp, hs, hsu, hli⟩ := h
  exact ⟨h1, h2, h3, hm.imp_left (hsub _), hc.imp_left (hsub _), hi.imp_left (hsub _), hz.imp_left (hsub _),
    ho.imp_left (hsub _), ht.imp_left (hsub _), hu.imp_left (hsub _), hl.imp_left (hsub _), hb.imp_left (hsub _),
    hr.imp_left (hsub _), htm.imp_left (hsub _), hp.imp_left (hsub _), hs.imp_left (hsub _), hsu.imp_left (hsub _),
    hli.imp_left (hsub _)⟩

theorem SameBut.trans {ps : List Part} {s t u : State} (h : SameBut ps s t) (k : SameBut ps t u) : SameBut ps s u := by
  obtain ⟨h1, h2, h3, hm, hc, hi, hz, ho, ht, hu, hl, hb, hr, htm, hp, hs, hsu, hli⟩ := h
  obtain ⟨k1, k2, k3, km, kc, ki, kz, ko, kt, ku, kl, kb, kr, ktm, kp, ks, ksu, kli⟩ := k
  have one : ∀ {α : Type} {p : Part} {a b c : α}, (p ∈ ps ∨ b = a) → (p ∈ ps ∨ c = b) → (p ∈ ps ∨ c = a) := by
    intro α p a b c x y
    rcases x with x | x
    · exact .inl x
    · rcases y with y | y
      · exact .inl y
      · exact .inr (y.trans x)
  have two : ∀ {α β : Type} {p : Part} {a b c : α} {d e f : β},
      (p ∈ ps ∨ (b = a ∧ e = d)) → (p ∈ ps ∨ (c = b ∧ f = e)) → (p ∈ ps ∨ (c = a ∧ f = d)) := by
    intro α β p a b c d e f x y
    rcases x with x | x
    · exact .inl x
    · rcases y with y | y
      · exact .inl y
      · exact .inr ⟨y.1.trans x.1, y.2.trans x.2⟩
  exact ⟨k1.trans h1, k2.trans h2, k3.trans h3, two hm km, one hc kc, one hi ki, one hz kz, one ho ko, one ht kt,
    one hu ku, one hl kl, one hb kb, two hr kr, one htm ktm, one hp kp, one hs ks, one hsu ksu, two hli kli⟩

/-! A frame read off part by part. -/

section
variable {ps : List Part} {s t : State} (h : SameBut ps s t)
include h

theorem SameBut.pending : t.pending = s.pending := h.1
theorem SameBut.now : t.now = s.now := h.2.1
theorem SameBut.ties : t.ties = s.ties := h.2.2.1
theorem SameBut.mode (hp : Part.mode ∉ ps := by decide) : t.mode = s.mode := ((h.2.2.2.1).resolve_left hp).1
theorem SameBut.powered (hp : Part.mode ∉ ps := by decide) : t.powered = s.powered := ((h.2.2.2.1).resolve_left hp).2
theorem SameBut.channels (hp : Part.channels ∉ ps := by decide) : t.channels = s.channels := (h.2.2.2.2.1).resolve_left hp
theorem SameBut.inputs (hp : Part.inputs ∉ ps := by decide) : t.inputs = s.inputs := (h.2.2.2.2.2.1).resolve_left hp
theorem SameBut.zones (hp : Part.zones ∉ ps := by decide) : t.zones = s.zones := (h.2.2.2.2.2.2.1).resolve_left hp
theorem SameBut.orders (hp : Part.orders ∉ ps := by decide) : t.orders = s.orders := (h.2.2.2.2.2.2.2.1).resolve_left hp
theorem SameBut.trips (hp : Part.trips ∉ ps := by decide) : t.trips = s.trips := (h.2.2.2.2.2.2.2.2.1).resolve_left hp
theorem SameBut.ut (hp : Part.ut ∉ ps := by decide) : t.ut = s.ut := (h.2.2.2.2.2.2.2.2.2.1).resolve_left hp
theorem SameBut.lockout (hp : Part.lockout ∉ ps := by decide) : t.lockout = s.lockout := (h.2.2.2.2.2.2.2.2.2.2.1).resolve_left hp
theorem SameBut.batch (hp : Part.batch ∉ ps := by decide) : t.batch = s.batch := (h.2.2.2.2.2.2.2.2.2.2.2.1).resolve_left hp
theorem SameBut.ring (hp : Part.records ∉ ps := by decide) : t.ring = s.ring := ((h.2.2.2.2.2.2.2.2.2.2.2.2.1).resolve_left hp).1
theorem SameBut.nextSeq (hp : Part.records ∉ ps := by decide) : t.nextSeq = s.nextSeq := ((h.2.2.2.2.2.2.2.2.2.2.2.2.1).resolve_left hp).2
theorem SameBut.time (hp : Part.time ∉ ps := by decide) : t.time = s.time := (h.2.2.2.2.2.2.2.2.2.2.2.2.2.1).resolve_left hp
theorem SameBut.ports (hp : Part.ports ∉ ps := by decide) : t.ports = s.ports := (h.2.2.2.2.2.2.2.2.2.2.2.2.2.2.1).resolve_left hp
theorem SameBut.sets (hp : Part.sets ∉ ps := by decide) : t.sets = s.sets := (h.2.2.2.2.2.2.2.2.2.2.2.2.2.2.2.1).resolve_left hp
theorem SameBut.sup (hp : Part.sup ∉ ps := by decide) : t.sup = s.sup := (h.2.2.2.2.2.2.2.2.2.2.2.2.2.2.2.2.1).resolve_left hp
theorem SameBut.execLimit (hp : Part.limits ∉ ps := by decide) : t.execLimit = s.execLimit := ((h.2.2.2.2.2.2.2.2.2.2.2.2.2.2.2.2.2).resolve_left hp).1
theorem SameBut.loadLimit (hp : Part.limits ∉ ps := by decide) : t.loadLimit = s.loadLimit := ((h.2.2.2.2.2.2.2.2.2.2.2.2.2.2.2.2.2).resolve_left hp).2
theorem SameBut.chan (j : ChanId) (hp : Part.channels ∉ ps := by decide) : t.chan j = s.chan j := by
  simp only [State.chan, h.channels hp]
theorem SameBut.input (j : BreakerId) (hp : Part.inputs ∉ ps := by decide) : t.input j = s.input j := by
  simp only [State.input, h.inputs hp]
theorem SameBut.zone (j : ZoneId) (hp : Part.zones ∉ ps := by decide) : t.zone j = s.zone j := by
  simp only [State.zone, h.zones hp]
theorem SameBut.order (j : SlotId) (hp : Part.orders ∉ ps := by decide) : t.order j = s.order j := by
  simp only [State.order, h.orders hp]
theorem SameBut.trip (j : BreakerId) (hp : Part.trips ∉ ps := by decide) : t.trip j = s.trip j := by
  simp only [State.trip, h.trips hp]
theorem SameBut.utLine (j : UtId) (hp : Part.ut ∉ ps := by decide) : t.utLine j = s.utLine j := by
  simp only [State.utLine, h.ut hp]
theorem SameBut.port (j : PortId) (hp : Part.ports ∉ ps := by decide) : t.port j = s.port j := by
  simp only [State.port, h.ports hp]
theorem SameBut.inService (hp : Part.mode ∉ ps := by decide) : t.inService = s.inService := by
  simp only [State.inService, h.mode hp]
theorem SameBut.inForce (hp : Part.mode ∉ ps := by decide) (hq : Part.sets ∉ ps := by decide) :
    t.inForce = s.inForce := by simp only [State.inForce, h.mode hp, h.sets hq]
theorem SameBut.stamp (hp : Part.time ∉ ps := by decide) : t.stamp = s.stamp := by
  simp only [State.stamp, h.time hp]
theorem SameBut.chanRec (c : ChanId) (hp : Part.mode ∉ ps := by decide) (hq : Part.sets ∉ ps := by decide) :
    t.chanRec c = s.chanRec c := by simp only [State.chanRec, h.inForce hp hq]
theorem SameBut.zoneRec (z : ZoneId) (hp : Part.mode ∉ ps := by decide) (hq : Part.sets ∉ ps := by decide) :
    t.zoneRec z = s.zoneRec z := by simp only [State.zoneRec, h.inForce hp hq]
theorem SameBut.breakerRec (b : BreakerId) (hp : Part.mode ∉ ps := by decide) (hq : Part.sets ∉ ps := by decide) :
    t.breakerRec b = s.breakerRec b := by simp only [State.breakerRec, h.inForce hp hq]
theorem SameBut.watchers (z : ZoneId) (hp : Part.mode ∉ ps := by decide) (hq : Part.sets ∉ ps := by decide) :
    t.watchers z = s.watchers z := by simp only [State.watchers, h.chanRec _ hp hq]
theorem SameBut.anyBright (hp : Part.zones ∉ ps := by decide) : t.anyBright = s.anyBright := by
  simp only [State.anyBright, h.zone _ hp]
theorem SameBut.locked (b : BreakerId) (hp : Part.lockout ∉ ps := by decide) : t.locked b = s.locked b := by
  simp only [State.locked, h.lockout hp]

end

/-- A frame stands where the settings unit of both states is replaced. -/
theorem SameBut.setSets {ps : List Part} {s t : State} (h : SameBut ps s t) (x : SettingsUnit) :
    SameBut ps (s.setSets x) (t.setSets x) := by
  obtain ⟨h1, h2, h3, hm, hc, hi, hz, ho, ht, hu, hl, hb, hr, htm, hp, hs, hsu, hli⟩ := h
  exact ⟨h1, h2, h3, hm, hc, hi, hz, ho, ht, hu, hl, hb, hr, htm, hp, .inr rfl, hsu, hli⟩

/-- The quiet timer stands right in a state with the same batch and as bright a board. -/
theorem QuietOk.of_eq {s t : State} (h : QuietOk s) (hb : t.batch = s.batch) (hz : t.anyBright = s.anyBright) :
    QuietOk t := by
  unfold QuietOk at *; rw [hb, hz]; exact h

/-- `Sealed` speaks of the records, the time base and the ports only. -/
theorem Sealed.congr {s s' t t' : State} {b : RecordBody} (h : Sealed s t b) (hr : s'.ring = s.ring)
    (hn : s'.nextSeq = s.nextSeq) (ht : s'.time = s.time) (hp : s'.ports = s.ports) (kr : t'.ring = t.ring)
    (kn : t'.nextSeq = t.nextSeq) (kp : t'.ports = t.ports) : Sealed s' t' b := by
  unfold Sealed State.stamp State.port at *
  rw [hr, hn, ht, hp, kr, kn, kp]
  exact h

end Sys2Proof.Safety

namespace Sys2Proof.Machine

open Sys2Proof Sys2Proof.Safety

/-! ### Sealing a record (R147) -/

/-- Sealing is what `Sealed` says. -/
theorem sealed_seal (s : State) (b : RecordBody) : Sealed s (s.seal b) b := by
  cases hr : s.ring with
  | nil => simp [Sealed, State.seal, ringSize, State.stamp, State.port, hr]
  | cons r rest =>
    by_cases h : 16 ≤ s.ring.length
    · have h' := h
      simp only [hr, List.length_cons] at h'
      refine ⟨?_, ?_, ?_⟩
      · simp [State.seal, ringSize, State.dropOldest, hr, h']
      · simp [State.seal, ringSize, State.dropOldest, hr, h', State.stamp]
      · intro p
        simp [State.seal, ringSize, State.dropOldest, hr, h', State.port, look_map]
    · have h' := h
      simp only [hr, List.length_cons] at h'
      refine ⟨?_, ?_, ?_⟩ <;> simp [State.seal, ringSize, hr, h', State.stamp, State.port]

/-- Sealing changes the records and the ports' cursors only. -/
theorem seal_eq (s : State) (b : RecordBody) :
    s.seal b = { s with ring := (s.seal b).ring, nextSeq := (s.seal b).nextSeq, ports := (s.seal b).ports } := by
  simp only [State.seal, State.dropOldest]
  split <;> (try split) <;> rfl

theorem seal_same (s : State) (b : RecordBody) : SameBut [.records, .ports] s (s.seal b) := by
  rw [seal_eq]; simp [SameBut]

section
variable (s : State) (b : RecordBody)

@[simp] theorem seal_pending : (s.seal b).pending = s.pending := by rw [seal_eq]
@[simp] theorem seal_powered : (s.seal b).powered = s.powered := by rw [seal_eq]
@[simp] theorem seal_mode : (s.seal b).mode = s.mode := by rw [seal_eq]
@[simp] theorem seal_now : (s.seal b).now = s.now := by rw [seal_eq]
@[simp] theorem seal_ties : (s.seal b).ties = s.ties := by rw [seal_eq]
@[simp] theorem seal_channels : (s.seal b).channels = s.channels := by rw [seal_eq]
@[simp] theorem seal_inputs : (s.seal b).inputs = s.inputs := by rw [seal_eq]
@[simp] theorem seal_zones : (s.seal b).zones = s.zones := by rw [seal_eq]
@[simp] theorem seal_orders : (s.seal b).orders = s.orders := by rw [seal_eq]
@[simp] theorem seal_trips : (s.seal b).trips = s.trips := by rw [seal_eq]
@[simp] theorem seal_ut : (s.seal b).ut = s.ut := by rw [seal_eq]
@[simp] theorem seal_lockout : (s.seal b).lockout = s.lockout := by rw [seal_eq]
@[simp] theorem seal_batch : (s.seal b).batch = s.batch := by rw [seal_eq]
@[simp] theorem seal_time : (s.seal b).time = s.time := by rw [seal_eq]
@[simp] theorem seal_sets : (s.seal b).sets = s.sets := by rw [seal_eq]
@[simp] theorem seal_sup : (s.seal b).sup = s.sup := by rw [seal_eq]
@[simp] theorem seal_execLimit : (s.seal b).execLimit = s.execLimit := by rw [seal_eq]
@[simp] theorem seal_loadLimit : (s.seal b).loadLimit = s.loadLimit := by rw [seal_eq]
@[simp] theorem seal_chan (j : ChanId) : (s.seal b).chan j = s.chan j := by rw [seal_eq]; rfl
@[simp] theorem seal_input (j : BreakerId) : (s.seal b).input j = s.input j := by rw [seal_eq]; rfl
@[simp] theorem seal_zone (j : ZoneId) : (s.seal b).zone j = s.zone j := by rw [seal_eq]; rfl
@[simp] theorem seal_order (j : SlotId) : (s.seal b).order j = s.order j := by rw [seal_eq]; rfl
@[simp] theorem seal_trip (j : BreakerId) : (s.seal b).trip j = s.trip j := by rw [seal_eq]; rfl
@[simp] theorem seal_utLine (j : UtId) : (s.seal b).utLine j = s.utLine j := by rw [seal_eq]; rfl
@[simp] theorem seal_locked (j : BreakerId) : (s.seal b).locked j = s.locked j := by rw [seal_eq]; rfl
@[simp] theorem seal_result (j : ChanId) : (s.seal b).result j = s.result j := by rw [seal_eq]; rfl
@[simp] theorem seal_chanRec (j : ChanId) : (s.seal b).chanRec j = s.chanRec j := by rw [seal_eq]; rfl
@[simp] theorem seal_zoneRec (j : ZoneId) : (s.seal b).zoneRec j = s.zoneRec j := by rw [seal_eq]; rfl
@[simp] theorem seal_breakerRec (j : BreakerId) : (s.seal b).breakerRec j = s.breakerRec j := by rw [seal_eq]; rfl
@[simp] theorem seal_portRec (j : PortId) : (s.seal b).portRec j = s.portRec j := by rw [seal_eq]; rfl
@[simp] theorem seal_watchers (j : ZoneId) : (s.seal b).watchers j = s.watchers j := by rw [seal_eq]; rfl
@[simp] theorem seal_island (j : ZoneId) : (s.seal b).island j = s.island j := by rw [seal_eq]; rfl
@[simp] theorem seal_tripSet (j : Marks 12) : (s.seal b).tripSet j = s.tripSet j := by rw [seal_eq]; rfl
@[simp] theorem seal_boundary (j : Marks 12) : (s.seal b).boundary j = s.boundary j := by rw [seal_eq]; rfl
@[simp] theorem seal_currentCondition (j : ZoneId) : (s.seal b).currentCondition j = s.currentCondition j := by rw [seal_eq]; rfl
@[simp] theorem seal_stamp : (s.seal b).stamp = s.stamp := by rw [seal_eq]; rfl
@[simp] theorem seal_inService : (s.seal b).inService = s.inService := by rw [seal_eq]; rfl
@[simp] theorem seal_inForce : (s.seal b).inForce = s.inForce := by rw [seal_eq]; rfl
@[simp] theorem seal_anyBright : (s.seal b).anyBright = s.anyBright := by rw [seal_eq]; rfl

theorem seal_nextSeq : (s.seal b).nextSeq = (s.nextSeq + 1) % 65536 := (sealed_seal s b).1

theorem seal_ring : (s.seal b).ring = (if 16 ≤ s.ring.length then s.ring.tail else s.ring)
    ++ [{ seq := s.nextSeq, time := s.stamp, status := s.time.status, body := b }] := (sealed_seal s b).2.1

/-- Sealing moves at most a port's cursor and LOST flag (R148). -/
theorem seal_port (p : PortId) :
    (s.seal b).port p = { s.port p with cursor := ((s.seal b).port p).cursor, lost := ((s.seal b).port p).lost } := by
  have h := (sealed_seal s b).2.2 p
  rw [h]
  split
  · rfl
  · split <;> rfl

end

/-! ### The lockout set (R90, R91, R97, R98) -/

/-- A change handed to the store keeps the set, and starts an update or marks one that waits. -/
theorem lockoutChanged_eq (s : State) :
    s.lockoutChanged = s.setLockout (match s.lockout.store with
      | .idle => { s.lockout with
          store := .updating, snapshot := some s.lockout.marks, timer := some (s.now + 60000)
          word := { s.lockout.word with marker := false } }
      | .updating => { s.lockout with store := .updatingAgain }
      | .updatingAgain => s.lockout) := by
  simp only [State.lockoutChanged]
  split <;> rename_i h <;>
    simp [State.startUpdate, State.setLockout, State.after, lockoutUpdateTime, ms, h]

/-- Locking changes the lockout unit only. -/
theorem lock_eq (s : State) (b : BreakerId) : s.lock b = s.setLockout (s.lock b).lockout := by
  simp only [State.lock]
  split
  · rfl
  · rw [lockoutChanged_eq]; rfl

theorem Marks.has_add {n : Nat} (m : Marks n) (i j : Fin n) : (m.add i).has j = (m.has j || decide (i = j)) := by
  simp [Marks.has, Marks.add, Fin.ext_iff, eq_comm]

theorem Marks.has_drop {n : Nat} (m : Marks n) (i j : Fin n) : (m.drop i).has j = (m.has j && decide (i ≠ j)) := by
  simp [Marks.has, Marks.drop, Fin.ext_iff, eq_comm]

theorem Marks.has_zero {n : Nat} (j : Fin n) : (0 : Marks n).has j = false := by simp [Marks.has]

@[simp] theorem Marks.has_ofNat_zero {n : Nat} (j : Fin n) : Marks.has (0#n) j = false := Marks.has_zero j

theorem Marks.ext {n : Nat} {a b : Marks n} (h : ∀ i, a.has i = b.has i) : a = b :=
  BitVec.eq_of_getLsbD_eq fun i hi => h ⟨i, hi⟩

theorem Marks.drop_of_not_has {n : Nat} (m : Marks n) (i : Fin n) (h : m.has i = false) : m.drop i = m := by
  apply Marks.ext; intro j; rw [Marks.has_drop]
  by_cases e : i = j
  · subst e; simp [h]
  · simp [e]

theorem Marks.add_of_has {n : Nat} (m : Marks n) (i : Fin n) (h : m.has i = true) : m.add i = m := by
  apply Marks.ext; intro j; rw [Marks.has_add]; by_cases e : i = j
  · subst e; simp [h]
  · simp [e]

theorem Marks.mem_members {n : Nat} (m : Marks n) (i : Fin n) : i ∈ m.members ↔ m.has i = true := by
  simp [Marks.members, ids, List.mem_finRange]

@[simp] theorem Marks.members_zero {n : Nat} : Marks.members (0#n) = [] := by
  unfold Marks.members; rw [List.filter_eq_nil_iff]; intro i _; simp [Marks.has]

theorem Marks.nodup_members {n : Nat} (m : Marks n) : m.members.Nodup := (List.nodup_finRange n).filter _

/-- Membership of a collected set. -/
theorem Marks.has_collect {n : Nat} (p : Fin n → Bool) (i : Fin n) : (Marks.collect p).has i = p i := by
  have h : ∀ (l : List (Fin n)) (m : Marks n),
      (l.foldl (fun m i => if p i then m.add i else m) m).has i = (m.has i || (decide (i ∈ l) && p i)) := by
    intro l
    induction l with
    | nil => intro m; simp
    | cons a l ih =>
      intro m
      rw [List.foldl_cons, ih]
      by_cases ha : a = i
      · subst ha
        cases hp : p a <;> simp [Marks.has_add]
      · have hi : i ≠ a := fun h => ha h.symm
        cases hp : p a <;> simp [Marks.has_add, ha, hi]
  rw [Marks.collect, h, Marks.has_zero]
  simp [ids, List.mem_finRange]

/-- Who is LOCKED after a lock (R91). -/
@[simp] theorem locked_lock (s : State) (b a : BreakerId) : (s.lock b).locked a = (s.locked a || decide (b = a)) := by
  simp only [State.lock]
  split
  · by_cases h : b = a
    · subst h; simp_all
    · simp [h]
  · rw [lockoutChanged_eq]
    simp only [State.locked, State.setLockout_lockout]
    split <;> simp [Marks.has_add]

section
variable (s : State) (b : BreakerId)

@[simp] theorem lock_pending : (s.lock b).pending = s.pending := by rw [lock_eq]; rfl
@[simp] theorem lock_powered : (s.lock b).powered = s.powered := by rw [lock_eq]; rfl
@[simp] theorem lock_mode : (s.lock b).mode = s.mode := by rw [lock_eq]; rfl
@[simp] theorem lock_now : (s.lock b).now = s.now := by rw [lock_eq]; rfl
@[simp] theorem lock_ties : (s.lock b).ties = s.ties := by rw [lock_eq]; rfl
@[simp] theorem lock_channels : (s.lock b).channels = s.channels := by rw [lock_eq]; rfl
@[simp] theorem lock_inputs : (s.lock b).inputs = s.inputs := by rw [lock_eq]; rfl
@[simp] theorem lock_zones : (s.lock b).zones = s.zones := by rw [lock_eq]; rfl
@[simp] theorem lock_orders : (s.lock b).orders = s.orders := by rw [lock_eq]; rfl
@[simp] theorem lock_trips : (s.lock b).trips = s.trips := by rw [lock_eq]; rfl
@[simp] theorem lock_ut : (s.lock b).ut = s.ut := by rw [lock_eq]; rfl
@[simp] theorem lock_batch : (s.lock b).batch = s.batch := by rw [lock_eq]; rfl
@[simp] theorem lock_time : (s.lock b).time = s.time := by rw [lock_eq]; rfl
@[simp] theorem lock_sets : (s.lock b).sets = s.sets := by rw [lock_eq]; rfl
@[simp] theorem lock_sup : (s.lock b).sup = s.sup := by rw [lock_eq]; rfl
@[simp] theorem lock_execLimit : (s.lock b).execLimit = s.execLimit := by rw [lock_eq]; rfl
@[simp] theorem lock_loadLimit : (s.lock b).loadLimit = s.loadLimit := by rw [lock_eq]; rfl
@[simp] theorem lock_ring : (s.lock b).ring = s.ring := by rw [lock_eq]; rfl
@[simp] theorem lock_nextSeq : (s.lock b).nextSeq = s.nextSeq := by rw [lock_eq]; rfl
@[simp] theorem lock_ports : (s.lock b).ports = s.ports := by rw [lock_eq]; rfl
@[simp] theorem lock_chan (j : ChanId) : (s.lock b).chan j = s.chan j := by rw [lock_eq]; rfl
@[simp] theorem lock_input (j : BreakerId) : (s.lock b).input j = s.input j := by rw [lock_eq]; rfl
@[simp] theorem lock_zone (j : ZoneId) : (s.lock b).zone j = s.zone j := by rw [lock_eq]; rfl
@[simp] theorem lock_order (j : SlotId) : (s.lock b).order j = s.order j := by rw [lock_eq]; rfl
@[simp] theorem lock_trip (j : BreakerId) : (s.lock b).trip j = s.trip j := by rw [lock_eq]; rfl
@[simp] theorem lock_utLine (j : UtId) : (s.lock b).utLine j = s.utLine j := by rw [lock_eq]; rfl
@[simp] theorem lock_result (j : ChanId) : (s.lock b).result j = s.result j := by rw [lock_eq]; rfl
@[simp] theorem lock_chanRec (j : ChanId) : (s.lock b).chanRec j = s.chanRec j := by rw [lock_eq]; rfl
@[simp] theorem lock_zoneRec (j : ZoneId) : (s.lock b).zoneRec j = s.zoneRec j := by rw [lock_eq]; rfl
@[simp] theorem lock_breakerRec (j : BreakerId) : (s.lock b).breakerRec j = s.breakerRec j := by rw [lock_eq]; rfl
@[simp] theorem lock_portRec (j : PortId) : (s.lock b).portRec j = s.portRec j := by rw [lock_eq]; rfl
@[simp] theorem lock_watchers (j : ZoneId) : (s.lock b).watchers j = s.watchers j := by rw [lock_eq]; rfl
@[simp] theorem lock_island (j : ZoneId) : (s.lock b).island j = s.island j := by rw [lock_eq]; rfl
@[simp] theorem lock_tripSet (j : Marks 12) : (s.lock b).tripSet j = s.tripSet j := by rw [lock_eq]; rfl
@[simp] theorem lock_boundary (j : Marks 12) : (s.lock b).boundary j = s.boundary j := by rw [lock_eq]; rfl
@[simp] theorem lock_currentCondition (j : ZoneId) : (s.lock b).currentCondition j = s.currentCondition j := by rw [lock_eq]; rfl
@[simp] theorem lock_stamp : (s.lock b).stamp = s.stamp := by rw [lock_eq]; rfl
@[simp] theorem lock_inService : (s.lock b).inService = s.inService := by rw [lock_eq]; rfl
@[simp] theorem lock_inForce : (s.lock b).inForce = s.inForce := by rw [lock_eq]; rfl
@[simp] theorem lock_anyBright : (s.lock b).anyBright = s.anyBright := by rw [lock_eq]; rfl
@[simp] theorem lock_port (j : PortId) : (s.lock b).port j = s.port j := by rw [lock_eq]; rfl

end

/-! ### The quiet timer (R134) -/

/-- Settling changes the batch record only. -/
theorem settleQuiet_eq (s : State) : s.settleQuiet = s.setBatch { s.batch with quietTimer := s.settleQuiet.batch.quietTimer } := by
  simp only [State.settleQuiet]
  split
  · split
    · rfl
    · split <;> rfl
  · rfl

section
variable (s : State)

@[simp] theorem settleQuiet_pending : (s.settleQuiet).pending = s.pending := by rw [settleQuiet_eq]; rfl
@[simp] theorem settleQuiet_powered : (s.settleQuiet).powered = s.powered := by rw [settleQuiet_eq]; rfl
@[simp] theorem settleQuiet_mode : (s.settleQuiet).mode = s.mode := by rw [settleQuiet_eq]; rfl
@[simp] theorem settleQuiet_now : (s.settleQuiet).now = s.now := by rw [settleQuiet_eq]; rfl
@[simp] theorem settleQuiet_ties : (s.settleQuiet).ties = s.ties := by rw [settleQuiet_eq]; rfl
@[simp] theorem settleQuiet_channels : (s.settleQuiet).channels = s.channels := by rw [settleQuiet_eq]; rfl
@[simp] theorem settleQuiet_inputs : (s.settleQuiet).inputs = s.inputs := by rw [settleQuiet_eq]; rfl
@[simp] theorem settleQuiet_zones : (s.settleQuiet).zones = s.zones := by rw [settleQuiet_eq]; rfl
@[simp] theorem settleQuiet_orders : (s.settleQuiet).orders = s.orders := by rw [settleQuiet_eq]; rfl
@[simp] theorem settleQuiet_trips : (s.settleQuiet).trips = s.trips := by rw [settleQuiet_eq]; rfl
@[simp] theorem settleQuiet_ut : (s.settleQuiet).ut = s.ut := by rw [settleQuiet_eq]; rfl
@[simp] theorem settleQuiet_lockout : (s.settleQuiet).lockout = s.lockout := by rw [settleQuiet_eq]; rfl
@[simp] theorem settleQuiet_time : (s.settleQuiet).time = s.time := by rw [settleQuiet_eq]; rfl
@[simp] theorem settleQuiet_sets : (s.settleQuiet).sets = s.sets := by rw [settleQuiet_eq]; rfl
@[simp] theorem settleQuiet_sup : (s.settleQuiet).sup = s.sup := by rw [settleQuiet_eq]; rfl
@[simp] theorem settleQuiet_execLimit : (s.settleQuiet).execLimit = s.execLimit := by rw [settleQuiet_eq]; rfl
@[simp] theorem settleQuiet_loadLimit : (s.settleQuiet).loadLimit = s.loadLimit := by rw [settleQuiet_eq]; rfl
@[simp] theorem settleQuiet_ring : (s.settleQuiet).ring = s.ring := by rw [settleQuiet_eq]; rfl
@[simp] theorem settleQuiet_nextSeq : (s.settleQuiet).nextSeq = s.nextSeq := by rw [settleQuiet_eq]; rfl
@[simp] theorem settleQuiet_ports : (s.settleQuiet).ports = s.ports := by rw [settleQuiet_eq]; rfl
@[simp] theorem settleQuiet_chan (j : ChanId) : (s.settleQuiet).chan j = s.chan j := by rw [settleQuiet_eq]; rfl
@[simp] theorem settleQuiet_input (j : BreakerId) : (s.settleQuiet).input j = s.input j := by rw [settleQuiet_eq]; rfl
@[simp] theorem settleQuiet_zone (j : ZoneId) : (s.settleQuiet).zone j = s.zone j := by rw [settleQuiet_eq]; rfl
@[simp] theorem settleQuiet_order (j : SlotId) : (s.settleQuiet).order j = s.order j := by rw [settleQuiet_eq]; rfl
@[simp] theorem settleQuiet_trip (j : BreakerId) : (s.settleQuiet).trip j = s.trip j := by rw [settleQuiet_eq]; rfl
@[simp] theorem settleQuiet_utLine (j : UtId) : (s.settleQuiet).utLine j = s.utLine j := by rw [settleQuiet_eq]; rfl
@[simp] theorem settleQuiet_locked (j : BreakerId) : (s.settleQuiet).locked j = s.locked j := by rw [settleQuiet_eq]; rfl
@[simp] theorem settleQuiet_chanRec (j : ChanId) : (s.settleQuiet).chanRec j = s.chanRec j := by rw [settleQuiet_eq]; rfl
@[simp] theorem settleQuiet_zoneRec (j : ZoneId) : (s.settleQuiet).zoneRec j = s.zoneRec j := by rw [settleQuiet_eq]; rfl
@[simp] theorem settleQuiet_breakerRec (j : BreakerId) : (s.settleQuiet).breakerRec j = s.breakerRec j := by rw [settleQuiet_eq]; rfl
@[simp] theorem settleQuiet_portRec (j : PortId) : (s.settleQuiet).portRec j = s.portRec j := by rw [settleQuiet_eq]; rfl
@[simp] theorem settleQuiet_watchers (j : ZoneId) : (s.settleQuiet).watchers j = s.watchers j := by rw [settleQuiet_eq]; rfl
@[simp] theorem settleQuiet_island (j : ZoneId) : (s.settleQuiet).island j = s.island j := by rw [settleQuiet_eq]; rfl
@[simp] theorem settleQuiet_tripSet (j : Marks 12) : (s.settleQuiet).tripSet j = s.tripSet j := by rw [settleQuiet_eq]; rfl
@[simp] theorem settleQuiet_boundary (j : Marks 12) : (s.settleQuiet).boundary j = s.boundary j := by rw [settleQuiet_eq]; rfl
@[simp] theorem settleQuiet_currentCondition (j : ZoneId) : (s.settleQuiet).currentCondition j = s.currentCondition j := by rw [settleQuiet_eq]; rfl
@[simp] theorem settleQuiet_stamp : (s.settleQuiet).stamp = s.stamp := by rw [settleQuiet_eq]; rfl
@[simp] theorem settleQuiet_inService : (s.settleQuiet).inService = s.inService := by rw [settleQuiet_eq]; rfl
@[simp] theorem settleQuiet_inForce : (s.settleQuiet).inForce = s.inForce := by rw [settleQuiet_eq]; rfl
@[simp] theorem settleQuiet_anyBright : (s.settleQuiet).anyBright = s.anyBright := by rw [settleQuiet_eq]; rfl
@[simp] theorem settleQuiet_port (j : PortId) : s.settleQuiet.port j = s.port j := by rw [settleQuiet_eq]; rfl

end

/-- With no batch suspended by light, an event leaves the quiet timer alone. -/
theorem settleQuiet_of_not (s : State) (h : ¬ (s.batch.state = .suspended ∧ s.batch.cause = some .light)) :
    s.settleQuiet = s := by simp [State.settleQuiet, h]

theorem settleQuiet_batch (s : State) :
    s.settleQuiet.batch = { s.batch with quietTimer := s.settleQuiet.batch.quietTimer } := by
  conv_lhs => rw [settleQuiet_eq]
  rfl

theorem setBatch_self (s : State) (b : Batch) (h : b = s.batch) : s.setBatch b = s := by subst h; rfl

/-- Where the quiet timer stands right, nothing is to settle. -/
theorem settleQuiet_of_quietOk (s : State) (h : QuietOk s) : s.settleQuiet = s := by
  simp only [State.settleQuiet]
  split
  · rename_i hc
    obtain ⟨h1, h2⟩ := hc
    unfold QuietOk at h
    split
    · rename_i hb
      have hq : s.batch.quietTimer = none := by
        cases hq : s.batch.quietTimer with
        | none => rfl
        | some e => simp [hq, hb] at h
      apply setBatch_self
      cases hs : s.batch
      simp_all
    · rename_i hb
      have : s.batch.quietTimer.isSome = true := h.mpr ⟨h1, h2, by simpa using hb⟩
      simp [Option.isNone_iff_eq_none, Option.isSome_iff_ne_none.mp this]
  · rfl

/-- After settling, the quiet timer stands right, if it was stopped wherever the batch is not suspended by light. -/
theorem quietOk_settleQuiet (s : State)
    (h : ¬ (s.batch.state = .suspended ∧ s.batch.cause = some .light) → s.batch.quietTimer = none) :
    QuietOk s.settleQuiet := by
  unfold QuietOk State.settleQuiet
  split
  · rename_i hc
    split
    · rename_i hb
      have : (s.setBatch { s.batch with quietTimer := none }).anyBright = s.anyBright := rfl
      simp [this, hb]
    · rename_i hb
      have hb' : s.anyBright = false := by simpa using hb
      split
      · have : ∀ x, (s.setBatch x).anyBright = s.anyBright := fun _ => rfl
        simp [this, hb', hc]
      · rename_i hq
        have hq' : s.batch.quietTimer.isSome = true := by
          cases hx : s.batch.quietTimer <;> simp_all
        simp [hq', hc, hb']
  · rename_i hc
    simp only [h hc]
    constructor
    · intro x; simp at x
    · rintro ⟨a, b, -⟩; exact absurd ⟨a, b⟩ hc

/-- A board is bright where a zone is LIT or ARC. -/
theorem anyBright_iff (s : State) : s.anyBright = true ↔ ∃ z, (s.zone z).prot = .lit ∨ (s.zone z).prot = .arc := by
  simp [State.anyBright, ids, List.mem_finRange, Zone.isBright]

/-- Settling after an event that kept the batch: the batch is as `quietSettled` says (R134). -/
theorem settleQuiet_settled {s t : State} (hb : t.batch = s.batch) (hn : t.now = s.now) :
    t.settleQuiet = t.setBatch (quietSettled s t) := by
  unfold State.settleQuiet quietSettled
  simp only [← anyBright_iff, hb]
  have hs : ∀ b : Batch, b = s.batch → t.setBatch b = t := fun b h => setBatch_self t b (h.trans hb.symm)
  split
  · split
    · rfl
    · cases hq : s.batch.quietTimer with
      | none => simp [State.after, quietTime, ms, hn]
      | some e => simp only [Option.isNone_some, Bool.false_eq_true, if_false, Option.getD_some]; rw [hs]; rw [← hq]
  · rw [hs]; rfl

/-- The batch after such an event. -/
theorem settleQuiet_batch_settled {s t : State} (hb : t.batch = s.batch) (hn : t.now = s.now) :
    t.settleQuiet.batch = quietSettled s t.settleQuiet := by
  rw [settleQuiet_settled hb hn]; rfl

/-- What `quietSettled` reads of the state after the event: its zones. -/
theorem quietSettled_congr {s u t v : State} (hb : u.batch = s.batch) (hn : u.now = s.now)
    (hz : ∀ z, (v.zone z).prot = (t.zone z).prot) : quietSettled u v = quietSettled s t := by
  simp only [quietSettled, hb, hn, hz]

/-! ### Folds -/

/-- A fold keeps what each of its steps keeps. -/
theorem foldl_keeps {α : Type} {P : State → Prop} {f : State → α → State} (l : List α)
    (h : ∀ s a, a ∈ l → P s → P (f s a)) : ∀ s, P s → P (l.foldl f s) := by
  induction l with
  | nil => intro s hs; exact hs
  | cons a l ih =>
    intro s hs
    exact ih (fun s b hb => h s b (List.mem_cons_of_mem _ hb)) _ (h s a (List.mem_cons_self ..) hs)

/-- A fold of steps that change nothing at the state they start from. -/
theorem foldl_id {α : Type} {f : State → α → State} (l : List α) (s : State) (h : ∀ a, a ∈ l → f s a = s) :
    l.foldl f s = s := by
  induction l with
  | nil => rfl
  | cons a l ih =>
    rw [List.foldl_cons, h a (List.mem_cons_self ..)]
    exact ih (fun b hb => h b (List.mem_cons_of_mem _ hb))

end Sys2Proof.Machine
end

