-- ==== Sys2Proof/Laws/Frames.lean ====
section
/-! SUPPORT. What the processing of zones, orders, breakers and tests leaves alone, said once for every property that the
updates of channels, zones, orders, trip records, UT lines, batch, lockout unit and records cannot break. -/

namespace Sys2Proof.Machine

open Sys2Proof Sys2Proof.Safety

/-- A property that no update of the parts named in its fields breaks. -/
structure Stable (P : State → Prop) : Prop where
  setChan : ∀ s c x, P s → P (s.setChan c x)
  setZone : ∀ s z x, P s → P (s.setZone z x)
  setOrder : ∀ s o x, P s → P (s.setOrder o x)
  setTrip : ∀ s b x, P s → P (s.setTrip b x)
  setUt : ∀ s u x, P s → P (s.setUt u x)
  setBatch : ∀ s x, P s → P (s.setBatch x)
  setLockout : ∀ s x, P s → P (s.setLockout x)
  sealed : ∀ s b, P s → P (s.seal b)

/-- Differing from `s` in these parts only is such a property. -/
theorem stable_sameBut (s : State) :
    Stable (SameBut [.channels, .zones, .orders, .trips, .ut, .lockout, .batch, .records, .ports] s) where
  setChan t c x h := h.trans (by simp [SameBut])
  setZone t c x h := h.trans (by simp [SameBut])
  setOrder t c x h := h.trans (by simp [SameBut])
  setTrip t c x h := h.trans (by simp [SameBut])
  setUt t c x h := h.trans (by simp [SameBut])
  setBatch t x h := h.trans (by simp [SameBut])
  setLockout t x h := h.trans (by simp [SameBut])
  sealed t b h := h.trans ((seal_same t b).mono (by simp))

namespace Stable

variable {P : State → Prop} (h : Stable P)
include h

theorem lock {s : State} (b : BreakerId) (hs : P s) : P (s.lock b) := by
  rw [lock_eq]; exact h.setLockout _ _ hs

theorem settleQuiet {s : State} (hs : P s) : P s.settleQuiet := by
  rw [settleQuiet_eq]; exact h.setBatch _ _ hs

theorem modifyOrder {s : State} (o : SlotId) (f : Order → Order) (hs : P s) : P (s.modifyOrder o f) := by
  unfold State.modifyOrder; split
  · exact hs
  · exact h.setOrder _ _ _ hs

theorem releaseCurrent {s : State} (hs : P s) : P s.releaseCurrent := by
  unfold State.releaseCurrent; split
  · exact hs
  · exact h.setChan _ _ _ hs

theorem suspend {s : State} (c : SuspendCause) (hs : P s) : P (s.suspend c) :=
  h.setBatch _ _ (h.releaseCurrent hs)

theorem noteLit {s : State} (z : ZoneId) (hs : P s) : P (s.noteLit z) := by
  unfold State.noteLit; split
  · exact h.suspend _ hs
  · split
    · exact hs
    · exact h.suspend _ hs
  all_goals exact hs

theorem noteArc {s : State} (hs : P s) : P s.noteArc := by
  unfold State.noteArc; split
  all_goals first | exact h.suspend _ hs | exact hs

theorem enterDark {s : State} (z : ZoneId) (hs : P s) : P (s.enterDark z) := h.setZone _ _ _ hs

theorem enterLit {s : State} (z : ZoneId) (hs : P s) : P (s.enterLit z) := h.noteLit z (h.setZone _ _ _ hs)

theorem countClear {s : State} (z : ZoneId) (hs : P s) : P (s.countClear z) :=
  foldl_keeps _ (fun _ _ _ hs => h.setChan _ _ _ hs) _ hs

theorem enterHeld {s : State} (z : ZoneId) (hs : P s) : P (s.enterHeld z) := h.countClear z (h.setZone _ _ _ hs)

theorem enterArc {s : State} (z : ZoneId) (o : SlotId) (hs : P s) : P (s.enterArc z o) :=
  h.noteArc (h.setZone _ _ _ hs)

theorem leaveArc {s : State} (z : ZoneId) (hs : P s) : P (s.leaveArc z) := by
  unfold State.leaveArc; split
  · exact h.enterHeld z hs
  · split
    · exact h.enterDark z hs
    · exact h.enterLit z hs

theorem closeOrder {s : State} (o : SlotId) (hs : P s) : P (s.closeOrder o) := by
  unfold State.closeOrder; split
  · exact hs
  · refine h.setOrder _ _ _ (foldl_keeps _ (fun _ _ _ hs => h.leaveArc _ hs) _
      (foldl_keeps _ (fun _ _ _ hs => h.setTrip _ _ _ hs) _ (h.sealed _ _
        (foldl_keeps _ (fun _ _ _ hs => h.setUt _ _ _ hs) _ hs))))

theorem testResolved {s : State} (o : SlotId) (hs : P s) : P (s.testResolved o) := by
  unfold State.testResolved; split
  · exact hs
  · split
    · dsimp only; split
      · exact h.closeOrder o (h.setOrder _ _ _ hs)
      · exact h.setOrder _ _ _ (h.setOrder _ _ _ hs)
    · exact hs

theorem testDarkClose {s : State} (o : SlotId) (hs : P s) : P (s.testDarkClose o) := by
  unfold State.testDarkClose; split
  · exact hs
  · split
    · exact h.closeOrder o hs
    · exact hs

theorem writeOutcome {s : State} (b : BreakerId) (v : BreakerOutcome) (o : SlotId) (hs : P s) :
    P (s.writeOutcome b v o) := h.testResolved o (h.modifyOrder o _ hs)

theorem writeOutcomes {s : State} (b : BreakerId) (v : BreakerOutcome) (hs : P s) : P (s.writeOutcomes b v) :=
  foldl_keeps _ (fun _ _ _ hs => h.writeOutcome b v _ hs) _ hs

theorem clearOutcomes {s : State} (b : BreakerId) (hs : P s) : P (s.clearOutcomes b) :=
  foldl_keeps _ (fun _ _ _ hs => h.modifyOrder _ _ hs) _ hs

theorem claimUt {s : State} (o : SlotId) (u : UtId) (hs : P s) : P (s.claimUt o u) :=
  h.modifyOrder _ _ (h.setUt _ _ _ hs)

theorem escalate {s : State} (o : SlotId) (b : BreakerId) (hs : P s) : P (s.escalate o b).1 := by
  unfold State.escalate; split
  · exact hs
  · dsimp only; split
    · split
      · exact h.claimUt o _ hs
      · exact h.setOrder _ _ _ hs
    · split
      · exact hs
      · exact hs
      · split
        · exact h.setOrder _ _ _ hs
        · exact h.setOrder _ _ _ hs
      · split
        · exact hs
        · split
          · exact h.setOrder _ _ _ hs
          · exact h.setOrder _ _ _ hs

theorem drive {s : State} (b : BreakerId) (hs : P s) : P (s.drive b) := h.setTrip _ _ _ hs

theorem addDemand {s : State} (o : SlotId) (b : BreakerId) (hs : P s) : P (s.addDemand o b) := h.setTrip _ _ _ hs

theorem demand {s : State} (o : SlotId) (b : BreakerId) (hs : P s) : P (s.demand o b).1 := by
  unfold State.demand; dsimp only
  have h1 := h.addDemand o b hs
  split
  · exact h.clearOutcomes b (h.lock b (h.drive b h1))
  · exact h1
  · exact h.writeOutcome b _ o h1
  · exact h.escalate o b h1
  · split
    · exact h.writeOutcome b _ o h1
    · exact h.clearOutcomes b (h.drive b h1)
  · exact h.writeOutcome b _ o (h.escalate o b h1)

theorem demandAll (o : SlotId) (q : List BreakerId) : ∀ {s : State}, P s → P (s.demandAll o q).1 := by
  induction q with
  | nil => intro s hs; exact hs
  | cons b bs ih => intro s hs; exact ih (h.demand o b hs)

theorem runQueue (o : SlotId) (n : Nat) : ∀ {s : State} (q : List BreakerId), P s → P (s.runQueue o n q) := by
  induction n with
  | zero => intro s q hs; exact h.demandAll o q hs
  | succ n ih =>
    intro s q hs
    unfold State.runQueue; dsimp only
    split
    · exact h.demandAll o q hs
    · exact ih _ (h.demandAll o q hs)

theorem demandQueue {s : State} (o : SlotId) (q : List BreakerId) (hs : P s) : P (s.demandQueue o q) :=
  h.runQueue o 2 q hs

theorem createOrder {s : State} (z : ZoneId) (q : List BreakerId) (hs : P s) : P (s.createOrder z q) := by
  unfold State.createOrder; split
  · exact hs
  · exact h.demandQueue _ _ (h.enterArc _ _ (h.setOrder _ _ _ hs))

theorem joinOrder {s : State} (z : ZoneId) (o : SlotId) (hs : P s) : P (s.joinOrder z o) := by
  unfold State.joinOrder; split
  · exact hs
  · dsimp only; split
    · exact h.enterArc _ _ (h.setOrder _ _ _ hs)
    · exact h.demandQueue _ _ (h.enterArc _ _ (h.setOrder _ _ _ hs))

theorem noSource {s : State} (z : ZoneId) (hs : P s) : P (s.noSource z) := by
  unfold State.noSource; split
  · exact hs
  · exact h.setZone _ _ _ (h.sealed _ _ hs)

theorem evaluate {s : State} (z : ZoneId) (hs : P s) : P (s.evaluate z) := by
  unfold State.evaluate; split
  · split
    · split
      · exact h.noSource z hs
      · split
        · exact h.joinOrder z _ hs
        · exact h.createOrder z _ hs
    · exact hs
  · exact hs

theorem evaluateWhere {s : State} (p : State → ZoneId → Bool) (hs : P s) : P (s.evaluateWhere p) :=
  foldl_keeps _ (fun s z _ hs => by split; exacts [h.evaluate z hs, hs]) _ hs

theorem confirmedAt {s : State} (c : ChanId) (z : ZoneId) (hs : P s) : P (s.confirmedAt c z) := by
  unfold State.confirmedAt; split
  · exact h.evaluate z (h.enterLit z hs)
  · exact hs
  · split
    · exact hs
    · exact h.modifyOrder _ _ hs
  · split
    · exact hs
    · exact h.setZone _ _ _ (h.sealed _ _ hs)

theorem confirmReport {s : State} (c : ChanId) (z : ZoneId) (hs : P s) : P (s.confirmReport c z) := by
  unfold State.confirmReport; split
  · exact hs
  · dsimp only; split
    · exact h.confirmedAt c z (h.setZone _ _ _ hs)
    · exact h.setZone _ _ _ hs

theorem darkenedAt {s : State} (z : ZoneId) (hs : P s) : P (s.darkenedAt z) := by
  unfold State.darkenedAt; split
  · exact h.enterDark z hs
  · split
    · exact hs
    · exact h.testDarkClose _ hs
  all_goals exact hs

theorem dropReport {s : State} (c : ChanId) (z : ZoneId) (hs : P s) : P (s.dropReport c z) := by
  unfold State.dropReport; split
  · dsimp only; split
    · exact h.darkenedAt z (h.setZone _ _ _ hs)
    · exact h.setZone _ _ _ hs
  · exact hs

theorem putChannel {s : State} (c : ChanId) (zs : List ZoneId) (x : Channel) (hs : P s) : P (s.putChannel c zs x) := by
  unfold State.putChannel; dsimp only; split
  · exact foldl_keeps _ (fun _ _ _ hs => h.confirmReport c _ hs) _ (h.setChan _ _ _ hs)
  · split
    · exact foldl_keeps _ (fun _ _ _ hs => h.dropReport c _ hs) _ (h.setChan _ _ _ hs)
    · exact h.setChan _ _ _ hs

theorem breakerOpened {s : State} (b : BreakerId) (hs : P s) : P (s.breakerOpened b) :=
  h.writeOutcomes b _ (h.setTrip _ _ _ hs)

theorem returnToDriving {s : State} (b : BreakerId) (hs : P s) : P (s.returnToDriving b) :=
  h.clearOutcomes b (h.setTrip _ _ _ hs)

theorem tripReport {s : State} (b : BreakerId) (hs : P s) : P (s.tripReport b) := by
  unfold State.tripReport; split
  · split; exacts [h.breakerOpened b hs, hs]
  · split; exacts [h.breakerOpened b hs, hs]
  · split; exacts [hs, h.returnToDriving b hs]
  all_goals exact hs

theorem demandMissing {s : State} (o : SlotId) (hs : P s) : P (s.demandMissing o) := by
  unfold State.demandMissing; split
  · exact hs
  · exact h.demandQueue _ _ (h.setOrder _ _ _ hs)

theorem closeOnto {s : State} (b : BreakerId) (o : SlotId) (hs : P s) : P (s.closeOnto b o) := by
  unfold State.closeOnto; split
  · exact hs
  · split
    · exact h.demandQueue _ _ (h.setOrder _ _ _ hs)
    · exact hs

theorem leftOpen {s : State} (b : BreakerId) (hs : P s) : P (s.leftOpen b) := by
  unfold State.leftOpen; dsimp only
  refine h.evaluateWhere _ ?_
  split
  · exact foldl_keeps _ (fun _ _ _ hs => h.closeOnto b _ hs) _ hs
  · exact hs

theorem currentAsserted {s : State} (b : BreakerId) (hs : P s) : P (s.currentAsserted b) := h.evaluateWhere _ hs

/-! The test engine. -/

theorem setResult {s : State} (c : ChanId) (r : TestResult) (hs : P s) : P (s.setResult c r) := h.setBatch _ _ hs

theorem beginTest {s : State} (c : ChanId) (hs : P s) : P (s.beginTest c) := h.setBatch _ _ (h.putChannel c _ _ hs)

theorem takeUpFrom (l : List ChanId) : ∀ {s : State}, P s → P (s.takeUpFrom l) := by
  induction l with
  | nil => intro s hs; exact h.setBatch _ _ hs
  | cons c cs ih =>
    intro s hs
    unfold State.takeUpFrom; split
    · split
      · exact ih (h.setResult _ _ hs)
      · exact h.beginTest c hs
    · exact ih hs

theorem takeUp {s : State} (hs : P s) : P s.takeUp := h.takeUpFrom _ hs

theorem releaseWith {s : State} (c : ChanId) (v : Verdict) (hs : P s) : P (s.releaseWith c v) := by
  unfold State.releaseWith; split
  · exact h.sealed _ _ (h.setChan _ _ _ hs)
  · exact h.setChan _ _ _ hs

theorem giveVerdict {s : State} (c : ChanId) (v : Verdict) (r : Nat) (hs : P s) : P (s.giveVerdict c v r) :=
  h.takeUp (h.setBatch _ _ (h.setResult _ _ (h.setChan _ _ _ (h.releaseWith c v hs))))

theorem channelTaken {s : State} (c : ChanId) (r : TestResult) (hs : P s) : P (s.channelTaken c r) := by
  unfold State.channelTaken; split
  · exact h.takeUp (h.setBatch _ _ (h.setResult _ _ hs))
  · exact hs

theorem resume {s : State} (hs : P s) : P s.resume := h.takeUp (h.setBatch _ _ hs)

theorem darkVerdict {s : State} (hset : ∀ s x, P s → P (s.setSets x)) (c : ChanId) (hs : P s) : P (s.darkVerdict c) := by
  unfold State.darkVerdict; dsimp only; split
  · refine h.giveVerdict c _ _ ?_
    split
    · exact hset _ _ hs
    · exact hs
  · exact h.giveVerdict c _ _ hs

theorem testSample {s : State} (hset : ∀ s x, P s → P (s.setSets x)) (c : ChanId) (v : Nat) (hs : P s) :
    P (s.testSample c v) := by
  unfold State.testSample; split
  · split
    · split
      · exact hs
      · dsimp only; split <;> exact h.setBatch _ _ hs
    · split
      · dsimp only; split
        · exact h.darkVerdict hset c (h.setBatch _ _ hs)
        · exact h.setBatch _ _ hs
      · exact h.setBatch _ _ hs
    · exact hs
  · exact hs

theorem okArrival {s : State} (hset : ∀ s x, P s → P (s.setSets x)) (c : ChanId) (v : Nat) (hs : P s) :
    P (s.okArrival c v) := by
  unfold State.okArrival; dsimp only; split
  · exact h.testSample hset c v (h.setChan _ _ _ hs)
  · exact h.putChannel c _ _ hs

theorem nonOkArrival {s : State} (c : ChanId) (hs : P s) : P (s.nonOkArrival c) := by
  unfold State.nonOkArrival; dsimp only
  have h1 := h.putChannel c (s.chanRec c).zones ((s.chan c).nonOkSample s.inForce.fast) hs
  split
  · split
    · exact h.channelTaken c _ (h.sealed _ _ h1)
    · exact h.sealed _ _ h1
  · exact h1

theorem forceQuiet {s : State} (c : ChanId) (hs : P s) : P (s.forceQuiet c) := h.putChannel c _ _ hs

theorem setHold {s : State} (z : ZoneId) (p : PortId) (e : Option Nat) (hs : P s) : P (s.setHold z p e) :=
  h.setZone _ _ _ hs

theorem acknowledgeHold {s : State} (z : ZoneId) (hs : P s) : P (s.acknowledgeHold z) := by
  unfold State.acknowledgeHold; split
  all_goals first | exact h.enterHeld z hs | exact hs

theorem placeHold {s : State} (z : ZoneId) (p : PortId) (e : Nat) (hs : P s) : P (s.placeHold z p e) := by
  unfold State.placeHold; dsimp only; split
  · exact h.setHold z p _ hs
  · exact h.acknowledgeHold z (h.setHold z p _ hs)

theorem holdsEnded {s : State} (z : ZoneId) (hs : P s) : P (s.holdsEnded z) := by
  unfold State.holdsEnded; split
  · exact foldl_keeps _ (fun _ _ _ hs => h.forceQuiet _ hs) _ (h.enterDark z hs)
  all_goals exact hs

theorem freeHold {s : State} (z : ZoneId) (p : PortId) (hs : P s) : P (s.freeHold z p) := by
  unfold State.freeHold; split
  · exact hs
  · dsimp only; split
    · exact h.setHold z p _ hs
    · exact h.settleQuiet (h.holdsEnded z (h.setHold z p _ hs))

theorem expireZone {s : State} (t : Nat) (z : ZoneId) (hs : P s) : P (s.expireZone t z) := by
  unfold State.expireZone; dsimp only; split
  · exact hs
  · have h1 := foldl_keeps ((ids 3).filter (fun p => s.holdOf z p == some t)) (P := P)
      (f := fun s p => s.expireEntry z p) (fun _ _ _ hs => h.sealed _ _ (h.setHold z _ _ hs)) _ hs
    split
    · exact h1
    · exact h.holdsEnded z h1

theorem windowEnded {s : State} (hs : P s) : P s.windowEnded := by
  unfold State.windowEnded; dsimp only; split
  · exact h.setBatch _ _ hs
  · exact h.takeUp (h.setBatch _ _ hs)

/-! Breakers, UT lines and light alarms. -/

theorem lightAlarm {s : State} (z : ZoneId) (hs : P s) : P (s.lightAlarm z) := by
  unfold State.lightAlarm; dsimp only; split
  · exact h.setZone _ _ _ hs
  · exact h.setZone _ _ _ (h.sealed _ _ (h.setZone _ _ _ hs))

theorem breakerFailed {s : State} (b : BreakerId) (hs : P s) : P (s.breakerFailed b) :=
  foldl_keeps _ (fun _ _ _ hs => h.demandQueue _ _ (h.escalate _ b hs)) _ (h.setTrip _ _ _ hs)

theorem pulseEnded {s : State} (b : BreakerId) (hs : P s) : P (s.pulseEnded b) := by
  unfold State.pulseEnded; dsimp only; split <;> exact h.setTrip _ _ _ hs

theorem breakerSpent {s : State} (b : BreakerId) (hs : P s) : P (s.breakerSpent b) :=
  h.writeOutcomes b _ (h.setTrip _ _ _ hs)

theorem utMinimumEnded {s : State} (u : UtId) (hs : P s) : P (s.utMinimumEnded u) := by
  unfold State.utMinimumEnded; dsimp only
  have h1 : P ((s.utLine u).claims.members.foldl (fun s o => s.testResolved o)
      (s.setUt u { s.utLine u with minimum := .runOut })) :=
    foldl_keeps _ (fun _ _ _ hs => h.testResolved _ hs) _ (h.setUt _ _ _ hs)
  unfold State.releaseIfFree; dsimp only; split
  · exact h.setUt _ _ _ h1
  · exact h1

theorem mapWritten {s : State} (hs : P s) : P s.mapWritten :=
  h.evaluateWhere _ (foldl_keeps _ (fun _ _ _ hs => h.demandMissing _ hs) _ hs)

theorem zoneEntersUse {s : State} (z : ZoneId) (hs : P s) : P (s.zoneEntersUse z) := by
  unfold State.zoneEntersUse; split
  · exact h.evaluate z (h.enterLit z hs)
  · exact hs

theorem restartChannel {s : State} (c : ChanId) (zs : List ZoneId) (hs : P s) : P (s.restartChannel c zs) := by
  unfold State.restartChannel; dsimp only
  have h1 := h.putChannel c zs ((s.chan c).restart (s.chanRec c).inUse s.inForce.fast) hs
  split
  · exact h.channelTaken c _ h1
  · exact h1

end Stable

end Sys2Proof.Machine
end

