-- ==== Sys2Proof/Laws/Ports.lean ====
section
/-! SUPPORT. What a grant and a completion can do (R164, R165, R166). -/

namespace Sys2Proof.Safety

open Sys2Proof Sys2Proof.Machine

/-- An effect that leaves the ports alone answers as seen from the state before it. -/
theorem Answered.of_ports {s s1 t : State} {p : PortId} {r : Request} {a : Answer} (h : Answered s1 t p r a)
    (hp : s1.ports = s.ports) : Answered s t p r a := by
  have : ∀ q, s1.port q = s.port q := fun q => by simp [State.port, hp]
  simpa only [Answered, this] using h

end Sys2Proof.Safety

namespace Sys2Proof.Machine

open Sys2Proof Sys2Proof.Safety

/-- A grant to a port, or past it, is what `PortGranted` says. -/
theorem portGranted_granted (x : Port) (w : Bool) : PortGranted x (x.granted w) := by
  unfold Port.granted PortGranted
  split
  · rename_i r h
    cases w <;> simp [h]
  all_goals simp

theorem granted_of_not_waiting (x : Port) (w : Bool) (h : x.slot.waiting = none) : x.granted w = x := by
  unfold Port.granted
  split
  · rename_i r h'; simp [h', Slot.waiting] at h
  all_goals rfl

/-- Each port after a grant. -/
theorem grantTo_port (s : State) (w q : PortId) : (s.grantTo w).port q = (s.port q).granted (q == w) := by
  have hids : ids 3 = [0, 1, 2] := by decide
  have : ∀ x : State, ({ x with execLimit := some (s.after executionTime) } : State).port q = x.port q := fun _ => rfl
  simp only [State.grantTo, hids, List.foldl_cons, List.foldl_nil, this]
  fin_cases q <;> simp

/-- A grant changes the ports and the end of the execution only. -/
theorem grantTo_same (s : State) (w : PortId) : SameBut [.ports, .limits] s (s.grantTo w) := by
  simp [State.grantTo, SameBut, ids, List.finRange_succ]

theorem grantNext_port (s : State) (q : PortId) : PortGranted (s.port q) (s.grantNext.port q) := by
  unfold State.grantNext
  split
  · exact ⟨rfl, .inl rfl⟩
  · rw [grantTo_port]; exact portGranted_granted _ _

theorem grantNext_port_of_not_waiting (s : State) (q : PortId) (h : (s.port q).slot.waiting = none) :
    s.grantNext.port q = s.port q := by
  unfold State.grantNext
  split
  · rfl
  · rw [grantTo_port, granted_of_not_waiting _ _ h]

theorem grantNext_same (s : State) : SameBut [.ports, .limits] s s.grantNext := by
  unfold State.grantNext
  split
  · simp [SameBut]
  · exact grantTo_same _ _

/-- The answer and the grant that follows it. -/
theorem answer_grantNext (s : State) (p : PortId) (r : Request) (a : Answer) :
    Answered s (s.answer p r a).grantNext p r a ∧ SameBut [.ports, .limits] s (s.answer p r a).grantNext := by
  refine ⟨⟨?_, ?_⟩, ?_⟩
  · rw [grantNext_port_of_not_waiting]
    · simp [State.answer]
    · simp [State.answer, Slot.waiting]
  · intro q hq
    have := grantNext_port (s.answer p r a) q
    rwa [State.answer, State.setPort_port, if_neg (Ne.symm hq)] at this
  · refine SameBut.trans ?_ (grantNext_same _)
    simp [State.answer, SameBut]

/-- A completion in PROTECTING and BACKSTOP: the request's checks and effect, its answer, and the next grant. -/
theorem complete_spec {s s1 : State} {p : PortId} {r : Request} {a : Answer} {row : RequestRow}
    {body : PortId → Request → State → State × Answer} (h : Serving s p r) (hr : r.row = row)
    (hb : body p r s = (s1, a)) :
    Answered s1 (s.complete row body) p r a ∧ SameBut [.ports, .limits] s1 (s.complete row body) := by
  obtain ⟨h1, h2⟩ := h
  have : s.complete row body = (s1.answer p r a).grantNext := by
    simp [State.complete, h2, hr, h1, hb]
  rw [this]
  exact answer_grantNext _ _ _ _

/-- A completion in another mode. -/
theorem complete_mode {s : State} {p : PortId} {r : Request} {row : RequestRow}
    {body : PortId → Request → State → State × Answer} (h : s.inService = false) (he : s.executing = some (p, r))
    (hr : r.row = row) :
    Answered s (s.complete row body) p r (.refuse .mode) ∧ SameBut [.ports, .limits] s (s.complete row body) := by
  have : s.complete row body = (s.answer p r (.refuse .mode)).grantNext := by
    simp [State.complete, he, hr, h]
  rw [this]
  exact answer_grantNext _ _ _ _

/-- A request that is no command of this row changes nothing. -/
theorem complete_other {s : State} {row : RequestRow} {body : PortId → Request → State → State × Answer}
    (h : ∀ p r, s.executing = some (p, r) → r.row ≠ row) : s.complete row body = s := by
  unfold State.complete
  split
  · rfl
  · rename_i p r he; simp [h p r he]

/-- The executing request is the request of an EXECUTING slot. -/
theorem executing_slot {s : State} {p : PortId} {r : Request} (h : s.executing = some (p, r)) :
    (s.port p).slot = .executing r := by
  unfold State.executing at h
  obtain ⟨q, -, hq⟩ := List.exists_of_findSome?_eq_some h
  cases hs : (s.port q).slot <;> simp [hs, Slot.running] at hq
  obtain ⟨rfl, rfl⟩ := hq
  exact hs

theorem executing_none {s : State} (h : s.executing = none) (p : PortId) : (s.port p).slot.running = none := by
  unfold State.executing at h
  rw [List.findSome?_eq_none_iff] at h
  have := h p (by simp [ids, List.mem_finRange])
  simpa using this

/-- The port whose slot is EXECUTING depends on the slots alone. -/
theorem executing_congr {s t : State} (h : ∀ q, (t.port q).slot = (s.port q).slot) : t.executing = s.executing := by
  unfold State.executing
  congr 1; funext q
  rw [h]

theorem bestPort_none (f : PortId → Nat) (l : List PortId) : bestPort f l = none ↔ l = [] := by
  cases l <;> simp [bestPort]

/-- The best port of an ascending list has the highest value, and of those with it the lowest number (R166). -/
theorem bestPort_spec (f : PortId → Nat) (l : List PortId) (hs : l.Pairwise (· < ·)) (p : PortId) (h : bestPort f l = some p) :
    p ∈ l ∧ ∀ q ∈ l, f q ≤ f p ∧ (f q = f p → p ≤ q) := by
  cases l with
  | nil => simp [bestPort] at h
  | cons x xs =>
    simp only [bestPort, Option.some.injEq] at h
    have key : ∀ (ys : List PortId) (b : PortId), (∀ y ∈ ys, b < y) → ys.Pairwise (· < ·) →
        let r := ys.foldl (fun best q => if f best < f q then q else best) b
        (r = b ∨ r ∈ ys) ∧ (f b ≤ f r ∧ (f b = f r → r ≤ b)) ∧ ∀ q ∈ ys, f q ≤ f r ∧ (f q = f r → r ≤ q) := by
      intro ys
      induction ys with
      | nil => intro b _ _; simp
      | cons y ys ih =>
        intro b hb hp
        simp only [List.foldl_cons]
        rw [List.pairwise_cons] at hp
        by_cases hc : f b < f y
        · simp only [hc, if_true]
          obtain ⟨i1, i2, i3⟩ := ih y hp.1 hp.2
          refine ⟨?_, ?_, ?_⟩
          · rcases i1 with h | h
            · right; simp [h]
            · right; simp [h]
          · refine ⟨by omega, by omega⟩
          · intro q hq
            rcases List.mem_cons.mp hq with rfl | hq
            · exact i2
            · exact i3 q hq
        · simp only [hc, if_false]
          obtain ⟨i1, i2, i3⟩ := ih b (fun z hz => hb z (by simp [hz])) hp.2
          refine ⟨?_, i2, ?_⟩
          · rcases i1 with h | h
            · left; exact h
            · right; simp [h]
          · intro q hq
            rcases List.mem_cons.mp hq with rfl | hq
            · refine ⟨by omega, ?_⟩
              intro h
              have : f b = f (List.foldl (fun best q => if f best < f q then q else best) b ys) := by omega
              exact le_trans (i2.2 this) (le_of_lt (hb q (by simp)))
            · exact i3 q hq
    rw [List.pairwise_cons] at hs
    obtain ⟨k1, k2, k3⟩ := key xs x hs.1 hs.2
    rw [h] at k1 k2 k3
    refine ⟨?_, ?_⟩
    · rcases k1 with h | h <;> simp [h]
    · intro q hq
      rcases List.mem_cons.mp hq with rfl | hq
      · exact k2
      · exact k3 q hq


end Sys2Proof.Machine
end

