-- ==== Sys2Proof/Laws/Channels.lean ====
section
/-! SUPPORT. What a sample does to a channel, one lemma for each state it finds the channel in (R12 to R21, R7, R8), and
when a channel's new state makes no report to its zones. -/

namespace Sys2Proof.Machine

open Sys2Proof Sys2Proof.Safety

/-- A channel that neither enters nor leaves CONFIRMED makes no report (R22). -/
theorem putChannel_setChan {s : State} {c : ChanId} {zs : List ZoneId} {x : Channel}
    (h : (s.chan c).isConfirmed = x.isConfirmed) : s.putChannel c zs x = s.setChan c x := by
  simp [State.putChannel, h]

/-- The threshold depends on the background alone (R10). -/
theorem threshold_congr {r : ChannelRecord} {x y : Channel} (h : x.bfp = y.bfp) : threshold r x = threshold r y := by
  simp [threshold, Channel.bInt, h]

theorem okArrival_of_not_testing {s : State} {c : ChanId} {v : Nat} (h : (s.chan c).phase ≠ .testing) :
    s.okArrival c v =
      s.putChannel c (s.chanRec c).zones ((s.chan c).okSample (s.chanRec c) s.inForce.fast s.stamp v) := by
  simp [State.okArrival, h]

variable {x : Channel} {r : ChannelRecord} {fast : Bool} {t : Stamp} {v : Nat}

theorem okSample_quiet_ambient (hp : x.phase = .quiet) (hv : v ≤ threshold r x) :
    x.okSample r fast t v = { x with
      bfp := filtered r.k v x.bfp, glare := decide (3000 ≤ filtered r.k v x.bfp / 16), count := 0, nonOkRun := 0 } := by
  cases x
  simp_all [Channel.okSample, Channel.lineFaulted, Channel.okRuns, Channel.okDetect, Channel.quietSample, threshold,
    Channel.bInt, Channel.ambient, glareOf]

theorem okSample_quiet_pickup (hp : x.phase = .quiet) (hv : threshold r x < v) (h2 : v < 4095) (hn : 2 ≤ r.n) :
    x.okSample r fast t v = { x with
      phase := .pickup, early := false, count := 1, pickupTime := some t, peak := v, nonOkRun := 0 } := by
  cases x
  have h3 : ¬ (v = 4095 ∨ r.n = 1) := by omega
  have h4 := Nat.not_le.mpr hv
  simp only [threshold, Channel.bInt] at h4
  simp_all [Channel.okSample, Channel.lineFaulted, Channel.okRuns, Channel.okDetect, Channel.quietSample, threshold,
    Channel.bInt, Channel.startEpisode]

theorem okSample_pickup_quiet (hp : x.phase = .pickup) (hv : v ≤ threshold r x) :
    x.okSample r fast t v = { x with phase := .quiet, early := false, count := 0, nonOkRun := 0 } := by
  cases x
  simp_all [Channel.okSample, Channel.lineFaulted, Channel.okRuns, Channel.okDetect, Channel.pickupSample, threshold,
    Channel.bInt, Channel.toQuiet]

theorem okSample_pickup_counts (hp : x.phase = .pickup) (hv : threshold r x < v) (h2 : v < 4095)
    (hn : x.count + 1 ≠ r.n) :
    x.okSample r fast t v = { x with count := x.count + 1, peak := max x.peak v, nonOkRun := 0 } := by
  cases x
  have h3 : ¬ v = 4095 := by omega
  have h4 := Nat.not_le.mpr hv
  simp only [threshold, Channel.bInt] at h4
  simp only at hn hp
  subst hp
  simp only [Channel.okSample, Channel.lineFaulted, Channel.okRuns, Channel.okDetect, Channel.pickupSample, threshold,
    Channel.bInt]
  simp [h4, h3, hn]

theorem okSample_pickup_confirm (hp : x.phase = .pickup) (hv : threshold r x < v) (hn : v = 4095 ∨ x.count + 1 = r.n) :
    x.okSample r fast t v = confirmedBy t v x := by
  cases x
  have h4 := Nat.not_le.mpr hv
  simp only [threshold, Channel.bInt] at h4
  simp only at hn hp
  subst hp
  simp only [Channel.okSample, Channel.lineFaulted, Channel.okRuns, Channel.okDetect, Channel.pickupSample, threshold,
    Channel.bInt, confirmedBy]
  by_cases h : v = 4095
  · simp [h]; omega
  · simp [h4, h, hn.resolve_left h]

theorem okSample_quiet_confirm (hp : x.phase = .quiet) (hv : threshold r x < v) (hn : v = 4095 ∨ r.n = 1) :
    x.okSample r fast t v = confirmedBy t v x := by
  cases x
  have h4 := Nat.not_le.mpr hv
  simp only [threshold, Channel.bInt] at h4
  simp only at hp
  subst hp
  simp [Channel.okSample, Channel.lineFaulted, Channel.okRuns, Channel.okDetect, Channel.quietSample, threshold,
    Channel.bInt, confirmedBy, h4, hn, Channel.startEpisode]

theorem okSample_warmup_confirm (hp : x.phase = .warmup) : x.okSample r fast t 4095 = confirmedBy t 4095 x := by
  cases x
  simp only at hp
  subst hp
  simp [Channel.okSample, Channel.lineFaulted, Channel.okRuns, Channel.okDetect, Channel.warmupSample, confirmedBy]

/-- A sample that drops a CONFIRMED channel (R16, R21). -/
theorem okSample_drops (hp : x.phase = .confirmed)
    (h : (x.early = false ∧ v < dropLevel (threshold r x)) ∨ (x.early = true ∧ v ≤ 3583)) :
    x.okSample r fast t v = droppedBy fast v x := by
  cases x
  simp only at hp
  subst hp
  rcases h with ⟨he, hv⟩ | ⟨he, hv⟩
  · simp_all [Channel.okSample, Channel.lineFaulted, Channel.okRuns, Channel.okDetect, Channel.confirmedSample, threshold,
      Channel.bInt, Channel.toQuiet, droppedBy]
  · have := Nat.not_lt.mpr hv
    simp_all [Channel.okSample, Channel.lineFaulted, Channel.okRuns, Channel.okDetect, Channel.earlySample, earlyDropLevel,
      Channel.freshWarmup, warmupLength, droppedBy]

theorem okSample_early_stay (hp : x.phase = .confirmed) (he : x.early = true) (hv : 3583 < v) :
    x.okSample r fast t v = { x with peak := max x.peak v, nonOkRun := 0 } := by
  cases x
  simp_all [Channel.okSample, Channel.lineFaulted, Channel.okRuns, Channel.okDetect, Channel.earlySample, earlyDropLevel]

theorem okSample_confirmed_stay (hp : x.phase = .confirmed) (he : x.early = false)
    (hv : dropLevel (threshold r x) ≤ v) :
    x.okSample r fast t v = { x with peak := max x.peak v, nonOkRun := 0 } := by
  cases x
  have h4 := Nat.not_lt.mpr hv
  simp only [threshold, Channel.bInt] at h4
  simp_all [Channel.okSample, Channel.lineFaulted, Channel.okRuns, Channel.okDetect, Channel.confirmedSample, threshold,
    Channel.bInt]

theorem okSample_warmup (hp : x.phase = .warmup) (hv : v < 4095) :
    x.okSample r fast t v =
      if x.warmCount + 1 = x.warmLength then
        { x with
          phase := .quiet, warmSum := x.warmSum + v, warmCount := x.warmCount + 1
          bfp := (x.warmSum + v) * 16 / x.warmLength
          glare := decide (3000 ≤ (x.warmSum + v) * 16 / x.warmLength / 16), count := 0, nonOkRun := 0 }
      else { x with warmSum := x.warmSum + v, warmCount := x.warmCount + 1, nonOkRun := 0 } := by
  cases x
  have h3 : ¬ v = 4095 := by omega
  simp_all [Channel.okSample, Channel.lineFaulted, Channel.okRuns, Channel.okDetect, Channel.warmupSample, glareOf]

/-- The 20,000th OK sample in FAULTED(LINE) (R8). -/
theorem okSample_recovery (hp : x.phase = .faulted) (hc : x.cause = some .line) (hr : x.okRun = 19999) :
    x.okSample r fast t v = { x with cause := none, okRun := 20000 }.freshWarmup fast := by
  cases x
  simp_all [Channel.okSample, Channel.lineFaulted, Channel.okRuns, Channel.recover, okRunLimit, Channel.freshWarmup]

/-- A counted OK sample in FAULTED(LINE) (R8). -/
theorem okSample_lineFaulted (hp : x.phase = .faulted) (hc : x.cause = some .line) (hr : x.okRun + 1 ≠ 20000) :
    x.okSample r fast t v = { x with okRun := x.okRun + 1 } := by
  cases x
  simp_all [Channel.okSample, Channel.lineFaulted, Channel.okRuns, Channel.recover, okRunLimit]

/-- A non-OK sample short of the 200th of its run (Table 1-4, R7, R8, R9). -/
theorem nonOkSample_short (h : x.nonOkRun + 1 ≠ 200 ∨ x.phase = .off ∨ (x.phase = .faulted ∧ x.cause = some .line)) :
    x.nonOkSample fast = brokenBy fast x := by
  rcases x with ⟨phase, cause, early⟩
  simp only at h
  cases phase <;> simp_all [Channel.nonOkSample, Channel.nonOkDetect, Channel.nonOkRuns, Channel.lineFaulted, brokenBy,
    nonOkRunLimit, Channel.freshWarmup, warmupLength, Channel.toQuiet]
  · cases early <;> simp_all
  · by_cases hc : cause = some FaultCause.line <;> simp_all

/-- The 200th non-OK sample of a run: the entry to FAULTED(LINE), after what Table 1-4 says (R6, R7). -/
theorem nonOkSample_limit (h1 : x.phase ≠ .off) (h2 : ¬ (x.phase = .faulted ∧ x.cause = some .line))
    (hr : x.nonOkRun = 199) :
    x.nonOkSample fast = { brokenBy fast x with
      phase := .faulted, cause := some .line, early := false, count := 0, nonOkRun := 0, okRun := 0 } := by
  rcases x with ⟨phase, cause, early⟩
  cases phase <;> simp_all [Channel.nonOkSample, Channel.nonOkDetect, Channel.nonOkRuns, Channel.lineFaulted, brokenBy,
    nonOkRunLimit, Channel.faultLine, Channel.freshWarmup, warmupLength, Channel.toQuiet]
  cases early <;> simp_all

end Sys2Proof.Machine
end

