-- ==== Sys2Proof/Laws/Orders.lean ====
section
/-! SUPPORT. Demands for IDLE breakers (Table 3-6), the evaluation of a board with one LIT zone (R55, R56), and the close of
an order (R71). -/

namespace Sys2Proof.Machine

open Sys2Proof Sys2Proof.Safety

/-! ### Outcomes cleared -/

theorem setOrder_of_eq {s : State} {o : SlotId} {y : Option Order} (h : s.order o = y) : s.setOrder o y = s := by
  rw [← h]; exact State.setOrder_self _ _

/-- Order `o'` holds no outcome of breaker `b`. -/
def NoOutcome (s : State) (o' : SlotId) (b : BreakerId) : Prop :=
  ∀ x, s.order o' = some x → ∀ e, e ∈ x.entries → e.breaker = b → e.outcome = none

theorem clearOutcome_of_none {x : Order} {b : BreakerId} (h : ∀ e, e ∈ x.entries → e.breaker = b → e.outcome = none) :
    x.clearOutcome b = x := by
  unfold Order.clearOutcome
  rw [if_neg]
  simp only [List.any_eq_true, Bool.and_eq_true, beq_iff_eq, not_exists, not_and]
  intro e he hb
  simp [h e he hb]

theorem modifyOrder_order (s : State) (o o' : SlotId) (f : Order → Order) :
    (s.modifyOrder o f).order o' = if o = o' then (s.order o').map f else s.order o' := by
  unfold State.modifyOrder
  split
  · rename_i h
    split
    · rename_i e; subst e; simp [h]
    · rfl
  · rename_i x h
    simp only [State.setOrder_order]
    split
    · rename_i e; subst e; simp [h]
    · rfl

theorem modifyOrder_same (s : State) (o : SlotId) (f : Order → Order) : SameBut [.orders] s (s.modifyOrder o f) := by
  unfold State.modifyOrder
  split <;> simp [SameBut]

theorem clearOutcomes_same (s : State) (b : BreakerId) : SameBut [.orders] s (s.clearOutcomes b) :=
  foldl_keeps (P := SameBut [.orders] s) _ (fun t o _ h => h.trans (modifyOrder_same t o _)) s (SameBut.refl _ _)

theorem clearOutcomes_order {s : State} {b : BreakerId} {o' : SlotId}
    (h : NoOutcome s o' b ∨ (s.trip b).demands.has o' = false) : (s.clearOutcomes b).order o' = s.order o' := by
  refine foldl_keeps (P := fun t => t.order o' = s.order o') _ ?_ s rfl
  intro t o ho ht
  rw [modifyOrder_order, ht]
  split
  · rename_i e; subst e
    rcases h with h | h
    · cases hx : s.order o with
      | none => rfl
      | some x => simp [clearOutcome_of_none (h x hx)]
    · rw [Marks.mem_members, h] at ho; simp at ho
  · rfl

/-- What clearing the outcome of a breaker does to an order (R60, R69). -/
theorem clearOutcome_eq (x : Order) (b : BreakerId) : x.clearOutcome b = clearedOf b x := by
  have h : x.entries.any (fun e => e.breaker == b && e.outcome.isSome) = true
      ↔ ∃ e, e ∈ x.entries ∧ e.breaker = b ∧ e.outcome ≠ none := by
    rw [List.any_eq_true]
    constructor
    · rintro ⟨e, he, hb⟩
      rw [Bool.and_eq_true, beq_iff_eq] at hb
      exact ⟨e, he, hb.1, Option.isSome_iff_ne_none.mp hb.2⟩
    · rintro ⟨e, he, hb, ho⟩
      exact ⟨e, he, by rw [Bool.and_eq_true, beq_iff_eq]; exact ⟨hb, Option.isSome_iff_ne_none.mpr ho⟩⟩
  unfold Order.clearOutcome clearedOf
  exact if_congr h rfl rfl

/-- Outcomes of a breaker cleared in every order of its demand set, once each (R63, R66). -/
theorem clearOutcomes_spec (s : State) (b : BreakerId) (o : SlotId) : (s.clearOutcomes b).order o =
    if (s.trip b).demands.has o = true then (s.order o).map (clearedOf b) else s.order o := by
  have hf : (fun x : Order => x.clearOutcome b) = clearedOf b := funext fun x => clearOutcome_eq x b
  rw [← hf]
  have key : ∀ (l : List SlotId), l.Nodup → ∀ t : State,
      (l.foldl (fun s o => s.modifyOrder o (fun x => x.clearOutcome b)) t).order o =
        if o ∈ l then (t.order o).map (fun x => x.clearOutcome b) else t.order o := by
    intro l
    induction l with
    | nil => intro _ t; simp
    | cons a l ih =>
      intro hn t
      obtain ⟨n1, n2⟩ := List.nodup_cons.mp hn
      rw [List.foldl_cons, ih n2, modifyOrder_order]
      by_cases e : a = o
      · subst e; simp [n1]
      · simp [e, Ne.symm e]
  have := key (s.trip b).demands.members (Marks.nodup_members _) s
  simp only [Marks.mem_members] at this
  exact this

/-! ### Outcomes written -/

/-- An outcome written in an order (R60, R144). -/
theorem withOutcome_eq (x : Order) (b : BreakerId) (v : BreakerOutcome) (t : Stamp) :
    x.withOutcome b v t = writtenIn t b v x := rfl

/-- An order with an entry open is not resolved (R69). -/
theorem testResolved_open {s : State} {o : SlotId} {x : Order} (hx : s.order o = some x)
    (h : ∃ e, e ∈ x.entries ∧ e.outcome = none) : s.testResolved o = s := by
  obtain ⟨e, he, ho⟩ := h
  have : s.orderResolved x = false := by
    rw [State.orderResolved, Bool.and_eq_false_iff, List.all_eq_false]
    exact .inl ⟨e, he, by simp [ho]⟩
  simp [State.testResolved, hx, this]

/-- An outcome written in an order with another entry open (R60, R69). -/
theorem writeOutcome_open {s : State} {o : SlotId} {x : Order} {b : BreakerId} {v : BreakerOutcome} (hx : s.order o = some x)
    (h : ∃ e, e ∈ x.entries ∧ e.breaker ≠ b ∧ e.outcome = none) :
    s.writeOutcome b v o = s.setOrder o (some (writtenIn s.stamp b v x)) := by
  have e1 : s.modifyOrder o (fun x => x.withOutcome b v s.stamp) = s.setOrder o (some (writtenIn s.stamp b v x)) := by
    simp [State.modifyOrder, hx, withOutcome_eq]
  unfold State.writeOutcome
  rw [e1]
  obtain ⟨e, he, hb, ho⟩ := h
  exact testResolved_open (x := writtenIn s.stamp b v x) (by simp)
    ⟨e, List.mem_map.mpr ⟨e, he, by simp [hb]⟩, ho⟩

/-! ### Demands for IDLE breakers -/

/-- A demand of order `o` for breaker `b`, IDLE, clears nothing in order `o'`: it holds no outcome of `b`, or it is not in
the demand set. -/
def Untouched (s : State) (o o' : SlotId) (b : BreakerId) : Prop :=
  NoOutcome s o' b ∨ (o' ≠ o ∧ (s.trip b).demands.has o' = false)

theorem demand_idle_spec (s : State) (o : SlotId) (b : BreakerId) (h : (s.trip b).phase = .idle) :
    (s.demand o b).2 = [] ∧ (s.demand o b).1.trip b = drivenFor s o b
      ∧ (∀ a, a ≠ b → (s.demand o b).1.trip a = s.trip a)
      ∧ (∀ a, (s.demand o b).1.locked a = (s.locked a || decide (b = a)))
      ∧ (∀ o', Untouched s o o' b → (s.demand o b).1.order o' = s.order o')
      ∧ SameBut [.trips, .orders, .lockout] s (s.demand o b).1 := by
  have hp : ((s.addDemand o b).trip b).phase = .idle := by simp [State.addDemand, h]
  have hd : s.demand o b = ((((s.addDemand o b).drive b).lock b).clearOutcomes b, []) := by
    simp [State.demand, hp]
  have hs := clearOutcomes_same (((s.addDemand o b).drive b).lock b) b
  have ht : ∀ a, ((((s.addDemand o b).drive b).lock b).clearOutcomes b).trip a
      = (((s.addDemand o b).drive b).lock b).trip a := by
    intro a; simp only [SameBut] at hs; simp at hs; simp [State.trip, hs]
  have hl : ∀ a, ((((s.addDemand o b).drive b).lock b).clearOutcomes b).locked a
      = (((s.addDemand o b).drive b).lock b).locked a := by
    intro a; simp only [SameBut] at hs; simp at hs; simp [State.locked, hs]
  rw [hd]
  refine ⟨rfl, ?_, ?_, ?_, ?_, ?_⟩
  · dsimp only
    rw [ht]
    simp [State.drive, State.addDemand, drivenFor, State.after, ms, minimumPulseTime, pulseCeilingTime]
  · intro a ha
    dsimp only
    rw [ht]; simp [State.drive, State.addDemand, Ne.symm ha]
  · intro a
    dsimp only
    rw [hl]; simp [State.drive, State.addDemand]
  · intro o' hn
    dsimp only
    rw [clearOutcomes_order]
    · simp [State.drive, State.addDemand]
    · rcases hn with hn | ⟨h1, h2⟩
      · exact .inl fun x hx => hn x (by simpa [State.drive, State.addDemand] using hx)
      · exact .inr (by simp [State.drive, State.addDemand, Marks.has_add, h2, Ne.symm h1])
  · refine SameBut.trans ?_ (hs.mono (by simp))
    simp [SameBut, State.drive, State.addDemand]

/-- The demands of a list of IDLE breakers, each once. -/
theorem demandAll_idle_spec (o : SlotId) : ∀ (l : List BreakerId) (s : State), l.Nodup →
    (∀ b, b ∈ l → (s.trip b).phase = .idle) →
    (s.demandAll o l).2 = [] ∧ (∀ b, b ∈ l → (s.demandAll o l).1.trip b = drivenFor s o b)
      ∧ (∀ a, a ∉ l → (s.demandAll o l).1.trip a = s.trip a)
      ∧ (∀ a, (s.demandAll o l).1.locked a = (s.locked a || decide (a ∈ l)))
      ∧ (∀ o', (∀ b, b ∈ l → Untouched s o o' b) → (s.demandAll o l).1.order o' = s.order o')
      ∧ SameBut [.trips, .orders, .lockout] s (s.demandAll o l).1 := by
  intro l
  induction l with
  | nil => intro s _ _; simp [State.demandAll, SameBut]
  | cons b bs ih =>
    intro s hn hi
    obtain ⟨hb, hn'⟩ := List.nodup_cons.mp hn
    obtain ⟨d1, d2, d3, d4, d5, d6⟩ := demand_idle_spec s o b (hi b (List.mem_cons_self ..))
    have hne : ∀ a, a ∈ bs → a ≠ b := fun a ha e => hb (e ▸ ha)
    obtain ⟨i1, i2, i3, i4, i5, i6⟩ := ih (s.demand o b).1 hn' (fun a ha => by
      rw [d3 a (hne a ha)]; exact hi a (List.mem_cons_of_mem _ ha))
    have e1 : (s.demandAll o (b :: bs)).1 = ((s.demand o b).1.demandAll o bs).1 := rfl
    have e2 : (s.demandAll o (b :: bs)).2 = (s.demand o b).2 ++ ((s.demand o b).1.demandAll o bs).2 := rfl
    have d6' := d6
    simp only [SameBut] at d6'
    simp at d6'
    have hdr : ∀ a, a ≠ b → drivenFor (s.demand o b).1 o a = drivenFor s o a := by
      intro a ha
      simp [drivenFor, d3 a ha, State.breakerRec, State.inForce, d6']
    refine ⟨by rw [e2, d1, i1]; rfl, ?_, ?_, ?_, ?_, ?_⟩
    · intro a ha
      rw [e1]
      rcases List.mem_cons.mp ha with rfl | ha
      · rw [i3 _ hb, d2]
      · rw [i2 a ha, hdr a (hne a ha)]
    · intro a ha
      rw [List.mem_cons, not_or] at ha
      rw [e1, i3 a ha.2, d3 a ha.1]
    · intro a
      rw [e1, i4, d4]
      by_cases h1 : b = a
      · subst h1; simp
      · have h2 : ¬ a = b := fun h => h1 h.symm
        simp [h1, h2]
    · intro o' h
      rw [e1, i5, d5 _ (h b (List.mem_cons_self ..))]
      intro a ha
      rcases h a (List.mem_cons_of_mem _ ha) with k | k
      · exact .inl fun x hx => k x (by rwa [d5 _ (h b (List.mem_cons_self ..))] at hx)
      · exact .inr (by rwa [d3 a (hne a ha)])
    · rw [e1]; exact d6.trans i6

/-- A queue whose first list appends nothing. -/
theorem demandQueue_of_nil {s : State} {o : SlotId} {l : List BreakerId} (h : (s.demandAll o l).2 = []) :
    s.demandQueue o l = (s.demandAll o l).1 := by
  simp [State.demandQueue, State.runQueue, h]

theorem boundary_nodup (s : State) (m : Marks 12) : (s.boundary m).Nodup := (List.nodup_finRange 8).filter _

theorem tripSet_nodup (s : State) (m : Marks 12) : (s.tripSet m).Nodup := (boundary_nodup s m).filter _

/-! ### Evaluation -/

theorem evaluate_of_not_lit {s : State} {z : ZoneId} (h : (s.zone z).prot ≠ .lit) : s.evaluate z = s := by
  simp [State.evaluate, h]

/-- The current condition reads the settings in force and the map's inputs only (R61). -/
theorem currentCondition_congr {s t : State} (h1 : t.inForce = s.inForce) (h2 : t.inputs = s.inputs) (z : ZoneId) :
    t.currentCondition z = s.currentCondition z := by
  simp only [State.currentCondition, State.island, State.tripSet, State.boundary, State.isOpen, State.zoneRec,
    State.breakerRec, State.input, h1, h2]

theorem island_congr {s t : State} (h : t.inForce = s.inForce) (z : ZoneId) : t.island z = s.island z := by
  simp only [State.island, h]

theorem tripSet_congr {s t : State} (h1 : t.inForce = s.inForce) (h2 : t.inputs = s.inputs) (m : Marks 12) :
    t.tripSet m = s.tripSet m := by
  simp only [State.tripSet, State.boundary, State.isOpen, State.breakerRec, State.input, h1, h2]

theorem missing_congr {s t : State} (h1 : t.inForce = s.inForce) (h2 : t.inputs = s.inputs) {x y : Order}
    (he : x.entries = y.entries) (m : Marks 12) : t.missing x m = s.missing y m := by
  simp only [State.missing, tripSet_congr h1 h2, Order.lists, he]

/-- The order that a lit zone joins is the one in the lowest slot with a zone of the island (R56). -/
theorem orderIn_spec {s : State} {m : Marks 12} {o : SlotId} {x : Order} (hx : s.order o = some x)
    (hy : ∃ y, y ∈ x.zones ∧ m.has y = true)
    (hlow : ∀ q w, q < o → s.order q = some w → ∀ y, y ∈ w.zones → m.has y = false) : s.orderIn m = some o := by
  have key : ∀ l : List SlotId, l.Pairwise (· < ·) → o ∈ l → l.find? (fun o =>
      match s.order o with
      | none => false
      | some x => x.zones.any (fun z => m.has z)) = some o := by
    intro l
    induction l with
    | nil => intro _ h; simp at h
    | cons a l ih =>
      intro hp hm
      obtain ⟨p1, p2⟩ := List.pairwise_cons.mp hp
      rcases List.mem_cons.mp hm with rfl | hm
      · rw [List.find?_cons_of_pos]
        simp only [hx, List.any_eq_true]; exact hy
      · rw [List.find?_cons_of_neg, ih p2 hm]
        cases hw : s.order a with
        | none => simp
        | some w =>
          simp only [List.any_eq_true, not_exists, not_and]
          intro y hy; rw [hlow a w (p1 _ hm) hw y hy]; simp
  exact key _ (List.pairwise_lt_finRange 12) (List.mem_finRange o)

/-- Evaluating zones of which none is LIT changes nothing. -/
theorem evaluateWhere_dark {s : State} (p : State → ZoneId → Bool) (h : ∀ z, (s.zone z).prot ≠ .lit) :
    s.evaluateWhere p = s := by
  refine foldl_id _ _ ?_
  intro z _
  split
  · exact evaluate_of_not_lit (h z)
  · rfl

/-- Evaluating zones of which one is LIT, and none after it. -/
theorem evaluateWhere_one {s : State} (p : State → ZoneId → Bool) (z : ZoneId) (hz : p s z = true)
    (h : ∀ y, y ≠ z → (s.zone y).prot ≠ .lit) (h' : ∀ y, y ≠ z → ((s.evaluate z).zone y).prot ≠ .lit) :
    s.evaluateWhere p = s.evaluate z := by
  have key : ∀ l : List ZoneId, l.Nodup →
      (∀ t, (∀ y, y ∈ l → (t.zone y).prot ≠ .lit) → l.foldl (fun s z => if p s z then s.evaluate z else s) t = t) := by
    intro l _ t ht
    refine foldl_id _ _ ?_
    intro y hy
    split
    · exact evaluate_of_not_lit (ht y hy)
    · rfl
  have hn : (ids 12).Nodup := List.nodup_finRange 12
  obtain ⟨a, b, hab⟩ := List.append_of_mem (List.mem_finRange z)
  have hn' : (a ++ z :: b).Nodup := hab ▸ hn
  have hna : ∀ y, y ∈ a → y ≠ z := by
    intro y hy e; subst e
    rw [List.nodup_append] at hn'
    exact hn'.2.2 y hy y (List.mem_cons_self ..) rfl
  have hnb : ∀ y, y ∈ b → y ≠ z := by
    intro y hy e; subst e
    rw [List.nodup_append] at hn'
    exact (List.nodup_cons.mp hn'.2.1).1 hy
  have hids : ids 12 = a ++ z :: b := hab
  unfold State.evaluateWhere
  rw [hids, List.foldl_append, List.foldl_cons]
  rw [key a (List.Nodup.of_append_left hn') s (fun y hy => h y (hna y hy)), if_pos hz]
  exact key b (List.nodup_cons.mp (List.Nodup.of_append_right hn')).2 _ (fun y hy => h' y (hnb y hy))

/-- A channel added to an order's open record (R143). -/
theorem addChannels_one (s : State) (x : Order) (c : ChanId) :
    s.addChannels x [c] = { x with channels := withChannel c (s.chan c) x.channels } := by
  simp only [State.addChannels, List.foldl_cons, List.foldl_nil, withChannel]
  congr 1
  simp only [List.any_eq_true, beq_iff_eq]

/-! ### Close (R71) -/

theorem releaseCurrent_same (s : State) : SameBut [.channels] s s.releaseCurrent := by
  unfold State.releaseCurrent; split <;> simp [SameBut]

theorem suspend_same (s : State) (c) : SameBut [.channels, .batch] s (s.suspend c) :=
  ((releaseCurrent_same s).mono (by simp)).trans (by simp [State.suspend, SameBut])

theorem noteLit_same (s : State) (z) : SameBut [.channels, .batch] s (s.noteLit z) := by
  unfold State.noteLit; split
  · exact suspend_same _ _
  · split
    · exact SameBut.refl _ _
    · exact suspend_same _ _
  all_goals exact SameBut.refl _ _

theorem enterLit_same (s : State) (z) : SameBut [.channels, .batch, .zones] s (s.enterLit z) :=
  SameBut.trans (t := s.setZone z _) (by simp [SameBut]) ((noteLit_same _ _).mono (by simp))

theorem noteLit_idle {s : State} {z : ZoneId} (h : s.batch.state = .idle) : s.noteLit z = s := by simp [State.noteLit, h]

theorem noteArc_idle {s : State} (h : s.batch.state = .idle) : s.noteArc = s := by simp [State.noteArc, h]

theorem noteArc_same (s : State) : SameBut [.channels, .batch] s s.noteArc := by
  unfold State.noteArc; split
  · exact suspend_same _ _
  · exact suspend_same _ _
  all_goals exact SameBut.refl _ _

/-- What the test engine does at an entry to ARC reads and writes no zone and no order (R131). -/
theorem noteArc_setZone (s : State) (z : ZoneId) (x : Zone) : (s.setZone z x).noteArc = s.noteArc.setZone z x := by
  have e : (s.setZone z x).releaseCurrent = s.releaseCurrent.setZone z x := by
    unfold State.releaseCurrent; rw [State.setZone_batch]; split <;> rfl
  unfold State.noteArc State.suspend
  rw [State.setZone_batch, e]; split <;> rfl

theorem noteArc_setOrder (s : State) (o : SlotId) (x : Option Order) :
    (s.setOrder o x).noteArc = s.noteArc.setOrder o x := by
  have e : (s.setOrder o x).releaseCurrent = s.releaseCurrent.setOrder o x := by
    unfold State.releaseCurrent; rw [State.setOrder_batch]; split <;> rfl
  unfold State.noteArc State.suspend
  rw [State.setOrder_batch, e]; split <;> rfl

theorem countClear_same (s : State) (z) : SameBut [.channels] s (s.countClear z) :=
  foldl_keeps (P := SameBut [.channels] s) _ (fun t c _ h => h.trans (by simp [SameBut])) s (SameBut.refl _ _)

theorem leaveArc_same (s : State) (z) : SameBut [.channels, .batch, .zones] s (s.leaveArc z) := by
  unfold State.leaveArc; split
  · exact SameBut.trans (t := s.setZone z _) (by simp [SameBut]) ((countClear_same _ _).mono (by simp))
  · split
    · simp [State.enterDark, SameBut]
    · exact SameBut.trans (t := s.setZone z _) (by simp [SameBut]) ((noteLit_same _ _).mono (by simp))

/-- A zone after its order's close (R71 step 4). -/
def leftArc (s : State) (z : ZoneId) : Zone :=
  if (s.zone z).hasHold then { (s.zone z).unlit .held with heldLightSent := false }
  else if !(s.zoneRec z).inUse || (s.zone z).confirmed == 0 then (s.zone z).unlit .dark
  else { (s.zone z).unlit .lit with litSince := some s.stamp, alarmTimer := some (s.after lightAlarmTime) }

theorem leaveArc_zone (s : State) (z y) : (s.leaveArc z).zone y = if z = y then leftArc s z else s.zone y := by
  unfold State.leaveArc leftArc; split
  · have := countClear_same (s.setZone z { (s.zone z).unlit .held with heldLightSent := false }) z
    rw [State.enterHeld, this.zone y]
    exact State.setZone_zone _ _ _ _
  · split
    · simp [State.enterDark]
    · have := noteLit_same (s.setZone z { (s.zone z).unlit .lit with
        litSince := some s.stamp, alarmTimer := some (s.after lightAlarmTime) }) z
      rw [State.enterLit, this.zone y]
      exact State.setZone_zone _ _ _ _

theorem leftArc_congr {s t : State} {z : ZoneId} (h : t.zone z = s.zone z) (h1 : t.now = s.now) (h2 : t.time = s.time)
    (h3 : t.mode = s.mode) (h4 : t.sets = s.sets) : leftArc t z = leftArc s z := by
  unfold leftArc State.zoneRec State.inForce State.stamp State.after; rw [h, h1, h2, h3, h4]

theorem leftArc_idem {s t : State} {z : ZoneId} (h : t.zone z = leftArc s z) (h1 : t.now = s.now) (h2 : t.time = s.time)
    (h3 : t.mode = s.mode) (h4 : t.sets = s.sets) : leftArc t z = leftArc s z := by
  have hr : t.zoneRec z = s.zoneRec z := by unfold State.zoneRec State.inForce; rw [h3, h4]
  have hst : t.stamp = s.stamp := by unfold State.stamp; rw [h2]
  have e1 : (t.zone z).hasHold = (s.zone z).hasHold := by rw [h]; unfold leftArc; split <;> (try split) <;> rfl
  have e2 : (t.zone z).confirmed = (s.zone z).confirmed := by rw [h]; unfold leftArc; split <;> (try split) <;> rfl
  have e3 : ∀ p, (t.zone z).unlit p = { (s.zone z).unlit p with heldLightSent := (leftArc s z).heldLightSent } := by
    intro p; rw [h]; unfold leftArc; split <;> (try split) <;> simp [Zone.unlit]
  have e4 : (s.zone z).hasHold = false → (leftArc s z).heldLightSent = (s.zone z).heldLightSent := by
    intro hh; unfold leftArc; rw [if_neg (by simp [hh])]; split <;> rfl
  conv_lhs => unfold leftArc
  conv_rhs => unfold leftArc
  rw [e1, e2, hr, hst]
  simp only [State.after, h1, e3]
  cases hh : (s.zone z).hasHold
  · rw [e4 hh]; rfl
  · rfl

/-- The zones of a list leave ARC. -/
theorem leaveArcs_spec (l : List ZoneId) : ∀ s : State,
    SameBut [.channels, .batch, .zones] s (l.foldl (fun s z => s.leaveArc z) s)
      ∧ ∀ y, (l.foldl (fun s z => s.leaveArc z) s).zone y = if y ∈ l then leftArc s y else s.zone y := by
  induction l with
  | nil => intro s; exact ⟨SameBut.refl _ _, by simp⟩
  | cons z l ih =>
    intro s
    obtain ⟨i1, i2⟩ := ih (s.leaveArc z)
    have hs := leaveArc_same s z
    refine ⟨hs.trans i1, ?_⟩
    intro y
    rw [List.foldl_cons, i2 y]
    simp only [SameBut] at hs
    simp at hs
    by_cases e : y = z
    · subst e
      simp only [List.mem_cons, true_or, if_true]
      have hz : (s.leaveArc y).zone y = leftArc s y := by rw [leaveArc_zone]; simp
      split
      · apply leftArc_idem hz <;> simp [hs]
      · exact hz
    · have hz : (s.leaveArc z).zone y = s.zone y := by rw [leaveArc_zone]; simp [Ne.symm e]
      simp only [List.mem_cons, e, false_or]
      split
      · apply leftArc_congr hz <;> simp [hs]
      · exact hz

/-- A UT line after an order's claim on it was withdrawn (R85). -/
def withdrawn (o : SlotId) (x : UtLine) : UtLine :=
  if x.claims.drop o = 0 ∧ x.minimum = .runOut then { x with claims := x.claims.drop o }.released
  else { x with claims := x.claims.drop o }

/-- The claims of an order on the lines of a list are withdrawn. -/
theorem withdrawClaims_spec (o : SlotId) (l : List UtId) (hn : l.Nodup) : ∀ s : State,
    SameBut [.ut] s (l.foldl (fun s u => s.withdrawClaim o u) s)
      ∧ ∀ u, (l.foldl (fun s u => s.withdrawClaim o u) s).utLine u =
        if u ∈ l then withdrawn o (s.utLine u) else s.utLine u := by
  induction l with
  | nil => intro s; exact ⟨SameBut.refl _ _, by simp⟩
  | cons z l ih =>
    intro s
    obtain ⟨h1, h2⟩ := List.nodup_cons.mp hn
    obtain ⟨i1, i2⟩ := ih h2 (s.withdrawClaim o z)
    have hz : ∀ u, (s.withdrawClaim o z).utLine u = if z = u then withdrawn o (s.utLine z) else s.utLine u := by
      intro u; simp [State.withdrawClaim, withdrawn]
    refine ⟨SameBut.trans (by simp [SameBut, State.withdrawClaim]) i1, ?_⟩
    intro u
    rw [List.foldl_cons, i2 u, hz u]
    by_cases e : u = z
    · subst e; simp [h1]
    · simp [e, Ne.symm e]

/-- The order is removed from the demand sets of its entries' breakers. -/
theorem dropDemands_spec (o : SlotId) (l : List Entry) : ∀ s : State,
    SameBut [.trips] s (l.foldl (fun s e => s.dropDemand o e.breaker) s)
      ∧ ∀ b, (l.foldl (fun s e => s.dropDemand o e.breaker) s).trip b =
        if l.any (fun e => e.breaker == b) then { s.trip b with demands := (s.trip b).demands.drop o }
        else s.trip b := by
  induction l with
  | nil => intro s; exact ⟨SameBut.refl _ _, by simp⟩
  | cons z l ih =>
    intro s
    obtain ⟨i1, i2⟩ := ih (s.dropDemand o z.breaker)
    refine ⟨SameBut.trans (by simp [SameBut, State.dropDemand]) i1, ?_⟩
    intro b
    rw [List.foldl_cons, i2 b]
    have hdd : ∀ m : Marks 12, (m.drop o).drop o = m.drop o := by
      intro m; apply Marks.ext; intro i; simp only [Marks.has_drop]
      cases m.has i <;> by_cases e : o = i <;> simp [e]
    by_cases e : z.breaker = b
    · subst e; simp [State.dropDemand, hdd]
    · simp [State.dropDemand, e]

/-- The close of an order: its record, and each zone, order and trip record after it. -/
theorem closeOrder_spec {s : State} {o : SlotId} {x : Order} (hx : s.order o = some x) :
    Sealed s (s.closeOrder o) (.arc (s.arcRecord o x))
      ∧ (∀ z, (s.closeOrder o).zone z = if z ∈ x.zones then leftArc s z else s.zone z)
      ∧ (∀ b, (s.closeOrder o).trip b =
          if x.lists b then { s.trip b with demands := (s.trip b).demands.drop o } else s.trip b)
      ∧ (∀ u, (s.closeOrder o).utLine u = if u ∈ x.ut.members then withdrawn o (s.utLine u) else s.utLine u)
      ∧ (s.closeOrder o).orders = put s.orders o none
      ∧ SameBut [.channels, .zones, .orders, .trips, .ut, .batch, .records, .ports] s (s.closeOrder o) := by
  obtain ⟨a1, a2⟩ := withdrawClaims_spec o x.ut.members (Marks.nodup_members _) s
  generalize h1 : x.ut.members.foldl (fun s u => s.withdrawClaim o u) s = s1 at a1 a2
  obtain ⟨b1, b2⟩ := dropDemands_spec o x.entries (s1.seal (.arc (s1.arcRecord o x)))
  generalize h3 : x.entries.foldl (fun s e => s.dropDemand o e.breaker) (s1.seal (.arc (s1.arcRecord o x))) = s3 at b1 b2
  obtain ⟨c1, c2⟩ := leaveArcs_spec x.zones s3
  generalize h4 : x.zones.foldl (fun s z => s.leaveArc z) s3 = s4 at c1 c2
  have hclose : s.closeOrder o = s4.setOrder o none := by
    simp only [State.closeOrder, hx, h1, h3, h4]
  have hz3 : ∀ z, s3.zone z = s.zone z := by intro z; rw [b1.zone z, seal_zone, a1.zone z]
  have hrec : s1.arcRecord o x = s.arcRecord o x := by
    simp only [State.arcRecord, State.refreshPeaks, a1.chan]
  rw [hclose]
  refine ⟨?_, ?_, ?_, ?_, ?_, ?_⟩
  · have := sealed_seal s1 (.arc (s1.arcRecord o x))
    rw [hrec] at this b1
    exact this.congr a1.ring.symm a1.nextSeq.symm a1.time.symm a1.ports.symm (c1.ring.trans b1.ring)
      (c1.nextSeq.trans b1.nextSeq) (c1.ports.trans b1.ports)
  · intro z
    rw [State.setOrder_zone, c2, hz3]
    rw [leftArc_congr (hz3 z) (by rw [b1.now, seal_now, a1.now]) (by rw [b1.time, seal_time, a1.time])
      (by rw [b1.mode, seal_mode, a1.mode]) (by rw [b1.sets, seal_sets, a1.sets])]
  · intro b
    rw [State.setOrder_trip, c1.trip b, b2, seal_trip, a1.trip b]
    rfl
  · intro u
    rw [State.setOrder_utLine, c1.utLine u, b1.utLine u, seal_utLine, a2]
  · rw [State.setOrder_orders, c1.orders, b1.orders, seal_orders, a1.orders]
  · exact SameBut.trans (a1.mono (by simp)) (SameBut.trans ((seal_same _ _).mono (by simp))
      (SameBut.trans (b1.mono (by simp)) (SameBut.trans (c1.mono (by simp)) (by simp [SameBut]))))

end Sys2Proof.Machine
end

