-- ==== Sys2Proof/Laws/Batch.lean ====
section
/-! SUPPORT. Taking up the next channel of a batch, a verdict, and a suspension. -/

namespace Sys2Proof.Machine

open Sys2Proof Sys2Proof.Safety

theorem quietOk_congr {s t : State} (h : QuietOk s) (h1 : t.batch.state = s.batch.state)
    (h2 : t.batch.cause = s.batch.cause) (h3 : t.batch.quietTimer = s.batch.quietTimer)
    (h4 : t.anyBright = s.anyBright) : QuietOk t := by
  unfold QuietOk at *; rw [h1, h2, h3, h4]; exact h

theorem settleQuiet_of_idle {s : State} (h : s.batch.state = .idle) : s.settleQuiet = s :=
  settleQuiet_of_not _ (by simp [h])

theorem settleQuiet_of_running {s : State} (h : s.batch.state = .running) : s.settleQuiet = s :=
  settleQuiet_of_not _ (by simp [h])

theorem look_markPending (l : List ChanId) : ∀ (t : Vector TestResult 24) (c : ChanId),
    look (markPending t l) c = if c ∈ l then .pending else look t c := by
  induction l with
  | nil => intro t c; simp [markPending]
  | cons a l ih =>
    intro t c
    have : markPending t (a :: l) = markPending (put t a .pending) l := rfl
    rw [this, ih]
    by_cases h : c = a
    · subst h; simp
    · simp [h, Ne.symm h]

/-- The first PENDING channel of an ascending list that passes its checks is the one whose test begins (R121). -/
theorem takeUpFrom_next {s : State} {c : ChanId} (l : List ChanId) (hmem : c ∈ l) (hsort : l.Pairwise (· < ·))
    (h1 : s.result c = .pending) (h2 : ∀ d, d < c → s.result d ≠ .pending) (h3 : s.skipCheck c = none) :
    s.takeUpFrom l = s.beginTest c := by
  induction l with
  | nil => simp at hmem
  | cons a l ih =>
    obtain ⟨hs1, hs2⟩ := List.pairwise_cons.mp hsort
    unfold State.takeUpFrom
    rcases List.mem_cons.mp hmem with rfl | hm
    · simp [h1, h3]
    · have : s.result a ≠ .pending := h2 a (hs1 c hm)
      simp [this, ih hm hs2]

/-- The test of a channel that is not CONFIRMED begins: the channel and the batch, and nothing else (R26, R124). -/
theorem beginTest_eq {s : State} {c : ChanId} (hn : (s.chan c).phase ≠ .confirmed) :
    s.beginTest c = (s.setChan c (inTesting (s.chan c))).setBatch { s.batch with
      current := some c, step := some .emit, settleTimer := some (s.now + 2000), emitSum := 0, emitCount := 0 } := by
  unfold State.beginTest
  rw [putChannel_setChan (by simp [Channel.isConfirmed, hn, Channel.enterTesting])]
  rfl

theorem takeUp_next {s : State} {c : ChanId} (h : NextUp s c) :
    s.takeUp = (s.setChan c (inTesting (s.chan c))).setBatch { s.batch with
      current := some c, step := some .emit, settleTimer := some (s.now + 2000), emitSum := 0, emitCount := 0 } := by
  obtain ⟨h1, h2, h3, h4⟩ := h
  unfold State.takeUp
  rw [takeUpFrom_next (ids 24) (List.mem_finRange c) (by exact List.pairwise_lt_finRange 24) h1 h2 h3, beginTest_eq h4]

theorem nextUp_setBatch {s : State} {c : ChanId} (h : NextUp s c) (b : Batch) (hb : b.results = s.batch.results) :
    NextUp (s.setBatch b) c := by
  obtain ⟨h1, h2, h3, h4⟩ := h
  refine ⟨?_, ?_, h3, h4⟩
  · simpa [State.result, hb] using h1
  · intro d hd; have := h2 d hd; simpa [State.result, hb] using this

theorem takeUpFrom_none {s : State} (l : List ChanId) (h : ∀ d, d ∈ l → s.result d ≠ .pending) :
    s.takeUpFrom l = s.setBatch { s.batch with state := .idle } := by
  induction l with
  | nil => rfl
  | cons a l ih =>
    unfold State.takeUpFrom
    rw [if_neg (h a (List.mem_cons_self ..))]
    exact ih (fun d hd => h d (List.mem_cons_of_mem _ hd))

/-- With no channel PENDING the batch enters IDLE (R121). -/
theorem takeUp_none {s : State} (h : ∀ d, s.result d ≠ .pending) : s.takeUp = s.setBatch { s.batch with state := .idle } :=
  takeUpFrom_none _ (fun d _ => h d)

theorem okArrival_testing {s : State} {c : ChanId} {v : Nat} (h : (s.chan c).phase = .testing) :
    s.okArrival c v = (s.setChan c { s.chan c with nonOkRun := 0 }).testSample c v := by
  simp [State.okArrival, h, Channel.okRuns, Channel.lineFaulted]

/-- A verdict with nothing left PENDING: the released channel with its last test, and an IDLE batch (R129). -/
theorem giveVerdict_last {s : State} {c : ChanId} {v : Verdict} {r : Nat} (hp : ∀ d, d ≠ c → s.result d ≠ .pending) :
    s.giveVerdict c v r =
      ((s.releaseWith c v).setChan c { (s.releaseWith c v).chan c with
          lastTest := some { verdict := v, response := r, time := s.stamp } }).setBatch
        { s.batch.cleared with state := .idle, results := put s.batch.results c (.verdict v) } := by
  have hb : (s.releaseWith c v).batch = s.batch := by
    unfold State.releaseWith; split <;> simp
  unfold State.giveVerdict
  dsimp only
  rw [takeUp_none]
  · simp [State.setResult, hb, Batch.cleared]
  · intro d
    simp only [State.result, State.setResult, State.setBatch_batch, State.setChan_batch, hb, Batch.cleared, look_put]
    split
    · simp
    · rename_i h; exact hp d (Ne.symm h)

theorem suspend_batch (s : State) (c : SuspendCause) : (s.suspend c).batch = { s.batch with
    state := .suspended, cause := some c, current := none, step := none, settleTimer := none, emitSum := 0
    emitCount := 0, darkenTimer := none, darkenCount := 0, gatherStart := none, windowExpiry := none
    windowLimit := none } := by
  unfold State.suspend State.releaseCurrent Batch.cleared; split <;> rfl

/-- A suspension releases the current channel and no other (R27, R133). -/
theorem suspend_chan (s : State) (k : SuspendCause) (c : ChanId) :
    (s.suspend k).chan c = if s.batch.current = some c then (s.chan c).release s.inForce.fast else s.chan c := by
  unfold State.suspend State.releaseCurrent; split
  · rename_i h; simp [h]
  · rename_i d h; simp [h]
    split
    · rename_i e; subst e; rfl
    · rfl

/-- A channel released by light keeps its pickup time and its peak (R17, R133). -/
theorem noteArc_chan (s : State) (c : ChanId) :
    (s.noteArc.chan c).pickupTime = (s.chan c).pickupTime ∧ (s.noteArc.chan c).peak = (s.chan c).peak := by
  have h : ((s.suspend .light).chan c).pickupTime = (s.chan c).pickupTime
      ∧ ((s.suspend .light).chan c).peak = (s.chan c).peak := by
    rw [suspend_chan]; split
    · unfold Channel.release; split <;> exact ⟨rfl, rfl⟩
    · exact ⟨rfl, rfl⟩
  unfold State.noteArc; split
  · exact h
  · exact h
  all_goals exact ⟨rfl, rfl⟩

end Sys2Proof.Machine
end

