-- ==== Sys2Proof/Laws/Wire.lean ====
section
/-! SUPPORT. Frames: their length, check byte and data bytes. The bits of a message, and the two CRCs over them. -/

namespace Sys2Proof.Machine

open Sys2Proof Sys2Proof.Safety

theorem padded_length (n : Nat) (l : List Byte) : (padded n l).length = n := by simp [padded]

/-- A sealed frame passes the check (R160). -/
theorem crcOk_sealFrame (l : List Byte) (h : l.length = 23) : crcOk (sealFrame l) = true := by
  simp [crcOk, sealFrame, h]

/-- A RESPONSE frame has 24 bytes (Table 9-3). -/
theorem responseFrame_length (r : Request) (a : Answer) : (responseFrame r a).length = 24 := by
  simp [responseFrame, sealFrame, num1, padded]

/-- A RESPONSE frame passes the check (R160). -/
theorem responseFrame_crcOk (r : Request) (a : Answer) : crcOk (responseFrame r a) = true :=
  crcOk_sealFrame _ (by simp [num1, padded])

/-- The first four bytes of a RESPONSE frame: marker, kind, tag and result code (Table 9-3). -/
theorem responseFrame_head (r : Request) (a : Answer) :
    (responseFrame r a).getD 0 0#8 = 0xC3#8 ∧ (responseFrame r a).getD 1 0#8 = r.kind
      ∧ (responseFrame r a).getD 2 0#8 = r.tag ∧ (responseFrame r a).getD 3 0#8 = BitVec.ofNat 8 a.code.code := by
  simp [responseFrame, sealFrame, num1]

/-- The data bytes of a RESPONSE frame, 0 where there are none (R168, R170). -/
theorem responseFrame_data (r : Request) (a : Answer) (i : Nat) (hi : i < 19) :
    (responseFrame r a).getD (4 + i) 0#8 = a.data.getD i 0#8 := by
  have hl : (padded 19 a.data).length = 19 := padded_length _ _
  simp only [responseFrame, sealFrame, List.getD_eq_getElem?_getD]
  rw [List.getElem?_append_left (by simp [num1, hl]; omega), List.getElem?_append_right (by simp [num1])]
  have e : 4 + i - ([0xC3#8, r.kind, r.tag] ++ num1 a.code.code).length = i := by simp [num1]
  rw [e, padded, List.getElem?_take_of_lt hi]
  by_cases h : i < a.data.length
  · rw [List.getElem?_append_left h]
  · rw [List.getElem?_append_right (by omega), List.getElem?_eq_none (l := a.data) (by omega), List.getElem?_replicate]
    split <;> rfl

/-- A STATUS frame has 24 bytes, passes the check, and begins with its marker (Tables 9-3, 9-4). -/
theorem statusFrame_spec (s : State) (p : PortId) :
    (s.statusFrame p).length = 24 ∧ crcOk (s.statusFrame p) = true ∧ (s.statusFrame p).head? = some 0x3C#8 := by
  have hl : ([0x3C#8] ++ num1 (p.val + (s.port p).slot.code * 16) ++ [((s.port p).slot.request.map (·.tag)).getD 0#8]
      ++ [((s.port p).slot.request.map (·.kind)).getD 0#8]
      ++ if s.inService then s.statusData p else s.loadingData p).length = 23 := by
    split <;> simp [num1, num2, State.statusData, State.loadingData, lowHigh]
  refine ⟨?_, ?_, ?_⟩
  · unfold State.statusFrame sealFrame; rw [List.length_append, hl]; rfl
  · unfold State.statusFrame; exact crcOk_sealFrame _ hl
  · simp [State.statusFrame, sealFrame]

theorem low_bit (m : Marks 12) (j : Nat) :
    (BitVec.ofNat 8 (m.toNat % 256)).getLsbD j = (decide (j < 8) && m.getLsbD j) := by
  have : BitVec.ofNat 8 (m.toNat % 256) = BitVec.ofNat 8 m.toNat := by
    apply BitVec.eq_of_toNat_eq; simp
  rw [this, BitVec.getLsbD_ofNat]; rfl

theorem high_bit (m : Marks 12) (j : Nat) :
    (BitVec.ofNat 8 (m.toNat / 256)).getLsbD j = (decide (j < 8) && m.getLsbD (8 + j)) := by
  rw [BitVec.getLsbD_ofNat]
  have : m.toNat / 256 = m.toNat >>> 8 := by simp [Nat.shiftRight_eq_div_pow]
  rw [this, Nat.testBit_shiftRight]; rfl

/-- A zone map or order map of two bytes: bit `i` is in byte `i / 8`, at place `i mod 8`. -/
theorem map_bits (m : Marks 12) (bs : List Byte) (k : Nat) (h1 : bs.getD k 0#8 = BitVec.ofNat 8 (m.toNat % 256))
    (h2 : bs.getD (k + 1) 0#8 = BitVec.ofNat 8 (m.toNat / 256)) (i : Fin 12) :
    (bs.getD (k + i.val / 8) 0#8).getLsbD (i.val % 8) = m.has i := by
  unfold Marks.has
  by_cases h : i.val < 8
  · have e1 : i.val / 8 = 0 := by omega
    have e2 : i.val % 8 = i.val := by omega
    rw [e1, e2, Nat.add_zero, h1, low_bit]; simp [h]
  · have e1 : i.val / 8 = 1 := by omega
    have e2 : i.val % 8 = i.val - 8 := by omega
    rw [e1, e2, h2, high_bit]
    have : 8 + (i.val - 8) = i.val := by omega
    have h3 : i.val - 8 < 8 := by omega
    simp [this, h3]

/-- The data bytes of a STATUS frame in PROTECTING and BACKSTOP (Table 9-4). -/
theorem statusFrame_data (s : State) (p : PortId) (hs : s.inService = true) (i : Nat) (hi : i < 19) :
    (s.statusFrame p).getD (4 + i) 0#8 = (s.statusData p).getD i 0#8 := by
  have hl : (s.statusData p).length = 19 := by simp [num1, num2, State.statusData, lowHigh]
  simp only [State.statusFrame, sealFrame, hs, if_true, List.getD_eq_getElem?_getD]
  rw [List.getElem?_append_left (by simp [num1, hl]; omega), List.getElem?_append_right (by simp [num1])]
  simp [num1]

/-- The first four bytes of a STATUS frame (Table 9-3). -/
theorem statusFrame_head (s : State) (p : PortId) :
    (s.statusFrame p).getD 0 0#8 = 0x3C#8
      ∧ (s.statusFrame p).getD 1 0#8 = BitVec.ofNat 8 (p.val + (s.port p).slot.code * 16)
      ∧ (s.statusFrame p).getD 2 0#8 = ((s.port p).slot.request.map (·.tag)).getD 0#8
      ∧ (s.statusFrame p).getD 3 0#8 = ((s.port p).slot.request.map (·.kind)).getD 0#8 := by
  simp [State.statusFrame, sealFrame, num1]

/-- The data bytes of a STATUS frame in LOADING (R138). -/
theorem statusFrame_loading (s : State) (p : PortId) (hs : s.inService = false) (i : Nat) (hi : i < 19) :
    (s.statusFrame p).getD (4 + i) 0#8 = (s.loadingData p).getD i 0#8 := by
  have hl : (s.loadingData p).length = 19 := by simp [num1, State.loadingData]
  simp only [State.statusFrame, sealFrame, hs, Bool.false_eq_true, if_false, List.getD_eq_getElem?_getD]
  rw [List.getElem?_append_left (by simp [num1, hl]; omega), List.getElem?_append_right (by simp [num1])]
  simp [num1]

/-! ### Bits and check values (R160, R181) -/

theorem messageBits_eq (bs : List Byte) : bs.flatMap byteBits = messageBits bs := rfl

theorem forced_eq {α : Type} {w : Nat} (r : BitVec w) (k : BitVec w → α) : forced r k = k r := by
  unfold forced
  have hr := BitVec.ofNat_toNat w r
  split
  · rename_i h; rw [h] at hr; exact congrArg k (by simpa using hr)
  · rename_i n h; rw [h] at hr; exact congrArg k (by simpa using hr)

/-- The run of a CRC over a message is its register, bit after bit. -/
theorem crcRun_eq {w : Nat} (poly : BitVec w) (bits : List Bool) : ∀ r, crcRun poly bits r = crcRegister poly r bits := by
  induction bits with
  | nil => intro r; rfl
  | cons b bs ih =>
    intro r
    have hb : crcBit poly r b = if r.msb = b then r <<< 1 else (r <<< 1) ^^^ poly := by
      rw [crcBit, ← BitVec.msb_eq_getLsbD_last]
      cases r.msb <;> cases b <;> rfl
    rw [crcRun, forced_eq, ih, hb]; rfl

theorem crc8_eq (bs : List Byte) : crc8 bs = crcRegister 0x07#8 0xFF#8 (messageBits bs) := crcRun_eq _ _ _

theorem crc16_eq (bs : List Byte) : crc16 bs = crcRegister 0x1021#16 0xFFFF#16 (messageBits bs) := crcRun_eq _ _ _

/-- Bit `i` of a message is bit `7 - i mod 8` of byte `i / 8` (R160). -/
theorem byteBits_getD (bs : List Byte) : ∀ i : Nat,
    (bs.flatMap byteBits).getD i false = (bs.getD (i / 8) 0#8).getLsbD (7 - i % 8) := by
  induction bs with
  | nil => intro i; simp
  | cons x bs ih =>
    intro i
    rw [List.flatMap_cons]
    by_cases h : i < 8
    · have : i = 0 ∨ i = 1 ∨ i = 2 ∨ i = 3 ∨ i = 4 ∨ i = 5 ∨ i = 6 ∨ i = 7 := by omega
      rcases this with rfl | rfl | rfl | rfl | rfl | rfl | rfl | rfl <;> rfl
    · obtain ⟨j, rfl⟩ : ∃ j, i = j + 8 := ⟨i - 8, by omega⟩
      have h1 : (j + 8) / 8 = j / 8 + 1 := by omega
      have h2 : (j + 8) % 8 = j % 8 := by omega
      rw [List.getD_append_right _ _ _ _ (by simp [byteBits]), h1, h2, List.getD_cons_succ, ← ih j]
      simp [byteBits]

/-- SDOp: bit `k` of the outgoing frame, most significant first, and its last bit from the end on (R159, R160; log 23). -/
theorem sdo_bit (s : State) (p : PortId) (k : Nat) :
    s.sdo p k = (s.port p).outgoing.map (fun f => (f.bytes.getD (min k 191 / 8) 0#8).getLsbD (7 - min k 191 % 8)) := by
  simp only [State.sdo, byteBits_getD]

end Sys2Proof.Machine
end

