-- ==== Sys2Proof/Laws/Bytes.lean ====
section
/-! SUPPORT. Field encodings of R171 as the statements read them: the layouts of the items of Table 9-5 and of the record
pages of R173. -/

namespace Sys2Proof.Machine

open Sys2Proof Sys2Proof.Safety

/-! ### Fields one after another -/

theorem carries_nil : Carries [] [] := rfl

theorem carries_append : ∀ {fs gs : List Field} {a b : List Byte}, Carries a fs → Carries b gs → Carries (a ++ b) (fs ++ gs)
  | [], _, a, b, h, k => by
    have : a = [] := h
    subst this; exact k
  | (n, v) :: fs, gs, a, b, h, k => by
    obtain ⟨h1, h2, h3⟩ := h
    refine ⟨by rw [List.length_append]; omega, ?_, ?_⟩
    · rw [List.take_append_of_le_length h1]; exact h2
    · rw [List.drop_append_of_le_length h1]; exact carries_append h3 k

theorem carries_cons {n v : Nat} {fs : List Field} {a b : List Byte} (h : Carries a [(n, v)]) (k : Carries b fs) :
    Carries (a ++ b) ((n, v) :: fs) := carries_append h k

/-- The bytes of fields are as many as their widths say. -/
theorem carries_length : ∀ {fs : List Field} {bs : List Byte}, Carries bs fs → bs.length = (fs.map (·.1)).sum
  | [], bs, h => by
    have : bs = [] := h
    simp [this]
  | (n, v) :: fs, bs, h => by
    obtain ⟨h1, _, h3⟩ := h
    have := carries_length h3
    rw [List.length_drop] at this
    simp only [List.map_cons, List.sum_cons]; omega

/-- A list's entries, one after another. -/
theorem carries_flatMap {α : Type} {f : α → List Byte} {g : α → List Field} (h : ∀ x, Carries (f x) (g x)) :
    ∀ l : List α, Carries (l.flatMap f) (l.flatMap g)
  | [] => rfl
  | x :: l => by rw [List.flatMap_cons, List.flatMap_cons]; exact carries_append (h x) (carries_flatMap h l)

theorem carries_map {α : Type} {f : α → List Byte} {g : α → Field} (h : ∀ x, Carries (f x) [g x]) (l : List α) :
    Carries (l.flatMap f) (l.map g) := by
  rw [List.map_eq_flatMap]; exact carries_flatMap h l

/-! ### The encodings of R171 -/

theorem carries_num1 (x : Nat) : Carries (num1 x) [(1, x)] := by simp [Carries, num1, numberOf]

theorem carries_num2 (x : Nat) : Carries (num2 x) [(2, x)] := by
  simp [Carries, num2, numberOf]; omega

theorem carries_num3 (x : Nat) : Carries (num3 x) [(3, x)] := by
  simp [Carries, num3, numberOf]; omega

theorem carries_num4 (x : Nat) : Carries (num4 x) [(4, x)] := by
  simp [Carries, num4, numberOf]; omega

theorem carries_flag1 (b : Bool) : Carries (flag1 b) [flag b] := carries_num1 _

theorem carries_opt1 (x : Option Nat) : Carries (opt1 x) [optNumber 1 x] := carries_num1 _

theorem carries_opt2 (x : Option Nat) : Carries (opt2 x) [optNumber 2 x] := carries_num2 _

theorem carries_stamp7 (t : Option Stamp) : Carries (stamp7 t) (stampFields t) := by
  cases t with
  | none => simp [Carries, stamp7, stampFields, numberOf, List.replicate]
  | some t => exact carries_append (carries_num4 _) (carries_num3 _)

/-- A named value coded by its place in the table's list. -/
theorem carries_named {α : Type} [BEq α] {l : List α} {x : α} {n : Nat} (h : n = l.idxOf x) :
    Carries (num1 n) [named l x] := by rw [h]; exact carries_num1 _

theorem carries_optNamed {α : Type} [BEq α] {l : List α} {x : Option α} {f : α → Nat} (h : ∀ y, f y = l.idxOf y) :
    Carries (opt1 (x.map f)) [optNamed l x] := by
  have : f = l.idxOf := funext h
  rw [this]; exact carries_num1 _

/-! ### Items (Table 9-5) -/

theorem encodeChannel_carries (x : ChannelRecord) : Carries (encodeChannel x) (channelRecordFields x) := by
  simp only [encodeChannel, channelRecordFields, List.append_assoc]
  exact carries_cons (carries_flag1 _) (carries_cons (carries_num1 _) (carries_cons (carries_opt1 _)
    (carries_cons (carries_num2 _) (carries_cons (carries_num1 _) (carries_cons (carries_num2 _)
    (carries_cons (carries_num1 _) (carries_cons (carries_num1 _) (carries_num2 _))))))))

theorem encodeZone_carries (x : ZoneRecord) : Carries (encodeZone x) [flag x.inUse, flag x.lightOnly] :=
  carries_append (carries_flag1 _) (carries_flag1 _)

theorem encodeLink_carries (l : Option (ZoneId × ZoneId)) : Carries (encodeLink l) (match l with
    | none => [(1, 0), (1, 0xFF), (1, 0xFF)]
    | some (a, b) => [(1, 1), (1, min a.val b.val), (1, max a.val b.val)]) := by
  rcases l with _ | ⟨a, b⟩
  · exact carries_cons (carries_num1 0) (carries_cons (carries_num1 0xFF) (carries_num1 0xFF))
  · exact carries_cons (carries_num1 1) (carries_cons (carries_num1 (min a.val b.val)) (carries_num1 (max a.val b.val)))

theorem encodeBreaker_carries (x : BreakerRecord) : Carries (encodeBreaker x) (breakerRecordFields x) := by
  have hr : Carries (num1 x.role.code) [named [.incomer, .coupler] x.role] :=
    carries_named (by cases x.role <;> rfl)
  have ha : Carries (num1 x.sideA.code) [(1, match x.sideA with | .external => 0xFE | .zone z => z.val)] := by
    have : x.sideA.code = match x.sideA with | .external => 0xFE | .zone z => z.val := by cases x.sideA <;> rfl
    rw [← this]; exact carries_num1 _
  simp only [encodeBreaker, breakerRecordFields, List.append_assoc]
  exact carries_cons (carries_flag1 _) (carries_cons hr (carries_cons ha (carries_cons (carries_num1 _)
    (carries_cons (carries_num1 _) (carries_cons (carries_flag1 _) (carries_cons (carries_num2 _) (carries_opt1 _)))))))

theorem threshold_of (s : State) (c : ChanId) : s.thresholdOf c =
    if (s.chan c).phase = .quiet ∨ (s.chan c).phase = .pickup ∨ ((s.chan c).phase = .confirmed ∧ (s.chan c).early = false)
        ∨ (s.chan c).phase = .testing ∨ ((s.chan c).phase = .faulted ∧ (s.chan c).cause = some .optical)
    then some (threshold (s.chanRec c) (s.chan c)) else none := by
  unfold State.thresholdOf
  refine if_congr ?_ rfl rfl
  generalize s.chan c = x
  rcases x with ⟨phase, cause, early⟩
  cases phase <;> simp [Channel.hasThreshold]

theorem verdictCode (v : Verdict) : v.code = resultList.idxOf (TestResult.verdict v) := by cases v <;> rfl

theorem resultCode (r : TestResult) : r.code = resultList.idxOf r := by
  cases r with
  | verdict v => exact verdictCode v
  | _ => rfl

theorem channelLive_carries (s : State) (c : ChanId) : Carries (s.channelLive c) (channelLiveFields s c) := by
  have h1 : Carries (num1 (s.chan c).phase.code)
      [named [.off, .warmup, .quiet, .pickup, .confirmed, .testing, .faulted] (s.chan c).phase] :=
    carries_named (by cases (s.chan c).phase <;> rfl)
  have h2 : Carries (opt1 ((s.chan c).cause.map (·.code))) [optNamed [.line, .optical] (s.chan c).cause] :=
    carries_optNamed (fun y => by cases y <;> rfl)
  have h3 : Carries (opt1 ((s.chan c).lastTest.map (·.verdict.code)))
      [optNamed resultList ((s.chan c).lastTest.map (fun l => .verdict l.verdict))] := by
    have : (s.chan c).lastTest.map (·.verdict.code)
        = ((s.chan c).lastTest.map (fun l => TestResult.verdict l.verdict)).map resultList.idxOf := by
      rw [Option.map_map]; congr 1; funext l; exact verdictCode _
    rw [this]; exact carries_num1 _
  have hd : (s.thresholdOf c).map dropLevel = (s.thresholdOf c).map (fun t => t - t / 8) := rfl
  simp only [State.channelLive, encodeLastTest, channelLiveFields, ← threshold_of, hd, List.append_assoc, List.cons_append,
    List.nil_append]
  exact carries_cons h1 (carries_cons h2 (carries_cons (carries_flag1 _) (carries_cons (carries_num2 _)
    (carries_cons (carries_num1 _) (carries_append (carries_stamp7 _) (carries_cons (carries_num2 _)
    (carries_cons (carries_flag1 _) (carries_cons (carries_opt2 _) (carries_cons (carries_opt2 _)
    (carries_cons (carries_num3 _) (carries_cons (carries_num2 _) (carries_cons (carries_num2 _)
    (carries_cons (carries_num1 _) (carries_cons (carries_num2 _) (carries_cons h3 (carries_cons (carries_opt2 _)
    (carries_stamp7 _)))))))))))))))))

/-- A set of breakers made from a list is the set of those in it. -/
theorem breakerMap_carries (l : List BreakerId) :
    Carries (breakerMap l) [(1, (Marks.collect (fun b => decide (b ∈ l))).toNat)] := by
  have hf : ∀ (l : List BreakerId) (m : Marks 8) (i : BreakerId),
      (l.foldl (fun m b => Marks.add m b) m).has i = (m.has i || decide (i ∈ l)) := by
    intro l
    induction l with
    | nil => intro m i; simp
    | cons a l ih =>
      intro m i
      rw [List.foldl_cons, ih, Marks.has_add]
      by_cases e : a = i
      · subst e; simp
      · simp [e, Ne.symm e]
  have : l.foldl (fun m b => Marks.add m b) (0 : Marks 8) = Marks.collect (fun b => decide (b ∈ l)) := by
    apply Marks.ext; intro i; rw [hf, Marks.has_collect, Marks.has_zero, Bool.false_or]
  unfold breakerMap; rw [this]; exact carries_num1 _

theorem zoneLive_carries (s : State) (z : ZoneId) : Carries (s.zoneLive z) (zoneLiveFields s z) := by
  have h1 : Carries (num1 (s.zone z).prot.code) [named [.dark, .lit, .arc, .held] (s.zone z).prot] :=
    carries_named (by cases (s.zone z).prot <;> rfl)
  have h2 : ∀ h : PortId × Nat, Carries (num1 h.1.val ++ num2 (s.remainingSeconds h.2))
      [(1, h.1.val), (2, max 1 ((h.2 - s.now + 999999) / 1000000))] :=
    fun h => carries_append (carries_num1 _) (carries_num2 _)
  have hl : (s.zone z).holdList = (ids 3).filterMap (fun p => (s.holdOf z p).map (fun e => (p, e))) := rfl
  simp only [State.zoneLive, State.encodeHolds, zoneLiveFields, hl, List.append_assoc, List.cons_append, List.nil_append]
  exact carries_cons h1 (carries_cons (carries_num3 _) (carries_append (carries_stamp7 _) (carries_cons (carries_flag1 _)
    (carries_cons (carries_flag1 _) (carries_cons (carries_opt1 _) (carries_cons (carries_num2 _)
    (carries_cons (breakerMap_carries _) (carries_cons (breakerMap_carries _) (carries_cons (carries_num1 _)
    (carries_append (carries_flatMap h2 _) (carries_flag1 _)))))))))))

theorem assertedCode_carries (b : Bool) : Carries (num1 (assertedCode b)) [named [true, false] b] :=
  carries_named (by cases b <;> rfl)

theorem breakerLive_carries (s : State) (b : BreakerId) : Carries (s.breakerLive b) (breakerLiveFields s b) := by
  have h1 : Carries (num1 (s.input b).position.code) [named [.closed, .opened, .unknown] (s.input b).position] :=
    carries_named (by cases (s.input b).position <;> rfl)
  have h2 : Carries (num1 (s.trip b).phase.code)
      [named [.idle, .driving, .holding, .openDone, .failed, .spent] (s.trip b).phase] :=
    carries_named (by cases (s.trip b).phase <;> rfl)
  simp only [State.breakerLive, breakerLiveFields, List.append_assoc]
  exact carries_cons (carries_flag1 _) (carries_cons (carries_flag1 _) (carries_cons h1 (carries_cons (carries_flag1 _)
    (carries_cons (assertedCode_carries _) (carries_cons (carries_flag1 _) (carries_cons (carries_flag1 _)
    (carries_cons h2 (carries_cons (carries_num2 _) (carries_flag1 _)))))))))

theorem utItem_carries (s : State) (u : UtId) : Carries (s.utItem u) (utFields (s.utLine u)) := by
  simp only [State.utItem, utFields]
  exact carries_append (carries_append (assertedCode_carries _) (carries_num2 _)) (carries_stamp7 _)

theorem lockoutItem_carries (s : State) : Carries s.lockoutItem (lockoutFields s.lockout) := by
  have h : Carries (num1 s.lockout.store.code) [named [.idle, .updating, .updatingAgain] s.lockout.store] :=
    carries_named (by cases s.lockout.store <;> rfl)
  simp only [State.lockoutItem, lockoutFields, List.append_assoc]
  exact carries_cons (carries_num1 _) (carries_cons h (carries_cons (carries_opt1 _) (carries_flag1 _)))

theorem batchItem_carries (s : State) : Carries s.batchItem (batchFields s.batch) := by
  have h1 : Carries (num1 s.batch.state.code) [named [.idle, .gathering, .running, .suspended] s.batch.state] :=
    carries_named (by cases s.batch.state <;> rfl)
  have h2 : ∀ r : TestResult, Carries (num1 r.code) [named resultList r] := fun r => carries_named (resultCode r)
  have h3 : Carries (opt1 (s.batch.step.map (·.code))) [optNamed [.emit, .darken] s.batch.step] :=
    carries_optNamed (fun y => by cases y <;> rfl)
  have h4 : Carries (opt1 (s.batch.cause.map (·.code))) [optNamed [.request, .light] s.batch.cause] :=
    carries_optNamed (fun y => by cases y <;> rfl)
  simp only [State.batchItem, batchFields, List.append_assoc, List.cons_append, List.nil_append]
  exact carries_cons h1 (carries_cons (carries_num3 _) (carries_cons (carries_flag1 _)
    (carries_append (carries_map h2 _) (carries_cons (carries_opt1 _) (carries_cons h3 (carries_cons h4
    (carries_flag1 _)))))))

theorem timeItem_carries (s : State) : Carries s.timeItem (timeFields s.time) := by
  have h1 : Carries (num1 s.time.status.code) [named [.unset, .synced, .freewheel] s.time.status] :=
    carries_named (by cases s.time.status <;> rfl)
  have h2 : Carries (encodePending s.time.pendingSeconds)
      [flag s.time.pendingSeconds.isSome, (4, s.time.pendingSeconds.getD 0)] := by
    cases s.time.pendingSeconds with
    | none => exact carries_append (a := num1 0) (carries_num1 0) (carries_num4 0)
    | some v => exact carries_append (a := num1 1) (carries_num1 1) (carries_num4 v)
  simp only [State.timeItem, timeFields, List.append_assoc]
  exact carries_cons (carries_num4 _) (carries_cons (carries_num3 _) (carries_cons h1 (carries_append h2
    (carries_cons (carries_flag1 _) (carries_cons (carries_flag1 _) (carries_flag1 _))))))

theorem slotCode_carries (x : Slot) : Carries (num1 x.code) [slotField x] := by
  have : slotField x = (1, x.code) := by cases x <;> rfl
  rw [this]; exact carries_num1 _

theorem storeItem_carries (s : State) : Carries s.storeItem
    [named [.idle, .writing] s.sets.store, flag s.sets.failed, (2, s.sets.generation), flag s.sets.dirty] := by
  have h : Carries (num1 s.sets.store.code) [named [.idle, .writing] s.sets.store] :=
    carries_named (by cases s.sets.store <;> rfl)
  simp only [State.storeItem, List.append_assoc]
  exact carries_cons h (carries_cons (carries_flag1 _) (carries_cons (carries_num2 _) (carries_flag1 _)))

theorem supervisionItem_carries (s : State) : Carries s.supervisionItem (supervisionFields s) := by
  have h1 : Carries (num1 s.mode.code) [named [.reset, .loading, .protecting, .backstop] s.mode] :=
    carries_named (by cases s.mode <;> rfl)
  have h2 : Carries (num1 s.sup.supply.code) [named [.unknown, .ok, .low] s.sup.supply] :=
    carries_named (by cases s.sup.supply <;> rfl)
  have h3 : Carries [s.reasons] [(1, s.reasons.toNat)] := by
    have : [s.reasons] = num1 s.reasons.toNat := by simp [num1]
    rw [this]; exact carries_num1 _
  have h4 : s.uncoveredMap = Marks.collect (fun z => s.uncovered z) := rfl
  simp only [State.supervisionItem, supervisionFields, h4, List.append_assoc]
  exact carries_cons h1 (carries_cons h2 (carries_cons (assertedCode_carries _) (carries_cons h3 (carries_num2 _))))

/-- An item has no content exactly where its kind does not exist or its index is outside the kind's range (R172). -/
theorem itemContent_none (s : State) (kind index : Nat) : s.itemContent kind index = none ↔
    [0, 24, 12, 16, 8, 4, 1, 1, 1, 3, 1, 1, 1].getD kind 0 ≤ index := by
  have h : ∀ (n : Nat) (f : Fin n → List Byte), withIndex n index f = none ↔ n ≤ index := by
    intro n f
    unfold withIndex readFin
    by_cases hi : index < n
    · simp [hi]
    · simp [hi]; omega
  unfold State.itemContent
  split <;> first | exact h _ _ | skip
  rename_i h1 h2 h3 h4 h5 h6 h7 h8 h9 h10 h11 h12
  match kind with
  | 0 => simp
  | n + 13 => simp

/-! ### Record pages (R173) -/

theorem recordCode (b : RecordBody) : b.code = kindNumber b := by cases b <;> rfl

theorem continuation_carries (b : RecordBody) : Carries b.continuation (laterFields b) := by
  cases b with
  | arc r =>
    have hc : ∀ e : ChannelEntry, Carries (encodeChannelEntry e) [(1, e.chan.val), optNumber 2 e.offset, (2, e.peak)] := by
      intro e; exact carries_append (carries_append (carries_num1 _) (carries_opt2 _)) (carries_num2 _)
    have he : ∀ e : Entry, Carries (encodeEntry e) [(1, e.breaker.val),
          (1, e.level * 64 + match e.outcome with
            | none => 0
            | some .opened => 1
            | some .failedThenOpened => 2
            | some .spent => 3),
          optNumber 2 e.offset] := by
      intro e
      have : outcomeBits e.outcome = match e.outcome with
            | none => 0
            | some .opened => 1
            | some .failedThenOpened => 2
            | some .spent => 3 := by rcases e.outcome with _ | v; rfl; cases v <;> rfl
      rw [← this]
      exact carries_append (carries_append (carries_num1 _) (carries_num1 _)) (carries_opt2 _)
    simp only [RecordBody.continuation, laterFields, encodeList, List.append_assoc]
    refine carries_append (carries_stamp7 _) (carries_append (carries_stamp7 _) (carries_append (carries_stamp7 _) ?_))
    refine carries_append (carries_num1 _) (carries_append (carries_map (fun z => carries_num1 _) _) ?_)
    refine carries_append (carries_num1 _) (carries_append (carries_flatMap hc _) ?_)
    exact carries_append (carries_num1 _) (carries_flatMap he _)
  | noSource z o m => exact carries_num3 _
  | lightAlarm => rfl
  | heldLight => rfl
  | channelFault => rfl
  | holdExpired => rfl
  | timeStep => rfl

theorem pages_eq (b : RecordBody) : b.pages = pageCount b := by
  have := carries_length (continuation_carries b)
  unfold RecordBody.pages pageCount pagesOf recordPageSize; rw [← this]; omega

theorem kindFields_carries (b : RecordBody) : Carries b.kindFields (pageZeroFields b) := by
  cases b with
  | arc r =>
    have hf : r.flags = (if r.escLimit then 1 else 0) + (if r.supplyLow then 2 else 0) + (if r.timeStep then 4 else 0)
        + statusNumber r.decisionStatus * 8 := by
      unfold ArcRecord.flags; cases r.decisionStatus <;> rfl
    simp only [RecordBody.kindFields, pageZeroFields, List.append_assoc]
    rw [hf]
    exact carries_cons (carries_num1 _) (carries_cons (carries_num1 _) (carries_cons (carries_opt1 _)
      (carries_cons (carries_num1 _) (carries_cons (carries_num2 _) (carries_cons (carries_num1 _)
      (carries_cons (carries_num1 _) (carries_opt1 _)))))))
  | noSource z o m => exact carries_append (carries_num1 _) (carries_opt1 _)
  | lightAlarm z o t => exact carries_append (carries_append (carries_num1 _) (carries_opt1 _)) (carries_stamp7 _)
  | heldLight z c => exact carries_append (carries_num1 _) (carries_num1 _)
  | channelFault c k v =>
    have hk : Carries (num1 k.code) [named [.line, .optical] k] := carries_named (by cases k <;> rfl)
    have hv : Carries (opt1 (v.map (·.code))) [optNamed resultList (v.map (fun v => .verdict v))] := by
      have : v.map (·.code) = (v.map (fun v => TestResult.verdict v)).map resultList.idxOf := by
        rcases v with _ | v
        · rfl
        · cases v <;> rfl
      rw [this]; exact carries_num1 _
    exact carries_append (carries_append (carries_num1 _) hk) hv
  | holdExpired z p => exact carries_append (carries_num1 _) (carries_num1 _)
  | timeStep a b c => exact carries_append (carries_num4 _) (carries_num3 _)

theorem statusCode (t : TimeStatus) : t.code = statusNumber t := by cases t <;> rfl

/-- Every page of a sealed record is laid out as R173 says. -/
theorem recordPage_isPage (b : RecordBody) (seq : Option Nat) (t : Stamp) (status : TimeStatus) (n : Nat) :
    IsPage (recordPage b seq (some t) status n) b seq t status n := by
  have hh : Carries (b.header seq) [(1, pageCount b * 16 + kindNumber b), optNumber 2 seq] := by
    unfold RecordBody.header; rw [pages_eq, recordCode]; exact carries_append (carries_num1 _) (carries_opt2 _)
  have hl : (b.header seq).length = 3 := rfl
  refine ⟨fun h => ?_, fun h => ⟨b.continuation, continuation_carries b, ?_, ?_⟩⟩
  · unfold recordPage; rw [if_pos h]
    simp only [List.append_assoc]
    refine carries_append hh ?_
    simp only [sealTimeBytes, List.append_assoc, statusCode]
    exact carries_cons (carries_num4 _) (carries_cons (carries_num3 _) (kindFields_carries b))
  · unfold recordPage; rw [List.take_append_of_le_length (by omega), ← hl, List.take_length]; exact hh
  · unfold recordPage; rw [List.drop_append_of_le_length (by omega), ← hl, List.drop_length, if_neg (by omega)]; rfl

/-- A page of an open record: its seal time reads absent (Table 9-6; log 13). -/
theorem openPage_isPage (b : RecordBody) (status : TimeStatus) (n : Nat) :
    IsPage (recordPage b none none status n) b none { sec := 0xFFFFFFFF, us := 0xFFFFF } status n :=
  recordPage_isPage b none { sec := 0xFFFFFFFF, us := 0xFFFFF } status n

end Sys2Proof.Machine
end

