-- ==== Sys2Proof/Laws/Holds.lean ====
section
/-! SUPPORT. Count clear, forced quiet and the end of a hold list. -/

namespace Sys2Proof.Machine

open Sys2Proof Sys2Proof.Safety

/-- A change of every channel of a list changes those and nothing else. -/
theorem foldl_setChan (f : Channel → Channel) (l : List ChanId) (hn : l.Nodup) : ∀ s : State,
    (∀ c, (l.foldl (fun s c => s.setChan c (f (s.chan c))) s).chan c = if c ∈ l then f (s.chan c) else s.chan c)
      ∧ SameBut [.channels] s (l.foldl (fun s c => s.setChan c (f (s.chan c))) s) := by
  induction l with
  | nil => intro s; simp [SameBut]
  | cons a l ih =>
    intro s
    obtain ⟨h1, h2⟩ := List.nodup_cons.mp hn
    obtain ⟨i1, i2⟩ := ih h2 (s.setChan a (f (s.chan a)))
    refine ⟨?_, SameBut.trans (by simp [SameBut]) i2⟩
    intro c
    rw [List.foldl_cons, i1]
    by_cases e : c = a
    · subst e; simp [h1]
    · simp [e, Ne.symm e]

theorem watchers_nodup (s : State) (z : ZoneId) : (s.watchers z).Nodup := (List.nodup_finRange 24).filter _

theorem mem_watchers (s : State) (z : ZoneId) (c : ChanId) : c ∈ s.watchers z ↔ (s.chanRec c).watches z = true := by
  simp [State.watchers, ids, List.mem_finRange]

/-- Count clear at a zone: the channels that watch it, and nothing else (R24, R109). -/
theorem countClear_spec (s : State) (z : ZoneId) :
    (∀ c, (s.countClear z).chan c = if (s.chanRec c).watches z then (s.chan c).countClear else s.chan c)
      ∧ SameBut [.channels] s (s.countClear z) := by
  have := foldl_setChan Channel.countClear (s.watchers z) (watchers_nodup s z) s
  simp only [mem_watchers] at this
  exact this

theorem hasHold_iff (z : Zone) : z.hasHold = true ↔ ∃ p, look z.holds p ≠ none := by
  simp [Zone.hasHold, ids, List.mem_finRange, Option.isSome_iff_ne_none]

/-- A hold entry placed (R107, R108): the zone, DARK or LIT, enters HELD (R53, R109), and else only the entry is new. -/
theorem placeHold_spec {s : State} {z : ZoneId} {p : PortId} {e : Nat}
    (hh : (s.zone z).hasHold = true → (s.zone z).prot = .held ∨ (s.zone z).prot = .arc) :
    let entered := (s.zone z).prot = .dark ∨ (s.zone z).prot = .lit
    let t := s.placeHold z p e
    (entered → t.zone z =
        { prot := .held, confirmed := (s.zone z).confirmed, litSince := none, alarmSent := false, noSourceSent := false
          alarmTimer := none, orderSlot := none, holds := put (s.zone z).holds p (some e), heldLightSent := false })
      ∧ (¬ entered → t.zone z = { s.zone z with holds := put (s.zone z).holds p (some e) })
      ∧ OnlyZone s t z
      ∧ (∀ c, t.chan c =
          if entered ∧ (s.chanRec c).watches z = true ∧ ((s.chan c).phase = .pickup ∨ (s.chan c).phase = .confirmed) then
            { s.chan c with count := 0 }
          else s.chan c)
      ∧ SameBut [.zones, .channels] s t := by
  dsimp only
  have hss : s.setHold z p (some e) = s.setZone z { s.zone z with holds := put (s.zone z).holds p (some e) } := rfl
  unfold State.placeHold
  by_cases hp : (s.zone z).prot = .dark ∨ (s.zone z).prot = .lit
  · have hn : (s.zone z).hasHold = false := by
      rw [Bool.eq_false_iff]; intro h; rcases hh h with k | k <;> rw [k] at hp <;> simp at hp
    simp only [hn, Bool.false_eq_true, if_false]
    have : (s.setHold z p (some e)).acknowledgeHold z = (s.setHold z p (some e)).enterHeld z := by
      unfold State.acknowledgeHold; simp only [hss, State.setZone_zone, if_true]
      rcases hp with h | h <;> rw [h]
    rw [this]
    obtain ⟨c1, c2⟩ := countClear_spec ((s.setHold z p (some e)).setZone z
      { ((s.setHold z p (some e)).zone z).unlit .held with heldLightSent := false }) z
    refine ⟨fun _ => ?_, fun h => absurd hp h, ?_, ?_, ?_⟩
    · rw [State.enterHeld, c2.zone]; simp [Zone.unlit, hss]
    · intro y hy; rw [State.enterHeld, c2.zone]; simp [State.setHold, Ne.symm hy]
    · intro c; rw [State.enterHeld, c1]
      have e1 : ∀ u v, ((s.setHold z p u).setZone z v).chan c = s.chan c := fun _ _ => rfl
      have e2 : ∀ u v, ((s.setHold z p u).setZone z v).chanRec c = s.chanRec c := fun _ _ => rfl
      rw [e1, e2]
      by_cases hw : (s.chanRec c).watches z = true
      · rw [if_pos hw]
        simp only [hp, hw, true_and]
        cases hpp : (s.chan c).phase <;> simp [Channel.countClear, hpp]
      · rw [if_neg hw, if_neg (fun h => hw h.2.1)]
    · refine SameBut.trans ?_ (c2.mono (by simp)); simp [SameBut, State.setHold]
  · have : (if (s.zone z).hasHold = true then s.setHold z p (some e) else (s.setHold z p (some e)).acknowledgeHold z)
        = s.setHold z p (some e) := by
      split
      · rfl
      · unfold State.acknowledgeHold; simp only [hss, State.setZone_zone, if_true]
        cases hpp : (s.zone z).prot <;> simp_all
    dsimp only; rw [this]
    refine ⟨fun h => absurd h hp, fun _ => by simp [hss], ?_, ?_, ?_⟩
    · intro y hy; simp [hss, Ne.symm hy]
    · intro c; simp [hss, hp]
    · simp [SameBut, hss]

/-- The end of a HELD zone's hold list where no channel that watches the zone is CONFIRMED: the zone enters DARK, a PICKUP
of a channel that watches it ends, and nothing else changes (R25, R113). -/
theorem holdsEnded_spec {s : State} {z : ZoneId} (hp : (s.zone z).prot = .held)
    (hc : ∀ c, (s.chanRec c).watches z = true → (s.chan c).phase ≠ .confirmed) :
    (s.holdsEnded z).zone z = (s.zone z).unlit .dark
      ∧ (∀ y, y ≠ z → (s.holdsEnded z).zone y = s.zone y)
      ∧ (∀ c, (s.holdsEnded z).chan c =
          if (s.chanRec c).watches z = true ∧ (s.chan c).phase = .pickup then
            { s.chan c with phase := .quiet, early := false, count := 0 }
          else s.chan c)
      ∧ SameBut [.zones, .channels] s (s.holdsEnded z) := by
  have h1 : s.holdsEnded z = (s.watchers z).foldl (fun s c => s.forceQuiet c) (s.enterDark z) := by
    simp [State.holdsEnded, hp]
  have h2 : ∀ (l : List ChanId) (t : State), (∀ c, c ∈ l → (t.chan c).phase ≠ .confirmed) → l.Nodup →
      l.foldl (fun s c => s.forceQuiet c) t
        = l.foldl (fun s c => s.setChan c ((s.chan c).forcedQuiet t.inForce.fast)) t := by
    intro l
    induction l with
    | nil => intro t _ _; rfl
    | cons a l ih =>
      intro t ht hn
      obtain ⟨n1, n2⟩ := List.nodup_cons.mp hn
      have : t.forceQuiet a = t.setChan a ((t.chan a).forcedQuiet t.inForce.fast) := by
        apply putChannel_setChan
        have := ht a (List.mem_cons_self ..)
        cases hh : (t.chan a).phase <;> simp_all [Channel.isConfirmed, Channel.forcedQuiet, Channel.toQuiet]
      rw [List.foldl_cons, List.foldl_cons, this, ih _ _ n2]
      · rfl
      · intro c hc
        have : ¬ a = c := fun e => n1 (e ▸ hc)
        simp [this]; exact ht c (List.mem_cons_of_mem _ hc)
  rw [h1, h2 _ _ (by intro c hcm; rw [mem_watchers] at hcm; exact hc c hcm) (watchers_nodup s z)]
  obtain ⟨f1, f2⟩ := foldl_setChan (fun x => x.forcedQuiet (s.enterDark z).inForce.fast) (s.watchers z)
    (watchers_nodup s z) (s.enterDark z)
  refine ⟨?_, ?_, ?_, ?_⟩
  · rw [f2.zone]; simp [State.enterDark]
  · intro y hy; rw [f2.zone]; simp [State.enterDark, Ne.symm hy]
  · intro c; rw [f1]; simp only [mem_watchers]
    have e : (s.enterDark z).chan c = s.chan c := rfl
    rw [e]
    by_cases hw : (s.chanRec c).watches z = true
    · have := hc c hw
      simp only [hw, if_true, true_and]
      cases hh : (s.chan c).phase <;> simp_all [Channel.forcedQuiet, Channel.toQuiet]
    · simp [hw]
  · refine SameBut.trans ?_ (f2.mono (by simp)); simp [State.enterDark, SameBut]

/-- The zones of a channel record are those it watches (R1, R23). -/
theorem mem_zones (r : ChannelRecord) (z : ZoneId) : z ∈ r.zones ↔ r.watches z = true := by
  unfold ChannelRecord.zones ChannelRecord.watches
  rcases hs : r.secondary with _ | y
  · simp [@eq_comm _ z]
  · dsimp only; split <;> simp [@eq_comm _ z, or_comm]

/-- A zone whose set a channel leaves: the last of a LIT zone darkens it (R51). -/
def droppedZone (c : ChanId) (x : Zone) : Zone :=
  if x.confirmed.has c = true then
    if x.prot = .lit ∧ x.confirmed.drop c = 0 then { x with confirmed := 0 }.unlit .dark
    else { x with confirmed := x.confirmed.drop c }
  else x

theorem droppedZone_idem (c : ChanId) (x : Zone) : droppedZone c (droppedZone c x) = droppedZone c x := by
  have h : (droppedZone c x).confirmed.has c = false := by
    unfold droppedZone; split
    · split <;> simp [Zone.unlit, Marks.has_drop]
    · rename_i h; simpa using h
  generalize droppedZone c x = y at h
  unfold droppedZone
  simp [h]

theorem droppedZone_prot (c : ChanId) (x : Zone) (h : x.prot ≠ .arc) : (droppedZone c x).prot ≠ .arc := by
  unfold droppedZone; split
  · split <;> simp [Zone.unlit, h]
  · exact h

theorem droppedZone_has (c d : ChanId) (x : Zone) :
    (droppedZone c x).confirmed.has d = (x.confirmed.has d && !decide (c = d)) := by
  unfold droppedZone; split
  · split
    · rename_i h; have := congrArg (fun m : Marks 24 => m.has d) h.2
      simp only [Marks.has_drop, Marks.has_zero] at this
      simp [Zone.unlit]; intro hx; simpa [hx] using this
    · simp [Marks.has_drop]
  · rename_i h; by_cases e : c = d
    · subst e; simpa using h
    · simp [e]

/-- Drop reports of channel `c` close no order of zone `z`: the order of an ARC zone is not resolved, or another channel
lights a zone of it (R70). -/
def ClosesNone (s : State) (c : ChanId) (z : ZoneId) : Prop :=
  ∀ o x, (s.zone z).prot = .arc → (s.zone z).orderSlot = some o → s.order o = some x →
    x.resolution = none ∨ ∃ y d, y ∈ x.zones ∧ d ≠ c ∧ (s.zone y).confirmed.has d = true

/-- A drop report that closes no order, for its order is not resolved or has a zone still lit after it, changes its zone
only (R51, R70). -/
theorem dropReport_eq {s : State} {c : ChanId} {z : ZoneId}
    (h : ∀ o x, (s.zone z).prot = .arc → (s.zone z).orderSlot = some o → s.order o = some x →
      x.resolution = none ∨ ∃ y d, y ∈ x.zones ∧ (d ≠ c ∨ y ≠ z) ∧ (s.zone y).confirmed.has d = true) :
    s.dropReport c z = s.setZone z (droppedZone c (s.zone z)) := by
  unfold State.dropReport droppedZone
  by_cases hh : (s.zone z).confirmed.has c = true
  · rw [if_pos hh, if_pos hh]
    dsimp only
    by_cases h0 : (s.zone z).confirmed.drop c = 0
    · rw [if_pos (by simpa using h0)]
      unfold State.darkenedAt
      cases hp : (s.zone z).prot with
      | dark => simp [h0]
      | held => simp [h0]
      | lit => simp [h0, State.enterDark]
      | arc =>
        simp only [State.setZone_zone, if_true, h0]
        cases ho : (s.zone z).orderSlot with
        | none => simp
        | some o =>
          simp only [State.testDarkClose, State.setZone_order]
          cases hx : s.order o with
          | none => simp
          | some x =>
            rcases h o x hp ho hx with k | ⟨y, d, k1, k2, k3⟩
            · simp [k]
            · have hu : (s.setZone z { s.zone z with prot := .arc, confirmed := 0, orderSlot := some o }).orderUnlit x
                  = false := by
                unfold State.orderUnlit
                rw [List.all_eq_false]
                refine ⟨y, k1, ?_⟩
                have hy : y ≠ z := by
                  rintro rfl
                  have := congrArg (fun m : Marks 24 => m.has d) h0
                  simp only [Marks.has_drop, Marks.has_zero, k3] at this
                  simp [Ne.symm (k2.resolve_right (by simp))] at this
                simp only [State.setZone_zone, if_neg (Ne.symm hy), beq_iff_eq]
                rintro k; rw [k, Marks.has_zero] at k3; simp at k3
              simp only [hu, Bool.and_false, Bool.false_eq_true, if_false]
              simp
    · rw [if_neg (by simpa using h0), if_neg (fun h => h0 h.2)]
  · rw [if_neg hh, if_neg hh]; simp

/-- Such a report leaves a zone's witness in place. -/
theorem ClosesNone.keep {s : State} {c : ChanId} {z : ZoneId} (h : ClosesNone s c z) (a : ZoneId) :
    ClosesNone (s.setZone a (droppedZone c (s.zone a))) c z := by
  have hz : ∀ y, ((s.setZone a (droppedZone c (s.zone a))).zone y)
      = if a = y then droppedZone c (s.zone y) else s.zone y := by
    intro y; rw [State.setZone_zone]; split
    · rename_i e; rw [e]
    · rfl
  intro o x hp ho hx
  rw [hz] at hp ho
  have hpo : (s.zone z).prot = .arc ∧ (s.zone z).orderSlot = some o := by
    split at hp
    · rename_i e
      rw [if_pos e] at ho
      unfold droppedZone at hp ho
      split at hp
      · rename_i k; rw [if_pos k] at ho
        split at hp
        · simp [Zone.unlit] at hp
        · rename_i k2; rw [if_neg k2] at ho; exact ⟨hp, ho⟩
      · rename_i k; rw [if_neg k] at ho; exact ⟨hp, ho⟩
    · rename_i e; rw [if_neg e] at ho; exact ⟨hp, ho⟩
  rcases h o x hpo.1 hpo.2 hx with k | ⟨y, d, k1, k2, k3⟩
  · exact .inl k
  · refine .inr ⟨y, d, k1, k2, ?_⟩
    rw [hz]; split
    · simp [droppedZone_has, k3, Ne.symm k2]
    · exact k3

/-- Drop reports that close no order (R51). -/
theorem dropReports_keep (c : ChanId) (l : List ZoneId) : ∀ s : State, (∀ z, z ∈ l → ClosesNone s c z) →
    (∀ z, (l.foldl (fun s z => s.dropReport c z) s).zone z = if z ∈ l then droppedZone c (s.zone z) else s.zone z)
      ∧ SameBut [.zones] s (l.foldl (fun s z => s.dropReport c z) s) := by
  induction l with
  | nil => intro s _; simp [SameBut]
  | cons a l ih =>
    intro s h
    rw [List.foldl_cons, dropReport_eq (fun o x k1 k2 k3 =>
      (h a (by simp) o x k1 k2 k3).imp_right fun ⟨y, d, j1, j2, j3⟩ => ⟨y, d, j1, .inl j2, j3⟩)]
    obtain ⟨i1, i2⟩ := ih (s.setZone a (droppedZone c (s.zone a))) (fun z hz => (h z (by simp [hz])).keep a)
    refine ⟨?_, SameBut.trans (by simp [SameBut]) i2⟩
    intro z
    rw [i1, State.setZone_zone]
    by_cases e : a = z
    · subst e; simp [droppedZone_idem]
    · simp [e, Ne.symm e]

/-- Drop reports to zones of which none is ARC (R51). -/
theorem dropReports_spec (c : ChanId) (l : List ZoneId) (s : State) (h : ∀ z, z ∈ l → (s.zone z).prot ≠ .arc) :
    (∀ z, (l.foldl (fun s z => s.dropReport c z) s).zone z = if z ∈ l then droppedZone c (s.zone z) else s.zone z)
      ∧ SameBut [.zones] s (l.foldl (fun s z => s.dropReport c z) s) :=
  dropReports_keep c l s (fun z hz _ _ k => absurd k (h z hz))

/-- Drop reports to zones that are HELD or DARK: the channel leaves their sets, and nothing else changes (R51). -/
theorem dropReports_rest (c : ChanId) (l : List ZoneId) (s : State)
    (h : ∀ z, z ∈ l → (s.zone z).prot = .held ∨ (s.zone z).prot = .dark) :
    (∀ z, (l.foldl (fun s z => s.dropReport c z) s).zone z =
        if z ∈ l then { s.zone z with confirmed := (s.zone z).confirmed.drop c } else s.zone z)
      ∧ SameBut [.zones] s (l.foldl (fun s z => s.dropReport c z) s) := by
  obtain ⟨d1, d2⟩ := dropReports_spec c l s (by intro z hz; rcases h z hz with k | k <;> simp [k])
  refine ⟨?_, d2⟩
  intro z
  rw [d1]
  split
  · rename_i hz
    unfold droppedZone
    split
    · rcases h z hz with k | k <;> simp [k]
    · rename_i hn
      rw [Marks.drop_of_not_has _ _ (by simpa using hn)]
  · rfl

/-- Forced quiet of one channel that watches no ARC zone (R25). -/
theorem forceQuiet_spec {s : State} {c : ChanId}
    (h : (s.chan c).phase = .confirmed → ∀ y, (s.chanRec c).watches y = true → (s.zone y).prot ≠ .arc) :
    (∀ d, (s.forceQuiet c).chan d = if c = d then (s.chan c).forcedQuiet s.inForce.fast else s.chan d)
      ∧ (∀ y, (s.forceQuiet c).zone y =
          if (s.chan c).phase = .confirmed ∧ (s.chanRec c).watches y = true then droppedZone c (s.zone y) else s.zone y)
      ∧ SameBut [.zones, .channels] s (s.forceQuiet c) := by
  by_cases hc : (s.chan c).phase = .confirmed
  · have hq : ((s.chan c).forcedQuiet s.inForce.fast).isConfirmed = false := by
      simp only [Channel.forcedQuiet, hc]; split <;> simp [Channel.isConfirmed, Channel.freshWarmup, Channel.toQuiet]
    have e : s.forceQuiet c = (s.chanRec c).zones.foldl (fun s z => s.dropReport c z)
        (s.setChan c ((s.chan c).forcedQuiet s.inForce.fast)) := by
      unfold State.forceQuiet State.putChannel
      simp only [Channel.isConfirmed, hc] at hq ⊢
      simp [hq]
    rw [e]
    obtain ⟨d1, d2⟩ := dropReports_spec c (s.chanRec c).zones (s.setChan c ((s.chan c).forcedQuiet s.inForce.fast))
      (by intro z hz; rw [mem_zones] at hz; exact h hc z hz)
    refine ⟨?_, ?_, SameBut.trans (by simp [SameBut]) (d2.mono (by simp))⟩
    · intro d; rw [d2.chan]; simp
    · intro y; rw [d1]; simp [mem_zones, hc]
  · have hq : ((s.chan c).forcedQuiet s.inForce.fast).isConfirmed = false := by
      unfold Channel.forcedQuiet; cases hp : (s.chan c).phase <;> simp_all [Channel.isConfirmed, Channel.toQuiet]
    have e : s.forceQuiet c = s.setChan c ((s.chan c).forcedQuiet s.inForce.fast) := by
      apply putChannel_setChan; rw [hq]; simp [Channel.isConfirmed, hc]
    rw [e]
    refine ⟨by intro d; simp, by intro y; simp [hc], by simp [SameBut]⟩

/-- A zone after channels have left its set, which now is `m` (R51). -/
def leftBy (x : Zone) (m : Marks 24) : Zone :=
  if x.prot = .lit ∧ x.confirmed ≠ 0 ∧ m = 0 then { x with confirmed := 0 }.unlit .dark else { x with confirmed := m }

/-- A zone that no channel has left is as it was. -/
theorem leftBy_self (x : Zone) : leftBy x x.confirmed = x := by
  unfold leftBy; rw [if_neg (fun h => h.2.1 h.2.2)]

/-- Forced quiet of the channels of a list, in its order, of which none that is CONFIRMED watches an ARC zone (R25). -/
theorem forceQuiets_spec (l : List ChanId) (hn : l.Nodup) : ∀ s : State,
    (∀ c, c ∈ l → (s.chan c).phase = .confirmed → ∀ y, (s.chanRec c).watches y = true → (s.zone y).prot ≠ .arc) →
    (∀ d, (l.foldl (fun s c => s.forceQuiet c) s).chan d =
        if d ∈ l then (s.chan d).forcedQuiet s.inForce.fast else s.chan d)
      ∧ (∀ y d, ((l.foldl (fun s c => s.forceQuiet c) s).zone y).confirmed.has d =
          ((s.zone y).confirmed.has d
            && !decide (d ∈ l ∧ (s.chanRec d).watches y = true ∧ (s.chan d).phase = .confirmed)))
      ∧ (∀ y, (l.foldl (fun s c => s.forceQuiet c) s).zone y =
          leftBy (s.zone y) ((l.foldl (fun s c => s.forceQuiet c) s).zone y).confirmed)
      ∧ SameBut [.zones, .channels] s (l.foldl (fun s c => s.forceQuiet c) s) := by
  induction l with
  | nil =>
    intro s _
    refine ⟨by simp, by simp, ?_, SameBut.refl _ _⟩
    intro y; exact (leftBy_self _).symm
  | cons a l ih =>
    intro s h
    obtain ⟨n1, n2⟩ := List.nodup_cons.mp hn
    obtain ⟨f1, f2, f3⟩ := forceQuiet_spec (h a (List.mem_cons_self ..))
    have hne : ∀ d, d ∈ l → ¬ a = d := fun d hd e => n1 (e ▸ hd)
    have hch : ∀ d, d ∈ l → (s.forceQuiet a).chan d = s.chan d := fun d hd => by rw [f1, if_neg (hne d hd)]
    obtain ⟨i1, i2, i3, i4⟩ := ih n2 (s.forceQuiet a) (by
      intro c hc hp y hw
      rw [hch c hc] at hp; rw [f3.chanRec] at hw
      have := h c (List.mem_cons_of_mem _ hc) hp y hw
      rw [f2]; split
      · exact droppedZone_prot _ _ this
      · exact this)
    rw [List.foldl_cons]
    generalize hr : l.foldl (fun s c => s.forceQuiet c) (s.forceQuiet a) = r at *
    have hhas : ∀ y d, (r.zone y).confirmed.has d =
          ((s.zone y).confirmed.has d
            && !decide (d ∈ a :: l ∧ (s.chanRec d).watches y = true ∧ (s.chan d).phase = .confirmed)) := by
      intro y d
      rw [i2, f3.chanRec, f2]
      by_cases ed : a = d
      · subst ed
        simp only [n1, false_and, decide_false, Bool.not_false, Bool.and_true, List.mem_cons, true_or, true_and]
        by_cases hw : (s.chanRec a).watches y = true ∧ (s.chan a).phase = .confirmed
        · rw [if_pos ⟨hw.2, hw.1⟩, droppedZone_has]; simp [hw]
        · rw [if_neg (fun h => hw ⟨h.2, h.1⟩)]; simp [hw]
      · have : ((if (s.chan a).phase = .confirmed ∧ (s.chanRec a).watches y = true then droppedZone a (s.zone y)
            else s.zone y).confirmed.has d) = (s.zone y).confirmed.has d := by
          split
          · rw [droppedZone_has]; simp [ed]
          · rfl
        rw [this, f1, if_neg ed]; simp [Ne.symm ed]
    refine ⟨?_, hhas, ?_, f3.trans i4⟩
    · intro d
      rw [i1, f1, f3.inForce]
      by_cases ed : a = d
      · subst ed; simp [n1]
      · simp [ed, Ne.symm ed]
    · intro y
      rw [i3 y]
      have hsub : (s.forceQuiet a).zone y = droppedZone a (s.zone y) ∨ (s.forceQuiet a).zone y = s.zone y := by
        rw [f2]; split
        · exact .inl rfl
        · exact .inr rfl
      have hrc : (leftBy ((s.forceQuiet a).zone y) (r.zone y).confirmed).confirmed = (r.zone y).confirmed := by
        rw [← i3 y]
      rw [hrc]
      rcases hsub with e | e
      · rw [e]
        unfold droppedZone
        split
        · rename_i hha
          split
          · rename_i hl
            have hm : (r.zone y).confirmed = 0 := by
              apply Marks.ext; intro d; rw [Marks.has_zero, i2, e, droppedZone_has]
              have := congrArg (fun m : Marks 24 => m.has d) hl.2
              simp only [Marks.has_drop, Marks.has_zero] at this
              by_cases ed : a = d
              · simp [ed]
              · have h0 : (s.zone y).confirmed.has d = false := by simpa [ed] using this
                simp [h0]
            have hne0 : (s.zone y).confirmed ≠ 0 := by intro h0; rw [h0, Marks.has_zero] at hha; simp at hha
            rw [hm]; unfold leftBy; rw [if_neg (by simp [Zone.unlit]), if_pos ⟨hl.1, hne0, rfl⟩]
            rfl
          · rename_i hl
            have hne0 : (s.zone y).confirmed ≠ 0 := by intro h0; rw [h0, Marks.has_zero] at hha; simp at hha
            unfold leftBy
            by_cases hp : (s.zone y).prot = .lit
            · have hd0 : (s.zone y).confirmed.drop a ≠ 0 := fun h => hl ⟨hp, h⟩
              by_cases hr0 : (r.zone y).confirmed = 0
              · rw [if_pos ⟨hp, hd0, hr0⟩, if_pos ⟨hp, hne0, hr0⟩]
              · rw [if_neg (fun h => hr0 h.2.2), if_neg (fun h => hr0 h.2.2)]
            · rw [if_neg (fun h => hp h.1), if_neg (fun h => hp h.1)]
        · rfl
      · rw [e]

/-- Forced quiet of a channel, by its state (R25). -/
theorem forcedQuiet_cases (fast : Bool) (x : Channel) :
    (x.phase = .pickup ∨ (x.phase = .confirmed ∧ x.early = false) →
        x.forcedQuiet fast = { x with phase := .quiet, early := false, count := 0 })
    ∧ (x.phase = .confirmed → x.early = true → x.forcedQuiet fast = x.freshWarmup fast)
    ∧ (x.phase ≠ .pickup → x.phase ≠ .confirmed → x.forcedQuiet fast = x) := by
  unfold Channel.forcedQuiet; cases x.phase <;> simp [Channel.toQuiet]
  cases x.early <;> simp

/-- The end of a HELD zone's hold list, with its forced quiet (R25, R113). -/
theorem holdsEnded_leftHeld {s : State} {z : ZoneId} (hp : (s.zone z).prot = .held) (hh : (s.zone z).hasHold = false)
    (ha : ArcUntouched s z) :
    LeftHeld s (s.holdsEnded z) z ∧ SameBut [.zones, .channels] s (s.holdsEnded z) := by
  have h1 : s.holdsEnded z = (s.watchers z).foldl (fun s c => s.forceQuiet c) (s.enterDark z) := by
    simp [State.holdsEnded, hp]
  have hz : ∀ y, (s.enterDark z).zone y = if z = y then (s.zone z).unlit .dark else s.zone y := by
    intro y; simp [State.enterDark]
  have hb : SameBut [.zones] s (s.enterDark z) := by simp [SameBut, State.enterDark]
  obtain ⟨f1, f2, f3, f4⟩ := forceQuiets_spec (s.watchers z) (watchers_nodup s z) (s.enterDark z) (by
    intro c hc hcp y hy
    rw [mem_watchers] at hc; rw [hb.chan] at hcp; rw [hb.chanRec] at hy
    rw [hz]; split
    · simp [Zone.unlit]
    · exact ha c y hc hcp hy)
  rw [← h1] at f1 f2 f3 f4
  generalize hr : s.holdsEnded z = t at *
  simp only [mem_watchers, hb.chan, hb.chanRec, hb.inForce] at f1 f2
  have hzz : t.zone z = { (s.zone z).unlit .dark with confirmed := (t.zone z).confirmed } := by
    conv_lhs => rw [f3 z, hz]
    simp [leftBy, Zone.unlit]
  refine ⟨⟨?_, ?_, ?_, ?_, ?_⟩, (hb.mono (by simp)).trans f4⟩
  · rw [hzz]; rfl
  · rw [hzz]; exact hh
  · intro c
    rw [f1]
    obtain ⟨q1, q2, q3⟩ := forcedQuiet_cases s.inForce.fast (s.chan c)
    split
    · refine ⟨q1, ?_, q3⟩
      intro h1 h2; rw [q2 h1 h2]
      simp [FreshWarmup, Channel.freshWarmup, warmupLength]
    · rfl
  · intro y c
    rw [f2, hz]; split
    · rename_i e; subst e; simp [Zone.unlit]
    · rfl
  · intro y hy
    conv_lhs => rw [f3 y, hz, if_neg (Ne.symm hy)]
    rfl

theorem arcUntouched_congr {s t : State} {z : ZoneId} (h : ArcUntouched s z) (h1 : t.inForce = s.inForce)
    (h2 : t.channels = s.channels) (h3 : ∀ y, (t.zone y).prot = (s.zone y).prot) : ArcUntouched t z := by
  intro c y hw hc hy; rw [h3]
  simp only [State.chanRec, h1] at hw hy; simp only [State.chan, h2] at hc
  exact h c y hw hc hy

/-- `LeftHeld` speaks of the settings in force, the channels and the zones, and of zone `z` before only through its set. -/
theorem leftHeld_congr {s s' t t' : State} {z : ZoneId} (h : LeftHeld s t z) (h1 : s'.inForce = s.inForce)
    (h2 : s'.channels = s.channels) (h3 : ∀ y, y ≠ z → s'.zone y = s.zone y)
    (h4 : (s'.zone z).confirmed = (s.zone z).confirmed) (h5 : t'.channels = t.channels) (h6 : t'.zones = t.zones) :
    LeftHeld s' t' z := by
  unfold LeftHeld at *
  have hz : ∀ y, (s'.zone y).confirmed = (s.zone y).confirmed := by
    intro y; by_cases e : y = z
    · subst e; exact h4
    · rw [h3 y e]
  simp only [State.chanRec, State.chan, State.zone, h1, h2, h5, h6] at *
  simp only [hz]
  obtain ⟨a, b, c, d, e⟩ := h
  refine ⟨a, b, c, d, ?_⟩
  intro y hy
  rw [h3 y hy]; exact e y hy

end Sys2Proof.Machine
end

