-- ==== Sys2Proof/Laws/Close.lean ====
section
/-! SUPPORT. What the close of an order does to channels and the test batch (R71 step 4, R109, R131), the close of an order
whose zones are all unlit, whole, and the close at a drop report (R51, R70). -/

namespace Sys2Proof.Machine

open Sys2Proof Sys2Proof.Safety

/-- A release is as `Released` says. -/
theorem release_released (fast : Bool) (x : Channel) : Released fast x (x.release fast) := by
  unfold Channel.release
  refine ⟨fun h => by rw [if_neg h]; rfl, fun h => ?_⟩
  rw [if_pos h]
  simp [FreshWarmup, Channel.freshWarmup, warmupLength]

/-- The count of a channel does not matter to its release. -/
theorem release_countClear (fast : Bool) (x : Channel) : x.countClear.release fast = x.release fast := by
  unfold Channel.countClear; split <;> simp [Channel.release, Channel.toQuiet, Channel.freshWarmup]

theorem countClear_release (fast : Bool) (x : Channel) : (x.release fast).countClear = x.release fast := by
  unfold Channel.release Channel.countClear
  split <;> simp [Channel.toQuiet, Channel.freshWarmup]

theorem countClear_idem (x : Channel) : x.countClear.countClear = x.countClear := by
  unfold Channel.countClear; split <;> simp_all

/-- Zone `z` enters LIT when it leaves ARC (R71 step 4). -/
def entersLit (s : State) (z : ZoneId) : Prop :=
  (s.zone z).hasHold = false ∧ (s.zoneRec z).inUse = true ∧ (s.zone z).confirmed ≠ 0

/-- One zone leaves ARC: the batch and the channels after it. -/
theorem leaveArc_batch (s : State) (z : ZoneId) :
    (entersLit s z ∧ LitSuspends s z →
        (s.leaveArc z).batch = { suspendedByLight s.batch with quietTimer := s.batch.quietTimer }
          ∧ ∀ c, (s.leaveArc z).chan c =
            if s.batch.current = some c then (s.chan c).release s.inForce.fast else s.chan c)
    ∧ (¬ (entersLit s z ∧ LitSuspends s z) →
        (s.leaveArc z).batch = s.batch
          ∧ ∀ c, (s.leaveArc z).chan c =
            if (s.zone z).hasHold = true ∧ (s.chanRec c).watches z = true then (s.chan c).countClear else s.chan c) := by
  have hbody : ∀ t : State, t.batch = s.batch → t.channels = s.channels → t.inForce = s.inForce →
      (t.suspend .light).batch = { suspendedByLight s.batch with quietTimer := s.batch.quietTimer }
        ∧ ∀ c, (t.suspend .light).chan c =
            if s.batch.current = some c then (s.chan c).release s.inForce.fast else s.chan c := by
    intro t hb hc hf
    have hch : ∀ c, t.chan c = s.chan c := fun c => by simp [State.chan, hc]
    refine ⟨?_, ?_⟩
    · have := (releaseCurrent_same t).batch
      simp [State.suspend, suspendedByLight, Batch.cleared, stepCleared, this, hb]
    · intro c
      unfold State.suspend State.releaseCurrent
      rw [hb]
      cases hcur : s.batch.current with
      | none => simp [hch]
      | some d => simp [hch, hf]; by_cases e : d = c <;> simp [e]
  by_cases hh : (s.zone z).hasHold = true
  · refine ⟨fun h => by simp [entersLit, hh] at h, fun _ => ?_⟩
    obtain ⟨c1, c2⟩ := countClear_spec (s.setZone z { (s.zone z).unlit .held with heldLightSent := false }) z
    rw [State.leaveArc, if_pos hh, State.enterHeld]
    refine ⟨c2.batch, fun c => ?_⟩
    rw [c1]
    simp only [hh, true_and, State.setZone_chan]; rfl
  · by_cases hd : ((!(s.zoneRec z).inUse || (s.zone z).confirmed == 0) = true)
    · have hne : ¬ entersLit s z := by
        rintro ⟨_, h1, h2⟩
        simp only [h1, Bool.not_true, Bool.false_or, beq_iff_eq] at hd
        exact h2 hd
      refine ⟨fun h => absurd h.1 hne, fun _ => ?_⟩
      rw [State.leaveArc, if_neg hh, if_pos hd]
      simp [State.enterDark, hh]
    · have he : entersLit s z := by
        simp only [Bool.or_eq_true, Bool.not_eq_true', beq_iff_eq, not_or, Bool.not_eq_false] at hd
        exact ⟨by simpa using hh, hd.1, hd.2⟩
      rw [State.leaveArc, if_neg hh, if_neg hd, State.enterLit]
      generalize hw : s.setZone z { (s.zone z).unlit .lit with
        litSince := some s.stamp, alarmTimer := some (s.after lightAlarmTime) } = w
      have hwb : w.batch = s.batch := by rw [← hw]; rfl
      have hwc : w.channels = s.channels := by rw [← hw]; rfl
      have hwf : w.inForce = s.inForce := by rw [← hw]; rfl
      have hwr : ∀ d, w.chanRec d = s.chanRec d := fun d => by rw [← hw]; rfl
      have hkeep : ¬ LitSuspends s z → w.noteLit z = w := by
        intro hn
        unfold State.noteLit State.isTestZone
        rw [hwb]
        unfold LitSuspends at hn
        cases hst : s.batch.state <;> simp_all
        obtain ⟨d, hd1, hd2⟩ := hn
        simp [hd1, hd2]
      have hsusp : LitSuspends s z → w.noteLit z = w.suspend .light := by
        intro hn
        unfold State.noteLit State.isTestZone
        rw [hwb]
        rcases hn with hn | ⟨hn, hm⟩
        · simp [hn]
        · simp only [hn]
          cases hcur : s.batch.current with
          | none => simp
          | some d => simp [hwr]; intro h; exact absurd ⟨d, hcur, h⟩ hm
      refine ⟨fun h => ?_, fun h => ?_⟩
      · rw [hsusp h.2]; exact hbody w hwb hwc hwf
      · rw [hkeep (fun k => h ⟨he, k⟩)]
        refine ⟨hwb, fun c => ?_⟩
        simp [State.chan, hwc, hh]

/-- The zones of a list leave ARC: the batch and the channels after it. -/
theorem leaveArcs_batch (l : List ZoneId) : ∀ s : State,
    ((∃ z, z ∈ l ∧ entersLit s z ∧ LitSuspends s z) →
        (l.foldl (fun s z => s.leaveArc z) s).batch = { suspendedByLight s.batch with quietTimer := s.batch.quietTimer }
          ∧ ∀ c, s.batch.current = some c →
            (l.foldl (fun s z => s.leaveArc z) s).chan c = (s.chan c).release s.inForce.fast)
    ∧ (¬ (∃ z, z ∈ l ∧ entersLit s z ∧ LitSuspends s z) →
        (l.foldl (fun s z => s.leaveArc z) s).batch = s.batch)
    ∧ ∀ c, ¬ ((∃ z, z ∈ l ∧ entersLit s z ∧ LitSuspends s z) ∧ s.batch.current = some c) →
        (l.foldl (fun s z => s.leaveArc z) s).chan c =
          if ∃ z, z ∈ l ∧ (s.zone z).hasHold = true ∧ (s.chanRec c).watches z = true then (s.chan c).countClear
          else s.chan c := by
  induction l with
  | nil => intro s; simp
  | cons a l ih =>
    intro s
    have hs := leaveArc_same s a
    have hzone : ∀ y, ((s.leaveArc a).zone y).hasHold = (s.zone y).hasHold
        ∧ ((s.leaveArc a).zone y).confirmed = (s.zone y).confirmed := by
      intro y; rw [leaveArc_zone]; split
      · rename_i e; subst e; unfold leftArc; split <;> (try split) <;> exact ⟨rfl, rfl⟩
      · exact ⟨rfl, rfl⟩
    have hlit : ∀ y, entersLit (s.leaveArc a) y ↔ entersLit s y := by
      intro y; unfold entersLit; rw [(hzone y).1, (hzone y).2, hs.zoneRec]
    obtain ⟨b1, b2⟩ := leaveArc_batch s a
    obtain ⟨i1, i2, i3⟩ := ih (s.leaveArc a)
    simp only [List.foldl_cons]
    generalize hr : l.foldl (fun s z => s.leaveArc z) (s.leaveArc a) = r at *
    generalize hw : s.leaveArc a = w at *
    have hf : w.inForce = s.inForce := hs.inForce
    have hrec : ∀ c, w.chanRec c = s.chanRec c := fun c => hs.chanRec c
    by_cases ha : entersLit s a ∧ LitSuspends s a
    · obtain ⟨c1, c2⟩ := b1 ha
      have hno : ¬ ∃ z, z ∈ l ∧ entersLit w z ∧ LitSuspends w z := by
        rintro ⟨z, _, _, hl⟩
        unfold LitSuspends at hl; rw [c1] at hl; simp [suspendedByLight] at hl
      have hcur : w.batch.current = none := by rw [c1]; rfl
      have hex : ∃ z, z ∈ a :: l ∧ entersLit s z ∧ LitSuspends s z := ⟨a, List.mem_cons_self .., ha⟩
      have hn : (s.zone a).hasHold = false := ha.1.1
      refine ⟨fun _ => ⟨(i2 hno).trans c1, fun c hc => ?_⟩, fun h => absurd hex h, fun c hc => ?_⟩
      · rw [i3 c (fun h => hno h.1), c2, if_pos hc]
        split
        · exact countClear_release _ _
        · rfl
      · rw [i3 c (fun h => hno h.1), c2, if_neg (fun h => hc ⟨hex, h⟩)]
        simp only [(hzone _).1, hrec]
        refine if_congr ?_ rfl rfl
        constructor
        · rintro ⟨z, h1, h2⟩; exact ⟨z, List.mem_cons_of_mem _ h1, h2⟩
        · rintro ⟨z, h1, h2, h3⟩
          rcases List.mem_cons.mp h1 with rfl | h1
          · rw [hn] at h2; simp at h2
          · exact ⟨z, h1, h2, h3⟩
    · obtain ⟨c1, c2⟩ := b2 ha
      have hls : ∀ z, LitSuspends w z ↔ LitSuspends s z := by intro z; unfold LitSuspends; simp only [c1, hrec]
      have hex : (∃ z, z ∈ a :: l ∧ entersLit s z ∧ LitSuspends s z) ↔ ∃ z, z ∈ l ∧ entersLit w z ∧ LitSuspends w z := by
        simp only [hlit, hls]
        constructor
        · rintro ⟨z, h1, h2⟩
          rcases List.mem_cons.mp h1 with rfl | h1
          · exact absurd h2 ha
          · exact ⟨z, h1, h2⟩
        · rintro ⟨z, h1, h2⟩; exact ⟨z, List.mem_cons_of_mem _ h1, h2⟩
      rw [hex]
      refine ⟨fun h => ?_, fun h => (i2 h).trans c1, fun c hc => ?_⟩
      · obtain ⟨j1, j2⟩ := i1 h
        refine ⟨by rw [j1, c1], fun c hc => ?_⟩
        rw [j2 c (by rw [c1]; exact hc), c2, hf]
        split
        · exact release_countClear _ _
        · rfl
      · rw [i3 c (by rw [c1]; exact hc), c2]
        simp only [(hzone _).1, hrec]
        by_cases h1 : (s.zone a).hasHold = true ∧ (s.chanRec c).watches a = true
        · rw [if_pos h1, if_pos (⟨a, List.mem_cons_self .., h1⟩ :
            ∃ z, z ∈ a :: l ∧ (s.zone z).hasHold = true ∧ (s.chanRec c).watches z = true), countClear_idem, ite_self]
        · rw [if_neg h1]
          refine if_congr ?_ rfl rfl
          constructor
          · rintro ⟨z, h2, h3⟩; exact ⟨z, List.mem_cons_of_mem _ h2, h3⟩
          · rintro ⟨z, h2, h3⟩
            rcases List.mem_cons.mp h2 with rfl | h2
            · exact absurd h3 h1
            · exact ⟨z, h2, h3⟩

/-- The close of an order: the batch and the channels after it. -/
theorem closeOrder_batch {s : State} {o : SlotId} {x : Order} (hx : s.order o = some x) :
    ((∃ z, z ∈ x.zones ∧ entersLit s z ∧ LitSuspends s z) →
        (s.closeOrder o).batch = { suspendedByLight s.batch with quietTimer := s.batch.quietTimer }
          ∧ ∀ c, s.batch.current = some c → Released s.inForce.fast (s.chan c) ((s.closeOrder o).chan c))
    ∧ (¬ (∃ z, z ∈ x.zones ∧ entersLit s z ∧ LitSuspends s z) → (s.closeOrder o).batch = s.batch)
    ∧ ∀ c, ¬ ((∃ z, z ∈ x.zones ∧ entersLit s z ∧ LitSuspends s z) ∧ s.batch.current = some c) →
        (s.closeOrder o).chan c = countsCleared s x c := by
  obtain ⟨a1, a2⟩ := withdrawClaims_spec o x.ut.members (Marks.nodup_members _) s
  generalize h1 : x.ut.members.foldl (fun s u => s.withdrawClaim o u) s = s1 at a1
  obtain ⟨b1, b2⟩ := dropDemands_spec o x.entries (s1.seal (.arc (s1.arcRecord o x)))
  generalize h3 : x.entries.foldl (fun s e => s.dropDemand o e.breaker) (s1.seal (.arc (s1.arcRecord o x))) = t at b1
  have hclose : s.closeOrder o = (x.zones.foldl (fun s z => s.leaveArc z) t).setOrder o none := by
    simp only [State.closeOrder, hx, h1, h3]
  rw [hclose]
  have hs : SameBut [.ut, .records, .ports, .trips] s t :=
    (a1.mono (by simp)).trans (((seal_same _ _).mono (by simp)).trans (b1.mono (by simp)))
  obtain ⟨l1, l2, l3⟩ := leaveArcs_batch x.zones t
  have e1 : ∀ z, entersLit t z ↔ entersLit s z := by intro z; unfold entersLit; rw [hs.zone, hs.zoneRec]
  have e2 : ∀ z, LitSuspends t z ↔ LitSuspends s z := by intro z; unfold LitSuspends; simp only [hs.batch, hs.chanRec]
  simp only [e1, e2, hs.batch, hs.inForce, hs.chan, hs.chanRec, hs.zone] at l1 l2 l3
  simp only [State.setOrder_batch, State.setOrder_chan]
  refine ⟨fun h => ⟨(l1 h).1, fun c hc => ?_⟩, l2, fun c hc => ?_⟩
  · rw [(l1 h).2 c hc]; exact release_released _ _
  · rw [l3 c hc]
    unfold countsCleared Channel.countClear
    split <;> simp_all

/-- The close of an unlit order before its event's quiet timer is settled: the batch is kept, and with the timer settled the
close is whole. -/
def ClosedRaw (s t : State) (o : SlotId) (x : Order) : Prop :=
  t.batch = s.batch ∧ ClosedUnlit s (t.setBatch (quietSettled s t)) o x

/-- The close of an unlit order with the quiet timer settled (R134). -/
theorem closedUnlit_settleQuiet {s t : State} {o : SlotId} {x : Order} (h : ClosedRaw s t o x) :
    ClosedUnlit s t.settleQuiet o x := by
  have hn : t.now = s.now := h.2.2.2.2.2.2.2.2.2.2.2.1
  rw [settleQuiet_settled h.1 hn]; exact h.2

/-- An order whose zones are all unlit closes as `ClosedUnlit` says. -/
theorem closedRaw {s : State} {o : SlotId} {x : Order} (hy : s.order o = some x)
    (hu : ∀ z, z ∈ x.zones → (s.zone z).confirmed = 0) : ClosedRaw s (s.closeOrder o) o x := by
  obtain ⟨a1, a2, a3, a4, a5, a6⟩ := closeOrder_spec hy
  obtain ⟨_, b1, b2⟩ := closeOrder_batch hy
  have hno : ¬ ∃ z, z ∈ x.zones ∧ entersLit s z ∧ LitSuspends s z := by
    rintro ⟨z, h1, h2, _⟩; exact h2.2.2 (hu z h1)
  have hz : ∀ z, z ∈ x.zones → leftArc s z =
      if (s.zone z).hasHold then { (s.zone z).unlit .held with heldLightSent := false } else (s.zone z).unlit .dark := by
    intro z hz; unfold leftArc; simp [hu z hz]
  refine ⟨b1 hno, a1.congr rfl rfl rfl rfl rfl rfl rfl, ?_, ?_, ?_, a3, ?_, ?_, ?_, rfl, a6.trans (by simp [SameBut])⟩
  · simp [State.order, a5]
  · intro q hq; simp [State.order, a5, Ne.symm hq]
  · intro u; rw [State.setBatch_utLine, a4]; simp only [Marks.mem_members, withdrawn]
    split
    · split
      · rename_i h; simp [UtLine.released, h.1]
      · rfl
    · rfl
  · intro z hm
    rw [State.setBatch_zone, a2, if_pos hm, hz z hm]
    split <;> simp_all [Zone.unlit]
  · intro z hm; rw [State.setBatch_zone, a2, if_neg hm]
  · intro c; exact b2 c (fun h => hno h.1)

/-- The close of the order that a slot holds, whatever the slot held before. -/
theorem closedRaw_of_setOrder {s t : State} {o : SlotId} {x : Order} {y : Option Order}
    (h : ClosedRaw (s.setOrder o y) t o x) : ClosedRaw s t o x := by
  obtain ⟨k0, k1, k2, k3, k4, k5, k6, k7, k8, k9, k10⟩ := h
  refine ⟨k0, k1, k2, fun q hq => ?_, k4, k5, k6, k7, k8, k9, SameBut.trans (by simp [SameBut]) k10⟩
  exact (k3 q hq).trans (by rw [State.setOrder_order, if_neg (Ne.symm hq)])

/-- What the resolution test of an order reads (R69). -/
theorem orderResolved_iff (s : State) (x : Order) : s.orderResolved x = true ↔ Complete s x := by
  simp [State.orderResolved, Complete, List.all_eq_true, Marks.mem_members, Option.isSome_iff_ne_none]

/-- The resolution test of an order that is not resolved, with the close that may follow (R69, R70, R71). -/
theorem testResolved_tested {s : State} {o : SlotId} {x : Order} (hr : x.resolution = none) (hq : QuietOk s) :
    Tested s ((s.setOrder o (some x)).testResolved o).settleQuiet o x := by
  have hquiet : ∀ y, (s.setOrder o y).settleQuiet = s.setOrder o y :=
    fun y => settleQuiet_of_quietOk _ (hq.of_eq (by simp) (by simp))
  have hres : (s.setOrder o (some x)).orderResolved x = s.orderResolved x := rfl
  have hun : ∀ y : Order, (s.setOrder o (some y)).orderUnlit x = true ↔ ∀ z, z ∈ x.zones → (s.zone z).confirmed = 0 := by
    intro y; simp [State.orderUnlit, List.all_eq_true]
  unfold State.testResolved
  rw [State.setOrder_order, if_pos rfl]
  simp only [hres, hr, Option.isNone_none, Bool.true_and, State.setOrder_setOrder]
  refine ⟨fun h => ?_, fun h ⟨z, hz1, hz2⟩ => ?_, fun h hz => ?_⟩
  · rw [if_neg (fun k => h ((orderResolved_iff s x).mp k)), hquiet]
  · rw [if_pos ((orderResolved_iff s x).mpr h), if_neg (fun k => hz2 ((hun _).mp k z hz1)), hquiet]
    simp [State.after, closeTime, ms]
  · rw [if_pos ((orderResolved_iff s x).mpr h), if_pos ((hun _).mpr hz)]
    refine closedUnlit_settleQuiet (closedRaw_of_setOrder (closedRaw (by simp) ?_))
    simpa using hz

/-! ### The close at a drop report (R51, R70) -/

/-- A zone outside an order changed in the same way before and after the order's close. -/
theorem closedRaw_setZone {s t : State} {o : SlotId} {x : Order} (h : ClosedRaw s t o x) {z : ZoneId} (hz : z ∉ x.zones)
    (y : Zone) (hh : y.hasHold = (s.zone z).hasHold) : ClosedRaw (s.setZone z y) (t.setZone z y) o x := by
  obtain ⟨k0, k1, k2, k3, k4, k5, k6, k7, k8, k9, k10⟩ := h
  have hne : ∀ w, w ∈ x.zones → z ≠ w := fun w hw e => hz (e ▸ hw)
  refine ⟨k0, k1.congr rfl rfl rfl rfl rfl rfl rfl, k2, k3, k4, k5, fun w hw => ?_, fun w hw => ?_, fun c => ?_, rfl, ?_⟩
  · simp only [State.setBatch_zone] at k6 ⊢
    rw [State.setZone_zone, State.setZone_zone, if_neg (hne w hw), if_neg (hne w hw)]; exact k6 w hw
  · simp only [State.setBatch_zone] at k7 ⊢
    rw [State.setZone_zone, State.setZone_zone]; split
    · rfl
    · exact k7 w hw
  · have e : countsCleared (s.setZone z y) x c = countsCleared s x c := by
      unfold countsCleared
      refine if_congr (and_congr_left' (exists_congr fun w => ?_)) rfl rfl
      rw [State.setZone_zone]; split
      · rename_i e; subst e; rw [hh]; rfl
      · rfl
    rw [e]; exact k8 c
  · exact SameBut.trans (t := s) (by simp [SameBut]) (k10.trans (by simp [SameBut]))

/-- The zones of `l` with channel `c` out of their sets. -/
def dropped (c : ChanId) (l : List ZoneId) (s : State) : State :=
  l.foldl (fun s z => s.setZone z (droppedZone c (s.zone z))) s

theorem dropped_spec (c : ChanId) (l : List ZoneId) : ∀ s : State,
    (∀ z, (dropped c l s).zone z = if z ∈ l then droppedZone c (s.zone z) else s.zone z)
      ∧ SameBut [.zones] s (dropped c l s) := by
  induction l with
  | nil => intro s; simp [SameBut, dropped]
  | cons a l ih =>
    intro s
    obtain ⟨i1, i2⟩ := ih (s.setZone a (droppedZone c (s.zone a)))
    refine ⟨fun z => ?_, SameBut.trans (by simp [SameBut]) i2⟩
    show (dropped c l (s.setZone a (droppedZone c (s.zone a)))).zone z = _
    rw [i1, State.setZone_zone]
    by_cases e : a = z
    · subst e; simp [droppedZone_idem]
    · simp [e, Ne.symm e]

theorem droppedZone_hasHold (c : ChanId) (x : Zone) : (droppedZone c x).hasHold = x.hasHold := by
  unfold droppedZone; split
  · split <;> rfl
  · rfl

/-- Drop reports after the close of an order, for zones that it did not have or that are unlit. -/
theorem dropReports_closed (c : ChanId) {o : SlotId} {x : Order} (l : List ZoneId) : ∀ s t : State, ClosedRaw s t o x →
    (∀ z, z ∈ x.zones → (s.zone z).confirmed = 0) → (∀ z, z ∈ l → z ∉ x.zones → (s.zone z).prot ≠ .arc) →
    ClosedRaw (dropped c l s) (l.foldl (fun s z => s.dropReport c z) t) o x := by
  induction l with
  | nil => intro s t h _ _; exact h
  | cons a l ih =>
    intro s t h hu hn
    show ClosedRaw (dropped c l (s.setZone a (droppedZone c (s.zone a)))) (l.foldl _ (t.dropReport c a)) o x
    by_cases ha : a ∈ x.zones
    · have e1 : droppedZone c (s.zone a) = s.zone a := by
        unfold droppedZone; rw [hu a ha]; simp
      have e2 : t.dropReport c a = t := by
        unfold State.dropReport; rw [(show (t.zone a).confirmed = 0 from (h.2.2.2.2.2.2.1 a ha).2.2.2.2.1)]; simp
      rw [e1, e2, State.setZone_self]
      exact ih s t h hu (fun z hz => hn z (by simp [hz]))
    · have hz : t.zone a = s.zone a := h.2.2.2.2.2.2.2.1 a ha
      have hp := hn a (by simp) ha
      have e2 : t.dropReport c a = t.setZone a (droppedZone c (s.zone a)) := by
        rw [dropReport_eq (fun _ _ k => absurd k (by rw [hz]; exact hp)), hz]
      rw [e2]
      refine ih _ _ (closedRaw_setZone h ha _ (droppedZone_hasHold c _)) ?_ ?_
      · intro z hz'
        have hne : ¬ a = z := fun e => ha (e ▸ hz')
        rw [State.setZone_zone, if_neg hne]; exact hu z hz'
      · intro z hz' hz2
        rw [State.setZone_zone]; split
        · exact droppedZone_prot c _ hp
        · exact hn z (by simp [hz']) hz2

/-- Drop reports of the one channel that lights the zones of a resolved order: the order closes (R70). -/
theorem dropReports_closes (c : ChanId) {o : SlotId} {x : Order} (l : List ZoneId) : ∀ s : State,
    s.order o = some x → x.resolution ≠ none →
    (∀ y, y ∈ l → y ∈ x.zones → (s.zone y).prot = .arc ∧ (s.zone y).orderSlot = some o) →
    (∀ y, y ∈ l → y ∉ x.zones → (s.zone y).prot ≠ .arc) →
    (∀ y d, y ∈ x.zones → (s.zone y).confirmed.has d = true → d = c ∧ y ∈ l) →
    (∃ y, y ∈ x.zones ∧ (s.zone y).confirmed.has c = true) →
    ClosedRaw (dropped c l s) (l.foldl (fun s z => s.dropReport c z) s) o x := by
  induction l with
  | nil => intro s _ _ _ _ h1 ⟨y, h2, h3⟩; exact absurd (h1 y c h2 h3).2 (by simp)
  | cons a l ih =>
    intro s hx hr h1 h2 h3 h4
    show ClosedRaw (dropped c l (s.setZone a (droppedZone c (s.zone a)))) (l.foldl _ (s.dropReport c a)) o x
    have hz : ∀ y, ((s.setZone a (droppedZone c (s.zone a))).zone y)
        = if a = y then droppedZone c (s.zone y) else s.zone y := by
      intro y; rw [State.setZone_zone]; split
      · rename_i e; rw [e]
      · rfl
    have hhas : ∀ y d, y ∈ x.zones → ((s.setZone a (droppedZone c (s.zone a))).zone y).confirmed.has d = true →
        d = c ∧ y ∈ l ∧ (s.zone y).confirmed.has d = true := by
      intro y d hy hd
      rw [hz] at hd
      split at hd
      · rename_i e
        rw [droppedZone_has] at hd
        simp only [Bool.and_eq_true, Bool.not_eq_true', decide_eq_false_iff_not] at hd
        exact absurd (h3 y d hy hd.1).1.symm hd.2
      · rename_i e
        obtain ⟨k1, k2⟩ := h3 y d hy hd
        exact ⟨k1, (List.mem_cons.mp k2).resolve_left (Ne.symm e), hd⟩
    have hkeep : ∀ y, y ∈ x.zones → y ∈ l → ((s.setZone a (droppedZone c (s.zone a))).zone y).prot = .arc
        ∧ ((s.setZone a (droppedZone c (s.zone a))).zone y).orderSlot = some o := by
      intro y hy hl
      have := h1 y (by simp [hl]) hy
      rw [hz]; split
      · unfold droppedZone; split
        · rw [if_neg (by simp [this.1])]; exact this
        · exact this
      · exact this
    have hnot : ∀ y, y ∈ l → y ∉ x.zones → ((s.setZone a (droppedZone c (s.zone a))).zone y).prot ≠ .arc := by
      intro y hl hy
      have := h2 y (by simp [hl]) hy
      rw [hz]; split
      · exact droppedZone_prot c _ this
      · exact this
    by_cases hu : ∀ y, y ∈ x.zones → ((s.setZone a (droppedZone c (s.zone a))).zone y).confirmed = 0
    · -- this report is the last of the order
      have ha : a ∈ x.zones ∧ (s.zone a).confirmed.has c = true := by
        obtain ⟨y, hy, hc⟩ := h4
        have k := hu y hy
        by_cases e : a = y
        · subst e; exact ⟨hy, hc⟩
        · rw [hz, if_neg e] at k; rw [k, Marks.has_zero] at hc; simp at hc
      obtain ⟨p1, p2⟩ := h1 a (by simp) ha.1
      have h0 : (s.zone a).confirmed.drop c = 0 := by
        have k := hu a ha.1
        rw [hz, if_pos rfl] at k
        unfold droppedZone at k
        rw [if_pos ha.2, if_neg (by simp [p1])] at k; exact k
      have hd : droppedZone c (s.zone a) = { s.zone a with confirmed := 0 } := by
        unfold droppedZone; rw [if_pos ha.2, if_neg (by simp [p1]), h0]
      have e2 : s.dropReport c a = (s.setZone a (droppedZone c (s.zone a))).closeOrder o := by
        have hun : (s.setZone a { s.zone a with confirmed := 0 }).orderUnlit x = true := by
          unfold State.orderUnlit; rw [List.all_eq_true]; intro y hy; rw [← hd, hu y hy]; rfl
        rw [hd]
        unfold State.dropReport
        rw [if_pos ha.2]
        simp only [State.setZone_zone, if_true, h0]
        unfold State.darkenedAt
        simp only [State.setZone_zone, if_true, p1, p2, State.testDarkClose, State.setZone_order, hx]
        simp only [p1, p2] at hun ⊢
        simp only [hun, Option.isSome_iff_ne_none.mpr hr, Bool.and_self, if_true]
      rw [e2]
      have hx' : (s.setZone a (droppedZone c (s.zone a))).order o = some x := hx
      exact dropReports_closed c l _ _ (closedRaw hx' hu) hu hnot
    · obtain ⟨y, hy, hd, hl, hc⟩ : ∃ y, y ∈ x.zones ∧ a ≠ y ∧ y ∈ l ∧ (s.zone y).confirmed.has c = true := by
        push Not at hu
        obtain ⟨y, hy, hne⟩ := hu
        obtain ⟨d, hd⟩ : ∃ d, ((s.setZone a (droppedZone c (s.zone a))).zone y).confirmed.has d = true := by
          by_contra hn
          push Not at hn
          exact hne (Marks.ext fun i => by rw [Marks.has_zero]; simpa using hn i)
        obtain ⟨rfl, k2, k3⟩ := hhas y d hy hd
        refine ⟨y, hy, ?_, k2, k3⟩
        rintro rfl
        rw [hz, if_pos rfl, droppedZone_has] at hd; simp at hd
      rw [dropReport_eq]
      · refine ih _ hx hr (fun w k1 k2 => hkeep w k2 k1) hnot (fun w d k1 k2 => ?_) ⟨y, hy, ?_⟩
        · exact ⟨(hhas w d k1 k2).1, (hhas w d k1 k2).2.1⟩
        · rw [hz, if_neg hd]; exact hc
      · intro o' x' q1 q2 q3
        by_cases ha : a ∈ x.zones
        · rw [(h1 a (by simp) ha).2] at q2; cases q2
          rw [hx] at q3; cases q3
          exact .inr ⟨y, c, hy, .inr (Ne.symm hd), hc⟩
        · exact absurd q1 (h2 a (by simp) ha)

/-- A channel that leaves CONFIRMED (R22, R51, R70, R71). -/
theorem putChannel_dropsTo {s : State} {c : ChanId} {y : Channel} (hc : (s.chan c).phase = .confirmed)
    (hy : y.phase ≠ .confirmed) : DropsTo s c y (.next (s.putChannel c (s.chanRec c).zones y).settleQuiet) := by
  have e0 : s.putChannel c (s.chanRec c).zones y
      = (s.chanRec c).zones.foldl (fun s z => s.dropReport c z) (s.setChan c y) := by
    simp [State.putChannel, Channel.isConfirmed, hc, hy]
  rw [e0]
  have hgone : ∀ u : State,
      (∀ z, u.zone z = if z ∈ (s.chanRec c).zones then droppedZone c ((s.setChan c y).zone z) else (s.setChan c y).zone z) →
      SameBut [.zones, .batch] (s.setChan c y) u → LightGone s u c y := by
    intro u h1 h2
    refine ⟨by rw [h2.chan]; simp, fun d hd => by rw [h2.chan]; simp [Ne.symm hd], fun z => ?_⟩
    rw [h1]
    simp only [mem_zones, State.setChan_zone, droppedZone]
    by_cases a : (s.chanRec c).watches z = true <;> by_cases b : (s.zone z).confirmed.has c = true <;>
      simp only [a, b, if_true, if_false, and_self, and_true, Bool.false_eq_true, and_false]
    rfl
  refine ⟨fun h => ?_, fun o x hx hr ⟨w, hw1, hw2⟩ h1 h2 h3 => ?_⟩
  · obtain ⟨k1, k2⟩ := dropReports_keep c (s.chanRec c).zones (s.setChan c y)
      (fun z hz o x q1 q2 q3 => h z o x ((mem_zones _ _).mp hz) q1 q2 q3)
    rw [settleQuiet_settled (s := s) (k2.batch) k2.now]
    refine ⟨_, rfl, hgone _ (fun z => by rw [State.setBatch_zone, k1]) ((k2.mono (by simp)).trans (by simp [SameBut])), rfl, ?_⟩
    · exact SameBut.trans (t := s.setChan c y) (by simp [SameBut]) ((k2.mono (by simp)).trans (by simp [SameBut]))
  · have := dropReports_closes c (s.chanRec c).zones (s.setChan c y) (o := o) hx hr
      (fun z hz hm => ⟨(h1 z ((mem_zones _ _).mp hz) hm).1, (h1 z ((mem_zones _ _).mp hz) hm).2.1⟩)
      (fun z hz => h2 z ((mem_zones _ _).mp hz)) (fun z d hz hd => (h3 z d hz hd).imp id (mem_zones _ _).mpr)
      ⟨w, hw2, (h1 w hw1 hw2).2.2⟩
    obtain ⟨k1, k2⟩ := dropped_spec c (s.chanRec c).zones (s.setChan c y)
    exact ⟨_, _, rfl, hgone _ k1 (k2.mono (by simp)),
      SameBut.trans (t := s.setChan c y) (by simp [SameBut]) (k2.mono (by simp)), closedUnlit_settleQuiet this⟩

end Sys2Proof.Machine
end

