-- ==== Sys2Proof/Laws/Confirm.lean ====
section
/-! SUPPORT. The sample that confirms a channel, with its report to the zone (R14, R15, R20, R22, R50). -/

namespace Sys2Proof.Machine

open Sys2Proof Sys2Proof.Safety

/-- A sample that confirms a channel makes its report to its zone (R14, R15, R20, R22). -/
theorem okArrival_confirms {s : State} {c : ChanId} {v : Nat} {z : ZoneId} (h : Confirms s c v z) :
    s.okArrival c v = (s.setChan c (confirmedBy s.stamp v (s.chan c))).confirmReport c z := by
  obtain ⟨_, _, _, hk, h4, h5, _, _⟩ := h
  have hz : (s.chanRec c).zones = [z] := by simp [ChannelRecord.zones, h4, h5]
  have hc : ∀ x : Channel, (confirmedBy s.stamp v x).isConfirmed = true := by
    intro x; unfold confirmedBy Channel.isConfirmed; split <;> (try split) <;> rfl
  have key : (s.chan c).okSample (s.chanRec c) s.inForce.fast s.stamp v = confirmedBy s.stamp v (s.chan c)
      ∧ (s.chan c).phase ≠ .testing ∧ (s.chan c).isConfirmed = false := by
    rcases hk with ⟨hp, h1, h2⟩ | ⟨hp, h1, h2⟩ | ⟨hp, rfl⟩
    · exact ⟨okSample_pickup_confirm hp h1 h2, by simp [hp], by simp [Channel.isConfirmed, hp]⟩
    · exact ⟨okSample_quiet_confirm hp h1 h2, by simp [hp], by simp [Channel.isConfirmed, hp]⟩
    · exact ⟨okSample_warmup_confirm hp, by simp [hp], by simp [Channel.isConfirmed, hp]⟩
  rw [okArrival_of_not_testing key.2.1, key.1]
  simp [State.putChannel, hz, key.2.2, hc]

/-- A confirmation at a DARK zone whose current condition is not met: the zone enters LIT, and that is all but for the test
engine (R50, R56, R131). -/
theorem okArrival_lights {s : State} {c : ChanId} {v : Nat} {z : ZoneId} (h : Confirms s c v z)
    (hp : (s.zone z).prot = .dark) (hc : s.currentCondition z = false) :
    s.okArrival c v =
      ((s.setChan c (confirmedBy s.stamp v (s.chan c))).setZone z (litBy c s.stamp s.now (s.zone z))).noteLit z := by
  rw [okArrival_confirms h]
  obtain ⟨_, _, _, _, _, _, h6, h7⟩ := h
  have hcc : ∀ t : State, t.currentCondition z = s.currentCondition z → t.evaluate z = t := by
    intro t ht; unfold State.evaluate; rw [ht, hc]; simp
  unfold State.confirmReport
  simp only [State.setChan_zone, h7, Bool.false_eq_true, if_false, State.setChan_zoneRec, h6, if_true]
  unfold State.confirmedAt
  simp only [State.setZone_zone, if_true, hp]
  rw [hcc]
  · simp [State.enterLit, litBy, Zone.unlit, State.after, lightAlarmTime, ms]
  · have hn := enterLit_same ((s.setChan c (confirmedBy s.stamp v (s.chan c))).setZone z
      { s.zone z with prot := .dark, confirmed := (s.zone z).confirmed.add c }) z
    exact currentCondition_congr (hn.inForce.trans rfl) (hn.inputs.trans rfl) z

end Sys2Proof.Machine
end

