-- ==== Sys2Proof/Laws/Create.lean ====
section
/-! SUPPORT. The outcomes of an evaluation of a LIT zone whose current condition is met, whole: an order created, an order
joined, and a NO_SOURCE record (R56 to R59). -/

namespace Sys2Proof.Machine

open Sys2Proof Sys2Proof.Safety

/-! ### What the statements' terms read -/

theorem demanded_congr {ps : List Part} {s s' t : State} {o : SlotId} {l : List BreakerId} (h : Demanded s' t o l)
    (k : SameBut ps s s') (h1 : Part.mode ∉ ps := by decide) (h2 : Part.sets ∉ ps := by decide)
    (h3 : Part.trips ∉ ps := by decide) (h4 : Part.lockout ∉ ps := by decide) : Demanded s t o l := by
  have e : ∀ b, drivenFor s' o b = drivenFor s o b := by
    intro b; unfold drivenFor; rw [k.trip b h3, k.breakerRec b h1 h2, k.now]
  refine ⟨fun b hb => ?_, fun b hb => ?_⟩
  · rw [← e]; exact h.1 b hb
  · rw [← k.trip b h3, ← k.locked b h4]; exact h.2 b hb

theorem created_congr {ps : List Part} {s s' t : State} {z : ZoneId} {o : SlotId} {l : List BreakerId}
    (h : Created s' t z o l) (k : SameBut ps s s') (h1 : Part.mode ∉ ps := by decide) (h2 : Part.sets ∉ ps := by decide)
    (h3 : Part.trips ∉ ps := by decide) (h4 : Part.lockout ∉ ps := by decide) (h5 : Part.orders ∉ ps := by decide)
    (h6 : Part.time ∉ ps := by decide) (h7 : Part.sup ∉ ps := by decide) : Created s t z o l := by
  obtain ⟨c1, c2, c3⟩ := h
  refine ⟨?_, ?_, demanded_congr c3 k h1 h2 h3 h4⟩
  · have e : s.breakerRec = s'.breakerRec := funext fun b => (k.breakerRec b h1 h2).symm
    rw [c1, e, k.zoneRec z h1 h2, island_congr (k.inForce h1 h2), k.stamp h6, k.sup h7, k.time h6]
  · intro q hq; rw [c2 q hq, k.order q h5]

/-! ### The demands of one event -/

/-- The demand queue of a list of IDLE breakers, with no outcome of them to clear (R62, R63, R86, R91). -/
theorem demandQueue_demanded {s : State} {o : SlotId} {l : List BreakerId} (hn : l.Nodup) (hs : s.inService = true)
    (hi : ∀ b, b ∈ l → (s.trip b).phase = .idle) (hu : ∀ q b, b ∈ l → Untouched s o q b) :
    (∀ q, (s.demandQueue o l).order q = s.order q) ∧ Demanded s (s.demandQueue o l) o l
      ∧ SameBut [.trips, .orders, .lockout] s (s.demandQueue o l) := by
  obtain ⟨d1, d2, d3, d4, d5, d6⟩ := demandAll_idle_spec o l s hn hi
  rw [demandQueue_of_nil d1]
  refine ⟨fun q => d5 q (hu q),
    ⟨fun b hb => ⟨d2 b hb, by rw [d4]; simp [hb], ?_⟩, fun b hb => ⟨d3 b hb, by rw [d4]; simp [hb]⟩⟩, d6⟩
  simp [State.tripLine, d6.inService, hs, d2 b hb, drivenFor, TripPhase.driven]

/-- A queue of IDLE breakers, however far into an event (R86). -/
theorem runQueue_idle {s : State} {o : SlotId} {l : List BreakerId} (n : Nat) (hn : l.Nodup)
    (hi : ∀ b, b ∈ l → (s.trip b).phase = .idle) : s.runQueue o n l = s.demandQueue o l := by
  have h := (demandAll_idle_spec o l s hn hi).1
  rw [demandQueue_of_nil h]
  cases n with
  | zero => rfl
  | succ n => simp [State.runQueue, h]

/-- Breakers of an order's list, IDLE and in no demand set, demanded by it while it holds no outcome of them. -/
theorem demandQueue_fresh {s : State} {o : SlotId} {y : Order} {l : List BreakerId} (hs : s.inService = true)
    (hn : l.Nodup) (hi : ∀ b, b ∈ l → (s.trip b).phase = .idle ∧ (s.trip b).demands = 0)
    (hy : ∀ e, e ∈ y.entries → e.breaker ∈ l → e.outcome = none) :
    (∀ q, ((s.setOrder o (some y)).demandQueue o l).order q = if o = q then some y else s.order q)
      ∧ Demanded s ((s.setOrder o (some y)).demandQueue o l) o l
      ∧ SameBut [.trips, .orders, .lockout] s ((s.setOrder o (some y)).demandQueue o l) := by
  have k : SameBut [.orders] s (s.setOrder o (some y)) := by simp [SameBut]
  obtain ⟨d1, d2, d3⟩ := demandQueue_demanded (s := s.setOrder o (some y)) (o := o) hn (by simpa using hs)
    (fun b hb => by simpa using (hi b hb).1) (fun q b hb => by
      by_cases e : q = o
      · subst e
        refine .inl fun z hz f hf hfb => hy f ?_ (hfb ▸ hb)
        rw [State.setOrder_order, if_pos rfl] at hz; cases hz; exact hf
      · exact .inr ⟨e, by simp [(hi b hb).2]⟩)
  exact ⟨fun q => by rw [d1, State.setOrder_order], demanded_congr d2 k, (k.mono (by simp)).trans d3⟩

/-! ### An order's span grown (R80) -/

/-- The order `x` grown by the island of `far` (R80). -/
def grown (s : State) (x : Order) (far : ZoneId) : Order :=
  let new := s.missing x (x.span ||| s.island far)
  { x with
    span := x.span ||| s.island far, level := x.level + 1, entries := x.entries ++ new.map (openEntry (x.level + 1))
    resolution := if new = [] then x.resolution else none, closeTimer := if new = [] then x.closeTimer else none }

theorem growSpan_eq (s : State) (o : SlotId) (x : Order) (far : ZoneId) :
    s.growSpan o x far = (s.setOrder o (some (grown s x far)), s.missing x (x.span ||| s.island far)) := by
  have e : s.missing { x with span := x.span ||| s.island far, level := x.level + 1 } (x.span ||| s.island far)
      = s.missing x (x.span ||| s.island far) := rfl
  simp only [State.growSpan, e]
  congr 3
  unfold grown Order.append
  by_cases h : s.missing x (x.span ||| s.island far) = []
  · simp [h]
  · simp [h, Order.withdrawn, openEntry]

theorem missing_nodup (s : State) (x : Order) (m : Marks 12) : (s.missing x m).Nodup := (tripSet_nodup s m).filter _

theorem not_listed_of_missing {s : State} {x : Order} {m : Marks 12} {b : BreakerId} (h : b ∈ s.missing x m) :
    ∀ e, e ∈ x.entries → e.breaker ≠ b := by
  have := (List.mem_filter.mp h).2
  simpa [Order.lists] using this

/-- The entries appended to a grown order are open. -/
theorem grown_open {s : State} {x : Order} {far : ZoneId} (e : Entry) (he : e ∈ (grown s x far).entries)
    (hb : e.breaker ∈ s.missing x (x.span ||| s.island far)) : e.outcome = none := by
  rcases List.mem_append.mp he with he | he
  · exact absurd rfl (not_listed_of_missing hb e he)
  · obtain ⟨_, _, rfl⟩ := List.mem_map.mp he; rfl

/-! ### A demand at a breaker that is not IDLE (Table 3-6) -/

/-- A single demand, whose escalation appended the breakers `added`, IDLE. -/
theorem demandQueue_single {s u : State} {o : SlotId} {b : BreakerId} {added : List BreakerId}
    (h : s.demand o b = (u, added)) (hn : added.Nodup) (hi : ∀ a, a ∈ added → (u.trip a).phase = .idle) :
    s.demandQueue o [b] = u.demandQueue o added := by
  have e : s.demandAll o [b] = (u, added) := by simp [State.demandAll, h]
  have := runQueue_idle (s := u) (o := o) 1 hn hi
  unfold State.demandQueue at this ⊢
  rw [State.runQueue, e]
  cases added with
  | nil => simp [State.runQueue, State.demandAll]
  | cons a l => simpa using this

/-- A demand of order `x`, put in slot `o`, at a breaker that is neither IDLE nor OPEN, while another entry is open
(Table 3-6). -/
theorem demandQueue_taken {s : State} {o : SlotId} {x : Order} {b : BreakerId} (hs : s.inService = true) (hq : QuietOk s)
    (hb : (s.trip b).phase ≠ .idle) (hopen : s.isOpen b = false) (hl : ∃ e, e ∈ x.entries ∧ e.breaker = b)
    (he : ∃ e, e ∈ x.entries ∧ e.breaker ≠ b ∧ e.outcome = none) :
    DemandTaken s (.next ((s.setOrder o (some x)).demandQueue o [b]).settleQuiet) o x b := by
  have hquiet : ∀ t : State, t.batch = s.batch → (∀ z, t.zone z = s.zone z) → t.settleQuiet = t := by
    intro t h1 h2; exact settleQuiet_of_quietOk _ (hq.of_eq h1 (by simp only [State.anyBright, h2]))
  unfold DemandTaken
  dsimp only
  generalize hj : s.setTrip b { s.trip b with demands := (s.trip b).demands.add o } = j
  have hadd : (s.setOrder o (some x)).addDemand o b = j.setOrder o (some x) := by
    subst hj; simp only [State.addDemand, State.setOrder_trip]; rfl
  have hjs : SameBut [.trips] s j := by subst hj; simp [SameBut]
  have hjb : (j.trip b).phase = (s.trip b).phase ∧ (j.trip b).failed = (s.trip b).failed := by subst hj; simp
  have hja : ∀ a, a ≠ b → j.trip a = s.trip a := by intro a ha; subst hj; simp [Ne.symm ha]
  have hjr : j.breakerRec b = s.breakerRec b := hjs.breakerRec b
  have hjst : j.stamp = s.stamp := hjs.stamp
  have hjo : j.isOpen b = false := by
    have : j.isOpen b = s.isOpen b := by simp only [State.isOpen, hjs.input]
    rw [this, hopen]
  -- what the queue is, where the demand's own effect is `t` and its escalation appended nothing
  have hdone : ∀ t : State, (s.setOrder o (some x)).demand o b = (t, []) → t.batch = s.batch →
      (∀ z, t.zone z = s.zone z) → ((s.setOrder o (some x)).demandQueue o [b]).settleQuiet = t := by
    intro t h1 h2 h3
    rw [demandQueue_single h1 List.nodup_nil (by simp)]
    have : t.demandQueue o [] = t := by simp [State.demandQueue, State.runQueue, State.demandAll]
    rw [this, hquiet t h2 h3]
  have hdem : ∀ ph, (s.trip b).phase = ph → ((j.setOrder o (some x)).trip b).phase = ph := by
    intro ph h; rw [State.setOrder_trip, hjb.1, h]
  have hwrite : ∀ (t : State) (y : Order) (v : BreakerOutcome), t.order o = some y →
      (∃ e, e ∈ y.entries ∧ e.breaker ≠ b ∧ e.outcome = none) → t.stamp = s.stamp →
      t.writeOutcome b v o = t.setOrder o (some (writtenIn s.stamp b v y)) := by
    intro t y v h1 h2 h3; rw [writeOutcome_open h1 h2, h3]
  -- a demand at FAILED or SPENT whose escalation leaves `k`, with the order as `y`, and appends `added`
  have hcross : ∀ (k : State) (y : Order) (added : List BreakerId), (s.trip b).phase = .failed ∨ (s.trip b).phase = .spent →
      (j.setOrder o (some x)).escalate o b = (k.setOrder o (some y), added) → k.stamp = s.stamp →
      (∃ e, e ∈ y.entries ∧ e.breaker ≠ b ∧ e.outcome = none) →
      (s.setOrder o (some x)).demand o b =
        (k.setOrder o (some (if (s.trip b).phase = .spent then writtenIn s.stamp b .spent y else y)), added) := by
    intro k y added hp he hk hy
    rcases hp with hp | hp
    · simp only [State.demand, hadd, hdem _ hp, he, hp]; simp
    · simp only [State.demand, hadd, hdem _ hp, he, hp]
      rw [hwrite _ y _ (by simp) hy (by simpa using hk)]
      simp
  refine ⟨fun hp => ?_, fun hp => ?_, fun hp => ?_, fun hp => ⟨fun u hr hu => ?_, fun hr hu => ?_, fun a far hr ha hf => ?_⟩⟩
  · rw [hdone (j.setOrder o (some x)) (by simp only [State.demand, hadd, hdem _ hp])]
    · simp [hjs.batch]
    · intro z; simp [hjs.zone]
  · rw [hdone (j.setOrder o (some (writtenIn s.stamp b (if (s.trip b).failed then .failedThenOpened else .opened) x)))]
    · simp only [State.demand, hadd, hdem _ hp]
      rw [hwrite _ x _ (by simp) he (by simpa using hjst)]
      simp [State.openingOutcome, hjb.2]
    · simp [hjs.batch]
    · intro z; simp [hjs.zone]
  · have hd : (s.setOrder o (some x)).demand o b = (((j.setOrder o (some x)).drive b).clearOutcomes b, []) := by
      have : (j.setOrder o (some x)).isOpen b = false := hjo
      simp only [State.demand, hadd, hdem _ hp, this]; rfl
    have hk := clearOutcomes_same ((j.setOrder o (some x)).drive b) b
    have hall : SameBut [.trips, .orders] s (((j.setOrder o (some x)).drive b).clearOutcomes b) :=
      SameBut.trans (t := (j.setOrder o (some x)).drive b)
        ((hjs.mono (by simp)).trans (by simp [SameBut, State.drive])) (hk.mono (by simp))
    refine ⟨_, congrArg _ (hdone _ hd hall.batch fun z => hall.zone z), ?_, fun a ha => ?_, ?_, fun q hq => ?_, hall⟩
    · rw [hk.trip]
      simp [State.drive, drivenFor, State.after, ms, minimumPulseTime, pulseCeilingTime, hjr, hjs.now]
      subst hj; simp
    · rw [hk.trip]; simp [State.drive, Ne.symm ha, hja a ha]
    · rw [clearOutcomes_spec]
      have : (((j.setOrder o (some x)).drive b).trip b).demands.has o = true := by subst hj; simp [State.drive, Marks.has_add]
      rw [if_pos this]; simp [State.drive]
    · rw [clearOutcomes_spec]
      have : (((j.setOrder o (some x)).drive b).trip b).demands.has q = (s.trip b).demands.has q := by
        subst hj; simp [State.drive, Marks.has_add, Ne.symm hq]
      rw [this]; simp [State.drive, Ne.symm hq, hjs.order]
  · have hesc : (j.setOrder o (some x)).escalate o b
        = ((j.setUt u (claimedBy s o u)).setOrder o (some { x with ut := x.ut.add u }), []) := by
      have e : (j.setOrder o (some x)).breakerRec b = s.breakerRec b := hjr
      simp only [State.escalate, State.setOrder_order, if_true, e, hr, hu]
      have e2 : (j.setOrder o (some x)).claimUt o u
          = (j.setUt u (claimedBy s o u)).setOrder o (some { x with ut := x.ut.add u }) := by
        have h1 : j.utLine u = s.utLine u := hjs.utLine u
        simp only [State.claimUt, State.modifyOrder, State.setUt_order, State.setOrder_order, State.setOrder_utLine, if_true, h1]
        unfold claimedBy
        have h2 : (j.setOrder o (some x)).stamp = s.stamp := hjst
        have h3 : (j.setOrder o (some x)).now = s.now := hjs.now
        have hcomm : ∀ v y, ((j.setOrder o (some x)).setUt u v).setOrder o y = (j.setUt u v).setOrder o y := by
          intro v y; simp [State.setOrder, State.setUt]
        by_cases ha : (s.utLine u).asserted = true
        · rw [if_pos ha, if_pos ha, hcomm]
        · rw [if_neg ha, if_neg ha, hcomm]; simp only [State.after, h2, h3, utMinimumTime, ms]
      rw [e2]
    rw [hdone _ (hcross _ _ _ hp hesc (by simpa using hjst) he)]
    · simp [hjs.batch]
    · intro z; simp [hjs.zone]
  · have hesc : (j.setOrder o (some x)).escalate o b
        = (j.setOrder o (some { x with noUpstream := x.noUpstream.add b }), []) := by
      have e : (j.setOrder o (some x)).breakerRec b = s.breakerRec b := hjr
      simp only [State.escalate, State.setOrder_order, if_true, e, hr, hu]
      simp
    rw [hdone _ (hcross _ _ _ hp hesc hjst he)]
    · simp [hjs.batch]
    · intro z; simp [hjs.zone]
  · have e : (j.setOrder o (some x)).breakerRec b = s.breakerRec b := hjr
    have hesc : (j.setOrder o (some x)).escalate o b =
        if x.level < 2 then (j.setOrder o (some x)).growSpan o x far
        else ((j.setOrder o (some x)).setOrder o (some { x with escLimit := true }), []) := by
      simp only [State.escalate, State.setOrder_order, if_true, e, hr]
      rcases hf with ⟨h1, h2, rfl⟩ | ⟨h1, h2, rfl⟩
      · simp only [ha, Side.isIn, h1, h2]
      · simp only [ha, Side.isIn, h1, h2]
    refine ⟨fun hlv => ?_, fun hlv hi => ?_⟩
    · have hesc' : (j.setOrder o (some x)).escalate o b = (j.setOrder o (some { x with escLimit := true }), []) := by
        rw [hesc, if_neg (by omega)]; simp
      rw [hdone _ (hcross _ _ _ hp hesc' hjst he)]
      · simp [hjs.batch]
      · intro z; simp [hjs.zone]
    · have hinf : (j.setOrder o (some x)).inForce = s.inForce := by simpa using hjs.inForce
      have hinp : (j.setOrder o (some x)).inputs = s.inputs := hjs.inputs
      have hmis : (j.setOrder o (some x)).missing x (x.span ||| (j.setOrder o (some x)).island far)
          = s.missing x (x.span ||| s.island far) := by
        rw [island_congr (s := s) hinf]
        exact missing_congr hinf hinp rfl _
      have hgr : grown (j.setOrder o (some x)) x far = grown s x far := by
        unfold grown; rw [hmis, island_congr (s := s) hinf]
      have hesc' : (j.setOrder o (some x)).escalate o b
          = (j.setOrder o (some (grown s x far)), s.missing x (x.span ||| s.island far)) := by
        rw [hesc, if_pos hlv, growSpan_eq, hmis, hgr]; simp
      have hd := hcross _ _ _ hp hesc' hjst (by
        obtain ⟨f, f1, f2, f3⟩ := he
        exact ⟨f, List.mem_append.mpr (.inl f1), f2, f3⟩)
      set y := (if (s.trip b).phase = .spent then writtenIn s.stamp b .spent (grown s x far) else grown s x far) with hyd
      have hbn : ∀ a, a ∈ s.missing x (x.span ||| s.island far) → a ≠ b := by
        rintro a h rfl
        obtain ⟨f, f1, f2⟩ := hl
        exact not_listed_of_missing h f f1 f2
      have hij : ∀ a, a ∈ s.missing x (x.span ||| s.island far) → (j.trip a).phase = .idle ∧ (j.trip a).demands = 0 := by
        intro a h; rw [hja a (hbn a h)]; exact hi a h
      obtain ⟨f1, f2, f3⟩ := demandQueue_fresh (s := j) (o := o) (y := y) (by rw [hjs.inService, hs])
        (missing_nodup s x _) hij (by
          intro f hf' hfb
          by_cases hsp : (s.trip b).phase = .spent
          · rw [hyd, if_pos hsp] at hf'
            obtain ⟨g, hg, rfl⟩ := List.mem_map.mp hf'
            by_cases hgb : g.breaker = b
            · rw [if_pos hgb] at hfb; exact absurd hgb (hbn _ hfb)
            · rw [if_neg hgb] at hfb ⊢; exact grown_open g hg hfb
          · rw [hyd, if_neg hsp] at hf'; exact grown_open f hf' hfb)
      have hsame := (hjs.mono (qs := [.trips, .orders, .lockout]) (by simp)).trans f3
      refine ⟨(j.setOrder o (some y)).demandQueue o (s.missing x (x.span ||| s.island far)), ?_, ?_, ?_, f2, hsame⟩
      · rw [demandQueue_single hd (missing_nodup s x _) (fun a h => by simpa using (hij a h).1),
          hquiet _ hsame.batch hsame.zone]
      · rw [f1, if_pos rfl]; rfl
      · intro q hq; rw [f1, if_neg (Ne.symm hq), hjs.order]

/-! ### A demand while an entry is open -/

/-- The order in slot `o` has an entry of breaker `f` without outcome. -/
def OpenAt (s : State) (o : SlotId) (f : BreakerId) : Prop :=
  ∃ x, s.order o = some x ∧ ∃ e, e ∈ x.entries ∧ e.breaker = f ∧ e.outcome = none

/-- What demands of order `o` leave alone while breaker `f`'s entry in it is open: no order closes, so no zone changes and an
empty slot stays empty, and the entry stays open. -/
def StaysOpen (o : SlotId) (f : BreakerId) (s t : State) : Prop :=
  OpenAt t o f ∧ t.zones = s.zones ∧ ∀ q, q ≠ o → s.order q = none → t.order q = none

theorem StaysOpen.trans {o : SlotId} {f : BreakerId} {s t u : State} (h : StaysOpen o f s t) (k : StaysOpen o f t u) :
    StaysOpen o f s u :=
  ⟨k.1, k.2.1.trans h.2.1, fun q hq hs => k.2.2 q hq (h.2.2 q hq hs)⟩

theorem staysOpen_of {o : SlotId} {f : BreakerId} {s t : State} (h : OpenAt s o f) (h1 : t.orders = s.orders)
    (h2 : t.zones = s.zones) : StaysOpen o f s t := by
  have e : ∀ q, t.order q = s.order q := fun q => by rw [State.order, h1, State.order]
  exact ⟨by rwa [OpenAt, e], h2, fun q _ hq => by rw [e, hq]⟩

theorem staysOpen_setOrder {o : SlotId} {f : BreakerId} {s : State} {x : Order}
    (h : ∃ e, e ∈ x.entries ∧ e.breaker = f ∧ e.outcome = none) : StaysOpen o f s (s.setOrder o (some x)) :=
  ⟨⟨x, by simp, h⟩, by simp, fun q hq hs => by simp [Ne.symm hq, hs]⟩

theorem staysOpen_clear {o : SlotId} {f b : BreakerId} {s : State} (h : OpenAt s o f) :
    StaysOpen o f s (s.clearOutcomes b) := by
  obtain ⟨x, hx, e, he, hf, ho⟩ := h
  refine ⟨?_, (clearOutcomes_same s b).zones, fun q _ hs => by rw [clearOutcomes_spec, hs]; simp⟩
  by_cases hd : (s.trip b).demands.has o = true
  · refine ⟨clearedOf b x, by rw [clearOutcomes_spec, if_pos hd, hx]; rfl, ?_⟩
    unfold clearedOf
    split
    · by_cases hb : e.breaker = b
      · exact ⟨_, List.mem_map.mpr ⟨e, he, rfl⟩, by rw [if_pos hb]; exact hf, by rw [if_pos hb]⟩
      · exact ⟨_, List.mem_map.mpr ⟨e, he, rfl⟩, by rw [if_neg hb]; exact hf, by rw [if_neg hb]; exact ho⟩
    · exact ⟨e, he, hf, ho⟩
  · exact ⟨x, by rw [clearOutcomes_spec, if_neg hd, hx], e, he, hf, ho⟩

theorem staysOpen_write {o : SlotId} {f b : BreakerId} {v : BreakerOutcome} {s : State} (h : OpenAt s o f) (hb : b ≠ f) :
    StaysOpen o f s (s.writeOutcome b v o) := by
  obtain ⟨x, hx, e, he, hf, ho⟩ := h
  have hne : e.breaker ≠ b := fun h => hb (h.symm.trans hf)
  rw [writeOutcome_open hx ⟨e, he, hne, ho⟩]
  exact staysOpen_setOrder ⟨e, List.mem_map.mpr ⟨e, he, by simp [hne]⟩, hf, ho⟩

theorem staysOpen_escalate {o : SlotId} {f b : BreakerId} {s : State} (h : OpenAt s o f) :
    StaysOpen o f s (s.escalate o b).1 ∧ ∀ a, a ∈ (s.escalate o b).2 → a ≠ f := by
  obtain ⟨x, hx, hf⟩ := h
  have hself : StaysOpen o f s s := staysOpen_of ⟨x, hx, hf⟩ rfl rfl
  have hgrow : ∀ far, StaysOpen o f s (s.growSpan o x far).1 ∧ ∀ a, a ∈ (s.growSpan o x far).2 → a ≠ f := by
    intro far
    obtain ⟨e, he, h1, h2⟩ := hf
    rw [growSpan_eq]
    refine ⟨staysOpen_setOrder ⟨e, List.mem_append.mpr (.inl he), h1, h2⟩, ?_⟩
    rintro a ha rfl
    exact not_listed_of_missing ha e he h1
  have hset : ∀ y : Order, y.entries = x.entries → StaysOpen o f s (s.setOrder o (some y)) := by
    intro y hy; exact staysOpen_setOrder (by rwa [hy])
  unfold State.escalate
  rw [hx]
  dsimp only
  split
  · split
    · refine ⟨?_, by simp⟩
      simp only [State.claimUt, State.modifyOrder, State.setUt_order, hx]
      exact StaysOpen.trans (t := s.setUt _ _) (staysOpen_of ⟨x, hx, hf⟩ (by simp) (by simp)) (staysOpen_setOrder hf)
    · exact ⟨hset _ rfl, by simp⟩
  · split
    · exact ⟨hself, by simp⟩
    · exact ⟨hself, by simp⟩
    · split
      · exact hgrow _
      · exact ⟨hset _ rfl, by simp⟩
    · split
      · exact ⟨hself, by simp⟩
      · split
        · exact hgrow _
        · exact ⟨hset _ rfl, by simp⟩

theorem staysOpen_demand {o : SlotId} {f b : BreakerId} {s : State} (h : OpenAt s o f) (hb : b ≠ f) :
    StaysOpen o f s (s.demand o b).1 ∧ ∀ a, a ∈ (s.demand o b).2 → a ≠ f := by
  have h1 : StaysOpen o f s (s.addDemand o b) := staysOpen_of h (by simp [State.addDemand]) (by simp [State.addDemand])
  have h2 : StaysOpen o f s ((s.addDemand o b).drive b) := h1.trans (staysOpen_of h1.1 (by simp [State.drive]) (by simp [State.drive]))
  unfold State.demand
  dsimp only
  split
  · refine ⟨?_, by simp⟩
    have h3 : StaysOpen o f s (((s.addDemand o b).drive b).lock b) := h2.trans (staysOpen_of h2.1 (by simp) (by simp))
    exact h3.trans (staysOpen_clear h3.1)
  · exact ⟨h1, by simp⟩
  · exact ⟨h1.trans (staysOpen_write h1.1 hb), by simp⟩
  · exact ⟨h1.trans (staysOpen_escalate h1.1).1, (staysOpen_escalate h1.1).2⟩
  · split
    · exact ⟨h1.trans (staysOpen_write h1.1 hb), by simp⟩
    · exact ⟨h2.trans (staysOpen_clear h2.1), by simp⟩
  · have h3 := staysOpen_escalate (b := b) h1.1
    exact ⟨(h1.trans h3.1).trans (staysOpen_write (h1.trans h3.1).1 hb), h3.2⟩

theorem staysOpen_demandAll {o : SlotId} {f : BreakerId} : ∀ (l : List BreakerId) {s : State}, OpenAt s o f → f ∉ l →
    StaysOpen o f s (s.demandAll o l).1 ∧ f ∉ (s.demandAll o l).2 := by
  intro l
  induction l with
  | nil => intro s h _; exact ⟨staysOpen_of h rfl rfl, by simp [State.demandAll]⟩
  | cons b l ih =>
    intro s h hf
    rw [List.mem_cons, not_or] at hf
    obtain ⟨h1, h2⟩ := staysOpen_demand h (Ne.symm hf.1)
    obtain ⟨h3, h4⟩ := ih h1.1 hf.2
    refine ⟨h1.trans h3, ?_⟩
    simp only [State.demandAll, List.mem_append, not_or]
    exact ⟨fun k => h2 f k rfl, h4⟩

/-- A queue of demands, none for `f`, while `f`'s entry is open. -/
theorem staysOpen_demandQueue {o : SlotId} {f : BreakerId} {l : List BreakerId} {s : State} (h : OpenAt s o f)
    (hf : f ∉ l) : StaysOpen o f s (s.demandQueue o l) := by
  have key : ∀ (n : Nat) (l : List BreakerId) (s : State), OpenAt s o f → f ∉ l → StaysOpen o f s (s.runQueue o n l) := by
    intro n
    induction n with
    | zero => intro l s h hf; exact (staysOpen_demandAll l h hf).1
    | succ n ih =>
      intro l s h hf
      obtain ⟨h1, h2⟩ := staysOpen_demandAll l h hf
      simp only [State.runQueue]
      split
      · exact h1
      · exact h1.trans (ih _ _ h1.1 h2)
  exact key 2 l s h hf

/-! ### An order created (R58) -/

/-- The channel entries that fill a new open record (R143). -/
theorem addChannels_fresh (s : State) (l : List ChanId) : ∀ acc : List ChannelEntry, l.Nodup →
    (∀ e, e ∈ acc → e.chan ∉ l) →
    l.foldl (fun l c =>
        if l.any (fun e => e.chan == c) then l
        else l ++ [{ chan := c, pickup := (s.chan c).pickupTime, offset := none, peak := (s.chan c).peak }]) acc
      = acc ++ l.map (fun c =>
          { chan := c, pickup := (s.chan c).pickupTime, offset := none, peak := (s.chan c).peak }) := by
  induction l with
  | nil => intro acc _ _; simp
  | cons c cs ih =>
    intro acc hn h
    obtain ⟨h1, h2⟩ := List.nodup_cons.mp hn
    rw [List.foldl_cons, if_neg, ih _ h2]
    · simp
    · intro e he
      rcases List.mem_append.mp he with he | he
      · have := h e he; simp at this; exact this.2
      · simp at he; subst he; exact h1
    · simp only [List.any_eq_true, beq_iff_eq, not_exists, not_and]
      intro e he e2; exact (h e he) (by simp [e2])

/-- No active order has a zone of the island (R56). -/
theorem orderIn_none {s : State} {m : Marks 12}
    (h : ∀ q w, s.order q = some w → ∀ y, y ∈ w.zones → m.has y = false) : s.orderIn m = none := by
  unfold State.orderIn
  rw [List.find?_eq_none]
  intro q _
  cases hw : s.order q with
  | none => simp
  | some w =>
    simp only [List.any_eq_true, not_exists, not_and]
    intro y hy; rw [h q w hw y hy]; simp

/-- The lowest empty slot (R58). -/
theorem lowestEmpty {s : State} {o : SlotId} (ho : s.order o = none) (hlow : ∀ q, q < o → s.order q ≠ none) :
    (ids 12).find? (fun o => (s.order o).isNone) = some o := by
  have key : ∀ l : List SlotId, l.Pairwise (· < ·) → o ∈ l → l.find? (fun o => (s.order o).isNone) = some o := by
    intro l
    induction l with
    | nil => intro _ h; simp at h
    | cons a l ih =>
      intro hp hm
      obtain ⟨p1, p2⟩ := List.pairwise_cons.mp hp
      rcases List.mem_cons.mp hm with rfl | hm
      · rw [List.find?_cons_of_pos]; simp [ho]
      · rw [List.find?_cons_of_neg, ih p2 hm]
        simpa using hlow a (p1 _ hm)
  exact key _ (List.pairwise_lt_finRange 12) (List.mem_finRange o)

section
variable {s : State} {z : ZoneId} (hp : (s.zone z).prot = .lit) (hc : s.currentCondition z = true)
include hp hc

/-- A LIT zone whose condition is met, with no order in its island: one is created in the lowest empty slot. The test engine
is told of the zone's entry to ARC (R131), and else nothing of channels and batch changes. -/
theorem evaluate_creates_noting {o : SlotId} (hs : s.inService = true)
    (ht : s.tripSet (s.island z) ≠ []) (hno : ∀ q w, s.order q = some w → ∀ y, y ∈ w.zones → (s.island z).has y = false)
    (ho : s.order o = none) (hlow : ∀ q, q < o → s.order q ≠ none)
    (hi : ∀ b, b ∈ s.tripSet (s.island z) → (s.trip b).phase = .idle)
    (hd : ∀ q w b, s.order q = some w → b ∈ s.tripSet (s.island z) → (s.trip b).demands.has q = false) :
    (s.evaluate z).zone z = { s.zone z with prot := .arc, alarmTimer := none, orderSlot := some o }
      ∧ OnlyZone s (s.evaluate z) z ∧ Created s (s.evaluate z) z o (s.tripSet (s.island z))
      ∧ SameBut [.zones, .orders, .trips, .lockout] s.noteArc (s.evaluate z) := by
  have hev : s.evaluate z = ((s.setOrder o (some (s.newOrder z (s.tripSet (s.island z))))).enterArc z o).demandQueue o
      (s.tripSet (s.island z)) := by
    unfold State.evaluate
    rw [if_pos hp, hc, orderIn_none hno]
    cases hl : s.tripSet (s.island z) with
    | nil => exact absurd hl ht
    | cons b l => simp [State.createOrder, lowestEmpty ho hlow]
  set trip := s.tripSet (s.island z) with htrip
  have hn := noteArc_same s
  have hz1 : s.noteArc.zone z = s.zone z := hn.zone z
  set s2 := (s.noteArc.setOrder o (some (s.newOrder z trip))).setZone z
    { s.zone z with prot := .arc, alarmTimer := none, orderSlot := some o } with hs2
  have harc : (s.setOrder o (some (s.newOrder z trip))).enterArc z o = s2 := by
    unfold State.enterArc; rw [noteArc_setZone, noteArc_setOrder]; rfl
  rw [harc] at hev
  have h1 : SameBut [.orders, .zones] s.noteArc s2 := by simp [SameBut, hs2]
  have h2 : SameBut [.channels, .batch, .orders, .zones] s s2 := (hn.mono (by simp)).trans (h1.mono (by simp))
  have hu : ∀ q b, b ∈ trip → Untouched s2 o q b := by
    intro q b hb'
    by_cases e : q = o
    · subst e
      refine .inl fun x hx e he _ => ?_
      have : x = s.newOrder z trip := by simpa [hs2] using hx.symm
      rw [this] at he
      simp only [State.newOrder, State.addChannels, List.mem_map] at he
      obtain ⟨_, _, rfl⟩ := he; rfl
    · have hq : s2.order q = s.order q := by simp [hs2, Ne.symm e, hn.order]
      cases hw : s.order q with
      | none => exact .inl fun x hx => by rw [hq, hw] at hx; cases hx
      | some w => exact .inr ⟨e, by rw [h2.trip]; exact hd q w b hw hb'⟩
  obtain ⟨d1, d2, d3⟩ := demandQueue_demanded (tripSet_nodup s (s.island z)) (h2.inService.trans hs)
    (fun b hb' => by rw [h2.trip]; exact hi b hb') hu
  rw [← htrip, ← hev] at d1 d2 d3
  have hz : (s.evaluate z).zone z = { s.zone z with prot := .arc, alarmTimer := none, orderSlot := some o } := by
    rw [d3.zone]; simp [hs2]
  refine ⟨hz, fun y hy => by rw [d3.zone]; simp [hs2, Ne.symm hy, hn.zone],
    ⟨?_, fun q hq => ?_, demanded_congr d2 h2⟩, (h1.mono (by simp)).trans (d3.mono (by simp))⟩
  · have hch : ∀ c, ((s.evaluate z).chan c).pickupTime = (s.chan c).pickupTime
        ∧ ((s.evaluate z).chan c).peak = (s.chan c).peak := by
      intro c
      have e : (s.evaluate z).chan c = s.noteArc.chan c := by rw [d3.chan, h1.chan]
      rw [e]; exact noteArc_chan s c
    have hin : (s.evaluate z).input = s.input := funext fun c => by rw [d3.input, h2.input]
    rw [d1, hz, hin]
    simp only [hch]
    have hfold := addChannels_fresh s (s.zone z).confirmed.members [] (Marks.nodup_members _) (by simp)
    rw [List.nil_append] at hfold
    simp only [hs2, State.setZone_order, State.setOrder_order, if_true]
    unfold State.newOrder State.addChannels
    rw [hfold]
    simp only [State.currentSource, beq_eq_decide]
    rfl
  · rw [d1]; simp [hs2, Ne.symm hq, hn.order]

/-- With the batch IDLE nothing is told. -/
theorem evaluate_creates {o : SlotId} (hs : s.inService = true) (hb : s.batch.state = .idle)
    (ht : s.tripSet (s.island z) ≠ []) (hno : ∀ q w, s.order q = some w → ∀ y, y ∈ w.zones → (s.island z).has y = false)
    (ho : s.order o = none) (hlow : ∀ q, q < o → s.order q ≠ none)
    (hi : ∀ b, b ∈ s.tripSet (s.island z) → (s.trip b).phase = .idle)
    (hd : ∀ q w b, s.order q = some w → b ∈ s.tripSet (s.island z) → (s.trip b).demands.has q = false) :
    (s.evaluate z).zone z = { s.zone z with prot := .arc, alarmTimer := none, orderSlot := some o }
      ∧ OnlyZone s (s.evaluate z) z ∧ Created s (s.evaluate z) z o (s.tripSet (s.island z))
      ∧ SameBut [.zones, .orders, .trips, .lockout] s (s.evaluate z) := by
  have h := evaluate_creates_noting hp hc hs ht hno ho hlow hi hd
  rwa [noteArc_idle hb] at h

/-- An empty trip set: a NO_SOURCE record is sealed, once in a lit period (R57). -/
theorem evaluate_noSource (ht : s.tripSet (s.island z) = []) (hf : (s.zone z).noSourceSent = false) :
    s.evaluate z = (s.seal (.noSource z (s.zoneOrigin z) (s.zone z).confirmed)).setZone z
      { s.zone z with noSourceSent := true } := by
  unfold State.evaluate
  rw [if_pos hp, hc, ht]
  simp [State.noSource, hf]

/-- The island has a zone of an active order: the zone joins it (R59). -/
theorem evaluate_joins {o : SlotId} {x : Order} (hs : s.inService = true) (hb : s.batch.state = .idle)
    (ht : s.tripSet (s.island z) ≠ []) (hx : s.order o = some x) (hy : ∃ y, y ∈ x.zones ∧ (s.island z).has y = true)
    (hlow : ∀ q w, q < o → s.order q = some w → ∀ y, y ∈ w.zones → (s.island z).has y = false)
    (hi : ∀ b, b ∈ s.missing x (x.span ||| s.island z) → (s.trip b).phase = .idle ∧ (s.trip b).demands = 0) :
    let new := if x.resolution = none ∧ s.island z &&& ~~~x.span ≠ 0 then s.missing x (x.span ||| s.island z) else []
    (s.evaluate z).zone z = { s.zone z with prot := .arc, alarmTimer := none, orderSlot := some o }
      ∧ OnlyZone s (s.evaluate z) z
      ∧ (s.evaluate z).order o = some { x with
          zones := x.zones ++ [z], span := x.span ||| s.island z
          channels := (s.addChannels x (s.zone z).confirmed.members).channels
          entries := x.entries ++ new.map (openEntry x.level)
          closeTimer := if new = [] then x.closeTimer else none }
      ∧ OnlyOrder s (s.evaluate z) o ∧ Demanded s (s.evaluate z) o new
      ∧ SameBut [.zones, .orders, .trips, .lockout] s (s.evaluate z) := by
  intro new
  set y : Order := { x with
      zones := x.zones ++ [z], span := x.span ||| s.island z
      channels := (s.addChannels x (s.zone z).confirmed.members).channels
      entries := x.entries ++ new.map (openEntry x.level)
      closeTimer := if new = [] then x.closeTimer else none } with hyd
  have hnew : new = if x.resolution = none ∧ s.island z &&& ~~~x.span ≠ 0 then s.missing x (x.span ||| s.island z)
    else [] := rfl
  clear_value new
  have henter : ∀ w, (s.setOrder o (some w)).enterArc z o = (s.setOrder o (some w)).setZone z
      { s.zone z with prot := .arc, alarmTimer := none, orderSlot := some o } := by
    intro w; unfold State.enterArc; rw [noteArc_idle (by simp [hb])]; simp
  have hspan : s.island z &&& ~~~x.span = 0 → x.span ||| s.island z = x.span := by
    intro h; apply Marks.ext; intro i
    have := congrArg (fun m : Marks 12 => m.has i) h
    simp [Marks.has] at this ⊢
    cases h1 : x.span[i.val] <;> simp_all
  set s2 := (s.setOrder o (some y)).setZone z { s.zone z with prot := .arc, alarmTimer := none, orderSlot := some o }
    with hs2
  have hev : s.evaluate z = s2.demandQueue o new := by
    have e1 : s.evaluate z = s.joinOrder z o := by
      unfold State.evaluate
      rw [if_pos hp, hc, orderIn_spec hx hy hlow]
      cases hl : s.tripSet (s.island z) with
      | nil => exact absurd hl ht
      | cons b l => rfl
    rw [e1]
    unfold State.joinOrder
    rw [hx]
    simp only [henter]
    split
    · rename_i hz
      have hn : new = [] := by simp [hnew, hz]
      have hq : s2.demandQueue o new = s2 := by
        rw [hn, demandQueue_of_nil (show (s2.demandAll o []).2 = [] from rfl)]; rfl
      rw [hq, hs2, hyd, hn]
      simp [hspan hz, State.addChannels]
    · rename_i hz
      have hbs : (if x.resolution.isNone = true then s.missing x (x.span ||| s.island z) else []) = new := by
        rw [hnew]
        exact if_congr ⟨fun h => ⟨by simpa using h, hz⟩, fun h => by simp [h.1]⟩ rfl rfl
      have happ : ({ x with
          zones := x.zones ++ [z], span := x.span ||| s.island z
          channels := (s.addChannels x (s.zone z).confirmed.members).channels } : Order).append new = y := by
        unfold Order.append
        by_cases hn : new = []
        · simp [hn, hyd]
        · have : x.resolution = none := by by_contra hc'; apply hn; simp [hnew, hc']
          simp [hn, hyd, Order.withdrawn, this, openEntry]
      rw [hs2, ← happ, ← hbs]
      rfl
  have h2 : SameBut [.orders, .zones] s s2 := by simp [SameBut, hs2]
  have hmem : ∀ b, b ∈ new → b ∈ s.missing x (x.span ||| s.island z) := by
    intro b hb'; rw [hnew] at hb'; split at hb'
    · exact hb'
    · simp at hb'
  have hnd : new.Nodup := by
    rw [hnew]; split
    · exact (tripSet_nodup _ _).filter _
    · exact List.nodup_nil
  have hu : ∀ q b, b ∈ new → Untouched s2 o q b := by
    intro q b hb'
    by_cases e : q = o
    · subst e
      refine .inl fun w hw e he hbe => ?_
      have : w = y := by simpa [hs2] using hw.symm
      rw [this, hyd] at he
      simp only [List.mem_append, List.mem_map] at he
      rcases he with he | ⟨a, ha, rfl⟩
      · exfalso
        have h3 := (List.mem_filter.mp (hmem b hb')).2
        simp [Order.lists] at h3
        exact h3 e he hbe
      · rfl
    · exact .inr ⟨e, by rw [h2.trip, (hi b (hmem b hb')).2, Marks.has_zero]⟩
  obtain ⟨d1, d2, d3⟩ := demandQueue_demanded hnd (h2.inService.trans hs)
    (fun b hb' => by rw [h2.trip]; exact (hi b (hmem b hb')).1) hu
  rw [← hev] at d1 d2 d3
  refine ⟨by rw [d3.zone]; simp [hs2], fun q hq => by rw [d3.zone]; simp [hs2, Ne.symm hq], by rw [d1]; simp [hs2],
    fun q hq => by rw [d1]; simp [hs2, Ne.symm hq], demanded_congr d2 h2, (h2.mono (by simp)).trans (d3.mono (by simp))⟩

end

end Sys2Proof.Machine
end

