-- ==== Sys2Proof/Laws/Map.lean ====
section
/-! SUPPORT. What the map's sets hold (R44, R45, R54), which channel an origin is (R141), and an order's ARC record
field by field (R146). -/

namespace Sys2Proof.Machine

open Sys2Proof Sys2Proof.Safety

/-! ### Boundary, trip set and current condition -/

/-- A breaker stands on the boundary of a set where it is in use and has exactly one side in it; side A counts for a COUPLER
with a zone there (R44). -/
theorem mem_boundary (s : State) (m : Marks 12) (b : BreakerId) :
    b ∈ s.boundary m ↔
      (s.breakerRec b).inUse = true
        ∧ ((∃ a, (s.breakerRec b).role = .coupler ∧ (s.breakerRec b).sideA = .zone a ∧ m.has a = true)
          ↔ m.has (s.breakerRec b).sideB = false) := by
  simp only [State.boundary, ids, List.mem_filter, List.mem_finRange, true_and, BreakerRecord.onBoundary, Bool.and_eq_true]
  refine and_congr_right fun _ => ?_
  cases (s.breakerRec b).role
  · cases m.has (s.breakerRec b).sideB <;> simp
  · cases (s.breakerRec b).sideA with
    | external => cases m.has (s.breakerRec b).sideB <;> simp [Side.isIn]
    | zone a => cases h : m.has a <;> cases m.has (s.breakerRec b).sideB <;> simp [Side.isIn, h]

/-- The trip set is the boundary without the breakers that are OPEN (R45). -/
theorem mem_tripSet (s : State) (m : Marks 12) (b : BreakerId) :
    b ∈ s.tripSet m ↔ b ∈ s.boundary m ∧ (s.input b).position ≠ .opened := by
  simp [State.tripSet, State.isOpen]

/-- The missing breakers of a set are those of its trip set that the order does not list (R59, R80). -/
theorem mem_missing (s : State) (x : Order) (m : Marks 12) (b : BreakerId) :
    b ∈ s.missing x m ↔ b ∈ s.tripSet m ∧ ∀ e, e ∈ x.entries → e.breaker ≠ b := by
  simp [State.missing, Order.lists]

theorem boundary_pairwise (s : State) (m : Marks 12) : (s.boundary m).Pairwise (· < ·) :=
  (List.pairwise_lt_finRange 8).filter _

theorem tripSet_pairwise (s : State) (m : Marks 12) : (s.tripSet m).Pairwise (· < ·) := (boundary_pairwise s m).filter _

theorem missing_pairwise (s : State) (x : Order) (m : Marks 12) : (s.missing x m).Pairwise (· < ·) :=
  (tripSet_pairwise s m).filter _

/-- The current condition (R54). -/
theorem currentCondition_iff (s : State) (z : ZoneId) :
    s.currentCondition z = true ↔
      (s.zoneRec z).lightOnly = true
        ∨ (∀ b, b ∈ s.tripSet (s.island z) → (s.breakerRec b).ccUsed = false)
        ∨ ∃ b, b ∈ s.tripSet (s.island z) ∧ (s.breakerRec b).ccUsed = true ∧ (s.input b).current = true := by
  simp [State.currentCondition, List.isEmpty_iff, List.filter_eq_nil_iff, or_assoc]

/-! ### The origin channel -/

/-- The earlier of two candidates is one of them, and stands before both. -/
theorem earlierOf_spec (a b : ChanId × Option Stamp) :
    (earlierOf a b = a ∨ earlierOf a b = b) ∧ StandsBefore (earlierOf a b) a ∧ StandsBefore (earlierOf a b) b := by
  obtain ⟨c, t⟩ := a
  obtain ⟨d, u⟩ := b
  have hself : ∀ x, StandsBefore x x := fun _ v hv => ⟨v, hv, .inr ⟨rfl, le_refl _⟩⟩
  cases t with
  | none =>
    have hn : ∀ x, StandsBefore x (c, none) := fun _ v hv => by simp at hv
    cases u with
    | none =>
      have hn' : ∀ x, StandsBefore x (d, none) := fun _ v hv => by simp at hv
      refine ⟨?_, hn _, hn' _⟩
      by_cases h : c ≤ d <;> simp [earlierOf, h]
    | some u => exact ⟨.inr rfl, hn _, hself _⟩
  | some t =>
    cases u with
    | none => exact ⟨.inl rfl, hself _, fun v hv => by simp at hv⟩
    | some u =>
      have hb : ∀ (x y : ChanId) (v w : Stamp), v.micros < w.micros ∨ (v.micros = w.micros ∧ x ≤ y) →
          StandsBefore (x, some v) (y, some w) := by
        intro x y v w h _ hw
        cases hw
        exact ⟨v, rfl, h⟩
      simp only [earlierOf]
      by_cases h1 : t.micros < u.micros
      · rw [if_pos h1]; exact ⟨.inl rfl, hself _, hb _ _ _ _ (.inl h1)⟩
      · rw [if_neg h1]
        by_cases h2 : u.micros < t.micros
        · rw [if_pos h2]; exact ⟨.inr rfl, hb _ _ _ _ (.inl h2), hself _⟩
        · have he : t.micros = u.micros := by omega
          rw [if_neg h2]
          by_cases h3 : c ≤ d
          · rw [if_pos h3]; exact ⟨.inl rfl, hself _, hb _ _ _ _ (.inr ⟨he, h3⟩)⟩
          · rw [if_neg h3]; exact ⟨.inr rfl, hb _ _ _ _ (.inr ⟨he.symm, le_of_not_ge h3⟩), hself _⟩

/-- The same, with each stamp read as microseconds. -/
theorem standsBefore_iff (a b : ChanId × Option Stamp) :
    StandsBefore a b ↔
      ∀ v, b.2 = some v → ∃ u, a.2 = some u ∧ (u.micros < v.micros ∨ (u.micros = v.micros ∧ a.1 ≤ b.1)) := Iff.rfl

theorem standsBefore_trans {a b c : ChanId × Option Stamp} (h : StandsBefore a b) (k : StandsBefore b c) :
    StandsBefore a c := by
  rw [standsBefore_iff] at *
  intro v hv
  obtain ⟨u, hu, hc⟩ := k v hv
  obtain ⟨t, ht, hd⟩ := h u hu
  refine ⟨t, ht, ?_⟩
  rcases hc with hc | ⟨hc, h1⟩ <;> rcases hd with hd | ⟨hd, h2⟩
  · exact .inl (lt_trans hd hc)
  · exact .inl (by rw [hd]; exact hc)
  · exact .inl (by rw [← hc]; exact hd)
  · exact .inr ⟨hd.trans hc, h2.trans h1⟩

/-- The earliest of a list is one of its members, and stands before all of them. -/
theorem foldl_earlierOf_spec (l : List (ChanId × Option Stamp)) : ∀ a,
    l.foldl earlierOf a ∈ a :: l ∧ ∀ b, b ∈ a :: l → StandsBefore (l.foldl earlierOf a) b := by
  induction l with
  | nil =>
    intro a
    refine ⟨by simp, fun b hb => ?_⟩
    rw [List.mem_singleton.mp hb]
    exact fun v hv => ⟨v, hv, .inr ⟨rfl, le_refl _⟩⟩
  | cons c l ih =>
    intro a
    obtain ⟨h1, h2, h3⟩ := earlierOf_spec a c
    obtain ⟨i1, i2⟩ := ih (earlierOf a c)
    refine ⟨?_, fun b hb => ?_⟩
    · rcases List.mem_cons.mp i1 with h | h
      · rw [List.foldl_cons, h]; rcases h1 with e | e <;> simp [e]
      · exact List.mem_cons_of_mem _ (List.mem_cons_of_mem _ h)
    · have hself := i2 _ (List.mem_cons_self ..)
      rcases List.mem_cons.mp hb with rfl | hb
      · exact standsBefore_trans hself h2
      · rcases List.mem_cons.mp hb with rfl | hb
        · exact standsBefore_trans hself h3
        · exact i2 b (List.mem_cons_of_mem _ hb)

/-- The origin of candidates: absent where there are none, else one of them that stands before all (R141). -/
theorem originOf_spec (l : List (ChanId × Option Stamp)) :
    (l = [] → originOf l = none)
      ∧ (l ≠ [] → ∃ a, a ∈ l ∧ originOf l = some a.1 ∧ ∀ b, b ∈ l → StandsBefore a b) := by
  cases l with
  | nil => simp [originOf]
  | cons a l =>
    obtain ⟨h1, h2⟩ := foldl_earlierOf_spec l a
    exact ⟨by simp, fun _ => ⟨_, h1, rfl, h2⟩⟩

/-- The origin of a zone: absent with an empty set, else the channel of the set that stands before all others (R52, R57). -/
theorem zoneOrigin_spec (s : State) (z : ZoneId) :
    ((s.zone z).confirmed = 0 → s.zoneOrigin z = none)
      ∧ ((s.zone z).confirmed ≠ 0 → ∃ c, s.zoneOrigin z = some c ∧ (s.zone z).confirmed.has c = true
        ∧ ∀ d, (s.zone z).confirmed.has d = true → StandsBefore (c, (s.chan c).pickupTime) (d, (s.chan d).pickupTime)) := by
  obtain ⟨h1, h2⟩ := originOf_spec ((s.zone z).confirmed.members.map (fun c => (c, (s.chan c).pickupTime)))
  refine ⟨fun h => h1 ?_, fun h => ?_⟩
  · rw [List.map_eq_nil_iff, List.eq_nil_iff_forall_not_mem]
    intro c hc; rw [Marks.mem_members, h, Marks.has_zero] at hc; simp at hc
  · obtain ⟨a, ha, ho, hb⟩ := h2 (fun hn => h (Marks.ext fun c => by
      rw [Marks.has_zero, Bool.eq_false_iff]
      intro hc
      rw [List.map_eq_nil_iff, List.eq_nil_iff_forall_not_mem] at hn
      exact hn c ((Marks.mem_members _ _).mpr hc)))
    obtain ⟨c, hc, rfl⟩ := List.mem_map.mp ha
    refine ⟨c, ho, (Marks.mem_members _ _).mp hc, fun d hd => hb _ ?_⟩
    exact List.mem_map.mpr ⟨d, (Marks.mem_members _ _).mpr hd, rfl⟩

/-! ### The ARC record of an order -/

/-- The candidates for an ARC record's origin are its entries, whose pickup times a refresh of the peaks keeps (R141, R143).
-/
theorem refreshPeaks_candidates (s : State) (l : List ChannelEntry) :
    (s.refreshPeaks l).map (fun e => (e.chan, e.pickup)) = l.map (fun e => (e.chan, e.pickup)) := by
  rw [State.refreshPeaks, List.map_map]
  refine List.map_congr_left fun e _ => ?_
  simp only [Function.comp_apply]; split <;> rfl

/-- The pickup time of a channel's entry is kept by a refresh of the peaks. -/
theorem refreshPeaks_find (s : State) (o : Option ChanId) (l : List ChannelEntry) :
    ((s.refreshPeaks l).find? (fun e => some e.chan == o)).bind (·.pickup)
      = (l.find? (fun e => some e.chan == o)).bind (·.pickup) := by
  induction l with
  | nil => rfl
  | cons e l ih =>
    have he : (if (s.chan e.chan).pickupTime = e.pickup then { e with peak := (s.chan e.chan).peak } else e).chan = e.chan
        ∧ (if (s.chan e.chan).pickupTime = e.pickup then { e with peak := (s.chan e.chan).peak } else e).pickup = e.pickup := by
      split <;> exact ⟨rfl, rfl⟩
    simp only [State.refreshPeaks, List.map_cons, List.find?_cons, he.1] at ih ⊢
    split
    · exact he.2
    · exact ih

/-- The ARC record of an order, field by field: the order's own fields, and for the channel entries the origin (R141), the
pickup offsets in µs from the origin's pickup time and the refreshed peaks (R143, R146). -/
theorem arcRecord_spec (s : State) (o : SlotId) (x : Order) :
    let rec_ := s.arcRecord o x
    let first := (x.channels.find? (fun e => some e.chan == rec_.origin)).bind (·.pickup)
    rec_ = {
      slot := o, zones := x.zones, span := x.span, level := x.level, decision := x.decision
      decisionStatus := x.decisionStatus, source := x.source, resolution := x.resolution, channels := rec_.channels
      origin := rec_.origin, breakers := x.entries, ut := x.ut, noUpstream := x.noUpstream, escLimit := x.escLimit
      supplyLow := x.supplyLow, timeStep := x.timeStep }
    ∧ (x.channels = [] → rec_.origin = none)
    ∧ (x.channels ≠ [] → ∃ e, e ∈ x.channels ∧ rec_.origin = some e.chan
        ∧ ∀ f, f ∈ x.channels → StandsBefore (e.chan, e.pickup) (f.chan, f.pickup))
    ∧ rec_.channels = x.channels.map (fun e => {
        chan := e.chan, pickup := e.pickup
        offset := match first, e.pickup with
          | some u, some v => some (min 65535 ((v.sec * 1000000 + v.us) - (u.sec * 1000000 + u.us)))
          | some _, none => none
          | none, _ => none
        peak := if (s.chan e.chan).pickupTime = e.pickup then (s.chan e.chan).peak else e.peak }) := by
  intro rec_ first
  have ho : rec_.origin = originOf (x.channels.map (fun e => (e.chan, e.pickup))) := by
    show originOf ((s.refreshPeaks x.channels).map _) = _
    rw [refreshPeaks_candidates]
  obtain ⟨h1, h2⟩ := originOf_spec (x.channels.map (fun e => (e.chan, e.pickup)))
  refine ⟨rfl, fun h => by rw [ho, h1 (by rw [h]; rfl)], fun h => ?_, ?_⟩
  · obtain ⟨a, ha, hn, hb⟩ := h2 (by simpa using h)
    obtain ⟨e, he, rfl⟩ := List.mem_map.mp ha
    exact ⟨e, he, ho.trans hn, fun f hf => hb _ (List.mem_map.mpr ⟨f, hf, rfl⟩)⟩
  · have hf : ((s.refreshPeaks x.channels).find? (fun e => some e.chan == rec_.origin)).bind (·.pickup) = first :=
      refreshPeaks_find s _ _
    have hc : rec_.channels = (s.refreshPeaks x.channels).map (fun e => { e with offset := (pickupOffset first e.pickup) }) := by
      rw [← hf]; rfl
    rw [hc, State.refreshPeaks, List.map_map]
    refine List.map_congr_left fun e _ => ?_
    simp only [Function.comp_apply, pickupOffset]
    split <;> cases first <;> cases e.pickup <;> rfl

end Sys2Proof.Machine
end

