-- ==== Sys2Proof/Laws/Requests.lean ====
section
/-! SUPPORT. Every request's completion runs its row's checks and effect, which leave the slots and skip counts of all ports
and the running time as they are (R164, R165, R166). -/

namespace Sys2Proof.Machine

open Sys2Proof Sys2Proof.Safety

/-- Slots, skip counts and running time as in `s`. -/
def SlotsKept (s t : State) : Prop :=
  t.now = s.now ∧ ∀ q, (t.port q).slot = (s.port q).slot ∧ (t.port q).skip = (s.port q).skip

namespace SlotsKept

theorem refl (s : State) : SlotsKept s s := ⟨rfl, fun _ => ⟨rfl, rfl⟩⟩

theorem of_eq {s t u : State} (h : SlotsKept s t) (h1 : u.now = t.now) (h2 : u.ports = t.ports) : SlotsKept s u :=
  ⟨h1.trans h.1, fun q => by simpa [State.port, h2] using h.2 q⟩

/-- No update that the blocks make breaks it: sealing moves cursors and LOST flags only (R148). -/
theorem stable (s : State) : Stable (SlotsKept s) where
  setChan _ _ _ h := h.of_eq rfl rfl
  setZone _ _ _ h := h.of_eq rfl rfl
  setOrder _ _ _ h := h.of_eq rfl rfl
  setTrip _ _ _ h := h.of_eq rfl rfl
  setUt _ _ _ h := h.of_eq rfl rfl
  setBatch _ _ h := h.of_eq rfl rfl
  setLockout _ _ h := h.of_eq rfl rfl
  sealed t b h := ⟨(seal_now t b).trans h.1, fun q => by rw [seal_port t b q]; exact h.2 q⟩

variable {s t : State}

theorem setSets (h : SlotsKept s t) (x : SettingsUnit) : SlotsKept s (t.setSets x) := h.of_eq rfl rfl

theorem markWritten (h : SlotsKept s t) : SlotsKept s t.markWritten := (stable s).settleQuiet (h.setSets _)

theorem inProtecting (h : SlotsKept s t) (f : State → State) (hf : SlotsKept s (f t)) :
    SlotsKept s (t.inProtecting f) := by
  unfold State.inProtecting; split
  exacts [hf, h]

theorem superviseBreaker (h : SlotsKept s t) (b : BreakerId) (o n : Bool) : SlotsKept s (t.superviseBreaker b o n) := by
  unfold State.superviseBreaker
  repeat' (first | split | dsimp only | exact h)

theorem writeChannel (s : State) (c : ChanId) (r : ChannelRecord) : SlotsKept s (s.writeChannel c r) :=
  markWritten ((stable s).restartChannel _ _ ((refl s).setSets _))

theorem writeZone (s : State) (z : ZoneId) (r : ZoneRecord) : SlotsKept s (s.writeZone z r) := by
  have h := (refl s).setSets (s.putZoneRecord z r).sets
  refine markWritten (inProtecting h _ ((stable s).mapWritten ?_))
  split
  exacts [(stable s).zoneEntersUse _ h, h]

theorem writeLink (s : State) (l : LinkId) (x : Option (ZoneId × ZoneId)) : SlotsKept s (s.writeLink l x) :=
  markWritten (inProtecting ((refl s).setSets _) _ ((stable s).mapWritten ((refl s).setSets _)))

theorem writeBreaker (s : State) (b : BreakerId) (r : BreakerRecord) : SlotsKept s (s.writeBreaker b r) :=
  markWritten (inProtecting ((refl s).setSets _) _
    ((stable s).mapWritten (superviseBreaker ((refl s).setSets _) _ _ _)))

theorem writePort (s : State) (p : PortId) (r : PortRecord) : SlotsKept s (s.writePort p r) :=
  markWritten ((refl s).setSets _)

theorem writeFast (s : State) (f : Bool) : SlotsKept s (s.writeFast f) := markWritten ((refl s).setSets _)

theorem releaseBreaker (s : State) (b : BreakerId) : SlotsKept s (s.releaseBreaker b) := by
  refine (refl s).of_eq ?_ ?_ <;> (rw [State.releaseBreaker, lockoutChanged_eq]; rfl)

theorem fetched (s : State) (p : PortId) (a : Bool) : SlotsKept s (s.fetched p a) := by
  refine ⟨rfl, fun q => ?_⟩
  simp only [State.fetched, State.setPort_port]
  split
  · rename_i h; subst h; exact ⟨rfl, rfl⟩
  · exact ⟨rfl, rfl⟩

end SlotsKept

open SlotsKept in
/-- Every row's command completes a request, and its checks and effect keep slots, skip counts and running time. -/
theorem row_command (row : RequestRow) (s : State) :
    ∃ body, exec row.command s = .next (s.complete row body) ∧ ∀ p r, SlotsKept s (body p r s).1 := by
  have h0 := SlotsKept.refl s
  have st := SlotsKept.stable s
  cases row <;> refine ⟨_, rfl, fun p r => ?_⟩
  · unfold readItemBody
    repeat' (first | split | dsimp only | exact h0)
  · unfold writeChannelBody
    repeat' (first | split | dsimp only | exact h0 | exact writeChannel _ _ _)
  · unfold writeZoneBody
    repeat' (first | split | dsimp only | exact h0 | exact writeZone _ _ _)
  · unfold writeLinkBody
    repeat' (first | split | dsimp only | exact h0 | exact writeLink _ _ _)
  · unfold writeBreakerBody
    repeat' (first | split | dsimp only | exact h0 | exact writeBreaker _ _ _)
  · unfold writePortBody
    repeat' (first | split | dsimp only | exact h0 | exact writePort _ _ _)
  · unfold writeGlobalBody
    repeat' (first | split | dsimp only | exact h0 | exact writeFast _ _)
  · unfold holdBody
    repeat' (first | split | dsimp only | exact h0 | exact st.settleQuiet (st.placeHold _ _ _ h0))
  · unfold freeBody
    repeat' (first | split | dsimp only | exact h0 | exact st.freeHold _ _ h0)
  · unfold releaseBody
    repeat' (first | split | dsimp only | exact h0 | exact releaseBreaker _ _)
  · unfold testChannelsBody
    repeat' (first | split | dsimp only | exact h0)
  · unfold suspendBody
    repeat' (first | split | dsimp only | exact h0 | exact st.suspend _ h0)
  · unfold resumeBody
    repeat' (first | split | dsimp only | exact h0 | exact st.settleQuiet (st.resume h0))
  · unfold fetchBody
    repeat' (first | split | dsimp only | exact h0 | exact fetched _ _ _)
  · unfold peekBody
    repeat' (first | split | dsimp only | exact h0)
  · unfold commitBody
    repeat' (first | split | dsimp only | exact h0)
  · exact h0.of_eq rfl rfl
  · exact h0

/-- A completion is its effect, the answer stored, and the next grant (R164, R165). -/
theorem row_completes {s : State} {p : PortId} {r : Request} (he : s.executing = some (p, r)) :
    ∃ (u : State) (a : Answer), SlotsKept s u ∧ exec r.row.command s = .next (u.answer p r a).grantNext := by
  obtain ⟨body, hb, hk⟩ := row_command r.row s
  refine ⟨if s.inService then (body p r s).1 else s, if s.inService then (body p r s).2 else .refuse .mode, ?_, ?_⟩
  · split
    exacts [hk p r, SlotsKept.refl s]
  · rw [hb]; simp only [State.complete, he, if_true]
    split <;> rfl

end Sys2Proof.Machine
end

