-- ==== Sys2Proof/Laws/Settings.lean ====
section
/-! SUPPORT. When the fields of a Write Item are values of their kinds (R171, R176), what the structural conditions say
(R2, R30, R32, R33), and the settings that Write Item could have built (R181). -/

namespace Sys2Proof.Machine

open Sys2Proof Sys2Proof.Safety

/-! ### Fields that are no value of their kind -/

theorem readFlag_none (x : Nat) : readFlag x = none ↔ 2 ≤ x := by
  match x with
  | 0 => simp [readFlag]
  | 1 => simp [readFlag]
  | n + 2 => simp [readFlag]

theorem readRole_none (x : Nat) : readRole x = none ↔ 2 ≤ x := by
  match x with
  | 0 => simp [readRole]
  | 1 => simp [readRole]
  | n + 2 => simp [readRole]

theorem readFin_none (n x : Nat) : readFin n x = none ↔ n ≤ x := by
  unfold readFin; split <;> simp <;> omega

theorem readOptional_none (n x : Nat) : readOptional n x = none ↔ n ≤ x ∧ x ≠ 255 := by
  unfold readOptional
  by_cases h : x = 255 <;> simp [h, readFin_none]

theorem readSide_none (role : Role) (x : Nat) : readSide role x = none ↔ 12 ≤ x ∧ ¬ (role = .incomer ∧ x = 0xFE) := by
  unfold readSide
  by_cases h : role = .incomer ∧ x = 0xFE
  · simp [h]
  · rw [if_neg h]; simp [h, readFin_none]

/-- The fields of a channel record give none exactly where one of them is no value of its kind. -/
theorem channelRecord_none (r : Request) :
    r.channelRecord = none ↔ 2 ≤ r.byte 2 ∨ 12 ≤ r.byte 3 ∨ (12 ≤ r.byte 4 ∧ r.byte 4 ≠ 255) := by
  rw [← readFlag_none (r.byte 2), ← readFin_none 12 (r.byte 3), ← readOptional_none 12 (r.byte 4)]
  unfold Request.channelRecord
  cases readFlag (r.byte 2) <;> cases readFin 12 (r.byte 3) <;> cases readOptional 12 (r.byte 4) <;> simp

theorem zoneRecord_none (r : Request) : r.zoneRecord = none ↔ 2 ≤ r.byte 2 ∨ 2 ≤ r.byte 3 := by
  rw [← readFlag_none (r.byte 2), ← readFlag_none (r.byte 3)]
  unfold Request.zoneRecord
  cases readFlag (r.byte 2) <;> cases readFlag (r.byte 3) <;> simp

theorem linkSlot_none (r : Request) :
    r.linkSlot = none ↔ 2 ≤ r.byte 2 ∨ (r.byte 2 = 1 ∧ (12 ≤ r.byte 3 ∨ 12 ≤ r.byte 4)) := by
  have h : r.byte 2 = 0 ∨ r.byte 2 = 1 ∨ 2 ≤ r.byte 2 := by omega
  rw [← readFin_none 12 (r.byte 3), ← readFin_none 12 (r.byte 4)]
  unfold Request.linkSlot
  rcases h with h | h | h
  · simp [h, readFlag]
  · cases readFin 12 (r.byte 3) <;> cases readFin 12 (r.byte 4) <;> simp [h, readFlag]
  · simp [(readFlag_none _).mpr h, h]

theorem breakerRecord_none (r : Request) :
    r.breakerRecord = none ↔
      2 ≤ r.byte 2 ∨ 2 ≤ r.byte 3 ∨ (12 ≤ r.byte 4 ∧ ¬ (r.byte 3 = 0 ∧ r.byte 4 = 0xFE)) ∨ 12 ≤ r.byte 5 ∨ 3 ≤ r.byte 6
        ∨ 2 ≤ r.byte 7 ∨ (4 ≤ r.byte 10 ∧ r.byte 10 ≠ 255) := by
  have h : r.byte 3 = 0 ∨ r.byte 3 = 1 ∨ 2 ≤ r.byte 3 := by omega
  rw [← readFlag_none (r.byte 2), ← readFin_none 12 (r.byte 5), ← readFin_none 3 (r.byte 6), ← readFlag_none (r.byte 7),
    ← readOptional_none 4 (r.byte 10)]
  have key : ∀ role, readRole (r.byte 3) = some role → ¬ 2 ≤ r.byte 3 →
      ((12 ≤ r.byte 4 ∧ ¬ (r.byte 3 = 0 ∧ r.byte 4 = 0xFE)) ↔ readSide role (r.byte 4) = none) →
      (r.breakerRecord = none ↔ readFlag (r.byte 2) = none ∨ 2 ≤ r.byte 3
        ∨ (12 ≤ r.byte 4 ∧ ¬ (r.byte 3 = 0 ∧ r.byte 4 = 0xFE)) ∨ readFin 12 (r.byte 5) = none ∨ readFin 3 (r.byte 6) = none
        ∨ readFlag (r.byte 7) = none ∨ readOptional 4 (r.byte 10) = none) := by
    intro role hr hn hs
    rw [hs]
    unfold Request.breakerRecord
    rw [hr]
    dsimp only [Option.bind_eq_bind, Option.bind_some]
    cases readFlag (r.byte 2) <;> cases readSide role (r.byte 4) <;> cases readFin 12 (r.byte 5) <;>
      cases readFin 3 (r.byte 6) <;> cases readFlag (r.byte 7) <;> cases readOptional 4 (r.byte 10) <;> simp [hn]
  rcases h with h | h | h
  · exact key .incomer (by rw [h]; rfl) (by omega) (by rw [readSide_none]; simp [h])
  · exact key .coupler (by rw [h]; rfl) (by omega) (by rw [readSide_none]; simp [h])
  · unfold Request.breakerRecord
    rw [(readRole_none _).mpr h]
    cases readFlag (r.byte 2) <;> simp [h]

/-! ### Structure -/

theorem mem_channelZones (x : ChannelRecord) (z : ZoneId) : z ∈ x.zones ↔ x.primary = z ∨ x.secondary = some z := by
  unfold ChannelRecord.zones
  split
  · rename_i h; simp [h, eq_comm]
  · rename_i w h; split <;> simp [h, eq_comm, or_comm]

theorem mem_sideZones (x : BreakerRecord) (z : ZoneId) :
    z ∈ x.sideZones ↔ z = x.sideB ∨ (x.role = .coupler ∧ x.sideA = .zone z) := by
  unfold BreakerRecord.sideZones
  split <;> rename_i h1 <;> (try rename_i h2)
  · simp [h1]
  · simp [h1, h2]
  · simp [h1, h2, or_comm, eq_comm]

theorem channelStructureOk_iff (x : ChannelRecord) : channelStructureOk x = true ↔ x.secondary ≠ some x.primary := by
  simp [channelStructureOk]

/-- A breaker record in use must be one that the map can place (R33). -/
theorem breakerStructureOk_iff (w : Settings) (x : BreakerRecord) :
    breakerStructureOk w x = true ↔ (x.inUse = true → Placed w x) := by
  unfold breakerStructureOk Placed
  cases x.inUse <;> cases x.role <;> cases x.sideA <;> simp
  tauto

/-- A check of every entry of a table. -/
theorem all_look {α : Type} {n : Nat} (v : Vector α n) (p : α → Bool) :
    v.toList.all p = true ↔ ∀ i, p (look v i) = true := by
  rw [List.all_eq_true]
  constructor
  · intro h i; exact h _ (by rw [Vector.mem_toList_iff]; exact Vector.getElem_mem _)
  · intro h x hx
    rw [Vector.mem_toList_iff] at hx
    obtain ⟨i, hi, rfl⟩ := Vector.getElem_of_mem hx
    exact h ⟨i, hi⟩

/-- A zone that is named by a filled link or an in-use breaker may not leave use (R30). -/
theorem zoneStructureOk_iff (w : Settings) (z : ZoneId) (x : ZoneRecord) :
    zoneStructureOk w z x = true ↔ x.inUse = true
      ∨ ¬ ((∃ l a b, look w.links l = some (a, b) ∧ (a = z ∨ b = z))
        ∨ ∃ b, (look w.breakers b).inUse = true ∧ z ∈ (look w.breakers b).sideZones) := by
  unfold zoneStructureOk
  rw [Bool.or_eq_true, Bool.and_eq_true, all_look, all_look, not_or]
  refine or_congr_right (and_congr ⟨?_, fun h l => ?_⟩ ⟨?_, fun h b => ?_⟩)
  · rintro h ⟨l, a, b, h1, h2⟩
    have := h l
    rw [h1] at this
    simp only [bne_iff_ne, Bool.and_eq_true] at this
    exact h2.elim this.1 this.2
  · split
    · rfl
    · rename_i a b he
      simpa using fun hh => h ⟨l, a, b, he, hh⟩
  · rintro h ⟨b, h1, h2⟩
    have := h b
    rw [h1] at this
    simp [h2] at this
  · by_cases hu : (look w.breakers b).inUse = true
    · have : z ∉ (look w.breakers b).sideZones := fun hz => h ⟨b, hu, hz⟩
      simp [this]
    · simp [hu]

/-- A link must join two distinct zones in use and hold no other slot's pair (R32). -/
theorem linkStructureOk_iff (w : Settings) (l : LinkId) (x : Option (ZoneId × ZoneId)) :
    linkStructureOk w l x = true ↔
      ∀ a b, x = some (a, b) → a ≠ b ∧ (look w.zones a).inUse = true ∧ (look w.zones b).inUse = true
        ∧ ∀ j, j ≠ l → look w.links j ≠ some (a, b) ∧ look w.links j ≠ some (b, a) := by
  unfold linkStructureOk
  rcases x with _ | ⟨a, b⟩
  · simp
  · simp only [Bool.and_eq_true, bne_iff_ne, List.all_eq_true, ids, List.mem_finRange, true_implies, Bool.or_eq_true,
      beq_iff_eq, Option.some.injEq, Prod.mk.injEq, and_imp, and_assoc]
    constructor
    · rintro ⟨h1, h2, h3, h4⟩ _ _ rfl rfl
      exact ⟨h1, h2, h3, fun j hj => (h4 j).resolve_left hj⟩
    · intro h
      obtain ⟨h1, h2, h3, h4⟩ := h a b rfl rfl
      exact ⟨h1, h2, h3, fun j => or_iff_not_imp_left.mpr (h4 j)⟩

/-! ### Settings that Write Item could have built (R181) -/

/-- The clamp leaves a channel record alone exactly where every number lies in its range (R2). -/
theorem channel_clamped_iff (r : ChannelRecord) : r.clamped = r ↔ ChannelInRange r := by
  obtain ⟨u, p, q, ta, g, m, k, n, ref⟩ := r
  simp only [ChannelRecord.clamped, clampTo, ChannelRecord.mk.injEq, ChannelInRange, true_and]
  omega

theorem breaker_clamped_iff (r : BreakerRecord) : r.clamped = r ↔ 30 ≤ r.bfTime ∧ r.bfTime ≤ 500 := by
  obtain ⟨u, ro, a, b, o, cc, bf, ut⟩ := r
  simp only [BreakerRecord.clamped, clampTo, BreakerRecord.mk.injEq, true_and, and_true]
  omega

theorem port_clamped_iff (r : PortRecord) : r.clamped = r ↔ r.priority ≤ 3 ∧ r.ceiling ≤ 15 := by
  obtain ⟨p, c⟩ := r
  simp only [PortRecord.clamped, clampTo, PortRecord.mk.injEq]
  omega

/-- Links that join zones in use, and in-use breakers that the map can place, name no zone that is not in use (R30). -/
theorem zones_named (w : Settings) (hl : LinksOk w)
    (hb : ∀ b, (look w.breakers b).inUse = true → Placed w (look w.breakers b)) (z : ZoneId) :
    zoneStructureOk w z (look w.zones z) = true := by
  rw [zoneStructureOk_iff, or_iff_not_imp_left]
  rintro hz (⟨l, a, b, h, e⟩ | ⟨b, hu, hm⟩)
  · obtain ⟨_, h1, h2, _⟩ := hl l a b h
    rcases e with rfl | rfl
    · exact hz h1
    · exact hz h2
  · obtain ⟨h1, h2, h3⟩ := hb b hu
    rcases (mem_sideZones _ _).mp hm with rfl | ⟨hr, hs⟩
    · exact hz h1
    · obtain ⟨_, a, ha, _, hi⟩ := h3 hr
      rw [hs] at ha; cases ha; exact hz hi

/-- The check of a stored image's settings is `Buildable` (R181). -/
theorem buildable_iff (w : Settings) : w.buildable = true ↔ Buildable w := by
  have hids : ∀ {n : Nat} (p : Fin n → Bool), (ids n).all p = true ↔ ∀ i, p i = true := by
    intro n p; simp [ids, List.mem_finRange]
  have hside : ∀ r : BreakerRecord, breakerSideOk r = true ↔ ¬ (r.role = .coupler ∧ r.sideA = .external) := by
    intro r; rw [not_and_or]; simp [breakerSideOk]
  unfold Settings.buildable Buildable
  simp only [Bool.and_eq_true, all_look, hids, beq_iff_eq, channel_clamped_iff, breaker_clamped_iff, port_clamped_iff,
    channelStructureOk_iff, breakerStructureOk_iff, linkStructureOk_iff, hside]
  constructor
  · rintro ⟨⟨⟨⟨h1, _⟩, h3⟩, h4⟩, h5⟩
    refine ⟨h1, fun l a b h => (h3 l).1 a b h, fun l a b h => ?_,
      fun b => ⟨(h4 b).1.1.1, (h4 b).1.1.2, (h4 b).1.2, (h4 b).2⟩, h5⟩
    have := (h3 l).2
    rw [h] at this
    simpa using this
  · rintro ⟨h1, h2, h3, h4, h5⟩
    refine ⟨⟨⟨⟨h1, zones_named w h2 (fun b => (h4 b).2.2.2)⟩, fun l => ⟨fun a b h => h2 l a b h, ?_⟩⟩,
      fun b => ⟨⟨⟨(h4 b).1, (h4 b).2.1⟩, (h4 b).2.2.1⟩, (h4 b).2.2.2⟩⟩, h5⟩
    split
    · rfl
    · rename_i a b h; simpa using h3 l a b h

end Sys2Proof.Machine
end

