-- ==== Sys2Proof/Laws/TakeUp.lean ====
section
/-! SUPPORT. Taking up the next channel of a batch, with its skip checks, whole (R121 to R124, R26). -/

namespace Sys2Proof.Machine

open Sys2Proof Sys2Proof.Safety

/-- The skip checks are those of Table 7-3 (R122, R123). -/
theorem skipCheck_eq (s : State) (c : ChanId) : s.skipCheck c = skipOutcome s c := by
  have e1 : (s.chan c).lineFaulted = true ↔ ((s.chan c).phase = .faulted ∧ (s.chan c).cause = some .line) := by
    simp [Channel.lineFaulted]
  have e2 : (s.chanRec c).zones.any (fun z => (s.zone z).isBright) = true
      ↔ ∃ z, (s.chanRec c).watches z = true ∧ ((s.zone z).prot = .lit ∨ (s.zone z).prot = .arc) := by
    simp [List.any_eq_true, mem_zones, Zone.isBright]
  have e3 : (s.chanRec c).zones.any (fun z => s.soleCover c z) = true
      ↔ ∃ z, (s.chanRec c).watches z = true ∧ (s.zoneRec z).inUse = true ∧ (s.zone z).prot ≠ .held
        ∧ s.ableToCover c z = true ∧ ∀ d, d ≠ c → s.ableToCover d z = false := by
    have : ∀ z, s.soleCover c z = true ↔ ((s.zoneRec z).inUse = true ∧ (s.zone z).prot ≠ .held
        ∧ s.ableToCover c z = true ∧ ∀ d, d ≠ c → s.ableToCover d z = false) := by
      intro z
      simp only [State.soleCover, Bool.and_eq_true, bne_iff_ne, List.all_eq_true, Bool.or_eq_true, beq_iff_eq,
        Bool.not_eq_true', and_assoc]
      constructor
      · rintro ⟨a, b, c', d⟩; exact ⟨a, b, c', fun x hx => (d x (List.mem_finRange x)).resolve_left hx⟩
      · rintro ⟨a, b, c', d⟩; exact ⟨a, b, c', fun x _ => by by_cases h : x = c; exact .inl h; exact .inr (d x h)⟩
    simp only [List.any_eq_true, mem_zones, this]
  unfold State.skipCheck skipOutcome
  dsimp only
  simp only [e1, e2, e3, Bool.not_eq_true']

/-- A test begins (R26, R124): a CONFIRMED channel, which passes its checks only where no zone of it is LIT or ARC, leaves
the sets of its zones. -/
theorem beginTest_spec {s : State} {c : ChanId} (h : skipOutcome s c = none) :
    (s.beginTest c).batch = { s.batch with
        current := some c, step := some .emit, settleTimer := some (s.now + 2000), emitSum := 0, emitCount := 0 }
      ∧ (s.beginTest c).chan c = inTesting (s.chan c) ∧ OnlyChan s (s.beginTest c) c
      ∧ (∀ z, (s.beginTest c).zone z =
          if (s.chan c).phase = .confirmed ∧ (s.chanRec c).watches z = true then
            { s.zone z with confirmed := (s.zone z).confirmed.drop c }
          else s.zone z)
      ∧ SameBut [.channels, .zones, .batch] s (s.beginTest c) := by
  by_cases hc : (s.chan c).phase = .confirmed
  · have hrest : ∀ z, z ∈ (s.chanRec c).zones → (s.zone z).prot = .held ∨ (s.zone z).prot = .dark := by
      intro z hz
      rw [mem_zones] at hz
      unfold skipOutcome at h
      split at h
      · simp at h
      split at h
      · simp at h
      split at h
      · simp at h
      split at h
      · simp at h
      rename_i hb
      cases hp : (s.zone z).prot
      · exact .inr rfl
      · exact absurd ⟨z, hz, .inl hp⟩ hb
      · exact absurd ⟨z, hz, .inr hp⟩ hb
      · exact .inl rfl
    obtain ⟨d1, d2⟩ := dropReports_rest c (s.chanRec c).zones (s.setChan c (inTesting (s.chan c))) hrest
    have e : s.putChannel c (s.chanRec c).zones (s.chan c).enterTesting
        = (s.chanRec c).zones.foldl (fun s z => s.dropReport c z) (s.setChan c (inTesting (s.chan c))) := by
      simp [State.putChannel, Channel.isConfirmed, hc, Channel.enterTesting, inTesting]
    unfold State.beginTest
    rw [e]
    have hs := d2
    generalize (s.chanRec c).zones.foldl (fun s z => s.dropReport c z) (s.setChan c (inTesting (s.chan c))) = t at *
    refine ⟨?_, ?_, ?_, ?_, ?_⟩
    · simp [hs.batch, hs.now, State.after, settleTime, ms]
    · simp [hs.chan]
    · intro d hd; simp [hs.chan, Ne.symm hd]
    · intro z; simp [d1, mem_zones, hc]
    · exact SameBut.trans (t := s.setChan c (inTesting (s.chan c))) (by simp [SameBut])
        (SameBut.trans (hs.mono (by simp)) (by simp [SameBut]))
  · rw [beginTest_eq hc]
    refine ⟨by simp, by simp, ?_, ?_, by simp [SameBut]⟩
    · intro d hd; simp [Ne.symm hd]
    · intro z; simp [hc]

theorem skipOutcome_setBatch (s : State) (b : Batch) (c : ChanId) : skipOutcome (s.setBatch b) c = skipOutcome s c := rfl

/-- Taking up the next channel of an ascending list (R121). -/
theorem takeUpFrom_spec (l : List ChanId) : ∀ s : State, l.Pairwise (· < ·) →
    (∀ d, (s.takeUpFrom l).result d =
      if d ∈ l ∧ s.result d = .pending ∧ ∀ e, e ∈ l → e ≤ d → s.result e = .pending → skipOutcome s e ≠ none then
        (skipOutcome s d).getD .pending
      else s.result d)
    ∧ ((∀ e, e ∈ l → s.result e = .pending → skipOutcome s e ≠ none) →
        (s.takeUpFrom l).batch = { s.batch with results := (s.takeUpFrom l).batch.results, state := .idle }
          ∧ SameBut [.batch] s (s.takeUpFrom l))
    ∧ ∀ c, c ∈ l → s.result c = .pending → skipOutcome s c = none →
        (∀ d, d ∈ l → d < c → s.result d = .pending → skipOutcome s d ≠ none) →
        (s.takeUpFrom l).batch = { s.batch with
            results := (s.takeUpFrom l).batch.results, current := some c, step := some .emit
            settleTimer := some (s.now + 2000), emitSum := 0, emitCount := 0 }
          ∧ (s.takeUpFrom l).chan c = inTesting (s.chan c) ∧ OnlyChan s (s.takeUpFrom l) c
          ∧ (∀ z, (s.takeUpFrom l).zone z =
              if (s.chan c).phase = .confirmed ∧ (s.chanRec c).watches z = true then
                { s.zone z with confirmed := (s.zone z).confirmed.drop c }
              else s.zone z)
          ∧ SameBut [.channels, .zones, .batch] s (s.takeUpFrom l) := by
  induction l with
  | nil =>
    intro s _
    refine ⟨by intro d; simp [State.takeUpFrom, State.result], ?_, by intro c hc; simp at hc⟩
    intro _; simp [State.takeUpFrom, SameBut]
  | cons a l ih =>
    intro s hp
    obtain ⟨p1, p2⟩ := List.pairwise_cons.mp hp
    by_cases ha : s.result a = .pending
    · cases hk : skipOutcome s a with
      | none =>
        have e : s.takeUpFrom (a :: l) = s.beginTest a := by
          simp [State.takeUpFrom, ha, skipCheck_eq, hk]
        obtain ⟨b1, b2, b3, b4, b5⟩ := beginTest_spec hk
        rw [e]
        refine ⟨?_, ?_, ?_⟩
        · intro d
          rw [if_neg]
          · simp [State.result, b1]
          · rintro ⟨hd, _, h⟩
            have had : a ≤ d := by
              rcases List.mem_cons.mp hd with rfl | hd
              · exact le_refl _
              · exact le_of_lt (p1 d hd)
            exact h a (by simp) had ha hk
        · intro h; exact absurd hk (h a (by simp) ha)
        · intro c hc hcp hck hlt
          have : c = a := by
            rcases List.mem_cons.mp hc with h | h
            · exact h
            · exact absurd hk (hlt a (by simp) (p1 c h) ha)
          subst this
          exact ⟨by rw [b1], b2, b3, b4, b5⟩
      | some out =>
        have e : s.takeUpFrom (a :: l) = (s.setResult a out).takeUpFrom l := by
          simp [State.takeUpFrom, ha, skipCheck_eq, hk]
        obtain ⟨i1, i2, i3⟩ := ih (s.setResult a out) p2
        have hres : ∀ d, (s.setResult a out).result d = if a = d then out else s.result d := by
          intro d; simp [State.setResult, State.result]
        have hsk : ∀ d, skipOutcome (s.setResult a out) d = skipOutcome s d := fun d => rfl
        have hne : ∀ d, d ∈ l → ¬ a = d := fun d hd h => absurd (p1 d hd) (by rw [h]; exact lt_irrefl _)
        have hb : (s.setResult a out).batch = { s.batch with results := put s.batch.results a out } := rfl
        rw [e]
        refine ⟨?_, ?_, ?_⟩
        · intro d
          rw [i1 d, hsk, hres]
          by_cases had : a = d
          · subst had
            have : a ∉ l := fun h => hne a h rfl
            rw [if_neg (by simp [this]), if_pos rfl, if_pos]
            · simp [hk]
            · refine ⟨by simp, ha, ?_⟩
              intro e' he' hle hp' hsn
              rcases List.mem_cons.mp he' with rfl | h
              · rw [hk] at hsn; simp at hsn
              · exact absurd (p1 e' h) (not_lt.mpr hle)
          · simp only [had, if_false]
            congr 1
            apply propext
            constructor
            · rintro ⟨h1, h2, h3⟩
              refine ⟨by simp [h1], h2, ?_⟩
              intro e' he' hle hp'
              rcases List.mem_cons.mp he' with rfl | h
              · rw [hk]; simp
              · have := h3 e' h hle; rw [hres, if_neg (hne e' h)] at this; exact this hp'
            · rintro ⟨h1, h2, h3⟩
              refine ⟨(List.mem_cons.mp h1).resolve_left (Ne.symm had), h2, ?_⟩
              intro e' he' hle hp'
              rw [hres, if_neg (hne e' he')] at hp'
              exact h3 e' (by simp [he']) hle hp'
        · intro h
          obtain ⟨j1, j2⟩ := i2 (by
            intro e' he' hp'
            rw [hres, if_neg (hne e' he')] at hp'
            exact h e' (by simp [he']) hp')
          refine ⟨?_, SameBut.trans (t := s.setResult a out) (by simp [State.setResult, SameBut]) j2⟩
          rw [j1, hb]
        · intro c hc hcp hck hlt
          have hca : c ∈ l := by
            rcases List.mem_cons.mp hc with rfl | h
            · rw [hk] at hck; simp at hck
            · exact h
          obtain ⟨j1, j2, j3, j4, j5⟩ := i3 c hca (by rw [hres, if_neg (hne c hca)]; exact hcp) hck (by
            intro d hd hdc hp'
            rw [hres, if_neg (hne d hd)] at hp'
            exact hlt d (by simp [hd]) hdc hp')
          refine ⟨?_, j2, j3, j4, SameBut.trans (t := s.setResult a out) (by simp [State.setResult, SameBut]) j5⟩
          rw [j1, hb]; rfl
    · have e : s.takeUpFrom (a :: l) = s.takeUpFrom l := by simp [State.takeUpFrom, ha]
      obtain ⟨i1, i2, i3⟩ := ih s p2
      rw [e]
      refine ⟨?_, ?_, ?_⟩
      · intro d
        rw [i1 d]
        congr 1
        apply propext
        constructor
        · rintro ⟨h1, h2, h3⟩
          refine ⟨by simp [h1], h2, ?_⟩
          intro e' he' hle hp'
          rcases List.mem_cons.mp he' with rfl | h
          · exact absurd hp' ha
          · exact h3 e' h hle hp'
        · rintro ⟨h1, h2, h3⟩
          refine ⟨?_, h2, fun e' he' => h3 e' (by simp [he'])⟩
          rcases List.mem_cons.mp h1 with rfl | h
          · exact absurd h2 ha
          · exact h
      · intro h; exact i2 (fun e' he' => h e' (by simp [he']))
      · intro c hc hcp hck hlt
        have hca : c ∈ l := by
          rcases List.mem_cons.mp hc with rfl | h
          · exact absurd hcp ha
          · exact h
        exact i3 c hca hcp hck (fun d hd => hlt d (by simp [hd]))

/-- The next channel of a batch is taken up (R121, R122). -/
theorem takeUp_spec (s : State) : TakenUp s s.takeUp := by
  have hm : ∀ c : ChanId, c ∈ ids 24 := List.mem_finRange
  obtain ⟨h1, h2, h3⟩ := takeUpFrom_spec (ids 24) s (List.pairwise_lt_finRange 24)
  refine ⟨?_, fun h => h2 (fun e _ => h e), fun c hc hk hl => h3 c (hm c) hc hk (fun d _ => hl d)⟩
  intro d
  have := h1 d
  simp only [hm, true_and, forall_true_left] at this
  exact this

/-- Either every PENDING channel fails its skip checks, or one is the first that passes them. -/
theorem takeUp_or (s : State) : (∀ e, s.result e = .pending → skipOutcome s e ≠ none)
    ∨ ∃ c, s.result c = .pending ∧ skipOutcome s c = none
        ∧ ∀ d, d < c → s.result d = .pending → skipOutcome s d ≠ none := by
  by_cases hall : ∀ e, s.result e = .pending → skipOutcome s e ≠ none
  · exact .inl hall
  · push Not at hall
    obtain ⟨e, he⟩ := hall
    obtain ⟨m, hm, hmin⟩ :=
      WellFounded.has_min (wellFounded_lt (α := ChanId)) {c | s.result c = .pending ∧ skipOutcome s c = none} ⟨e, he⟩
    exact .inr ⟨m, hm.1, hm.2, fun d hd hp hn => hmin d ⟨hp, hn⟩ hd⟩

/-- Taking up a channel leaves the settings alone. -/
theorem takeUp_sets (s : State) : s.takeUp.sets = s.sets := by
  obtain ⟨h1, h2, h3⟩ := takeUp_spec s
  rcases takeUp_or s with h | ⟨c, hc1, hc2, hc3⟩
  · exact (h2 h).2.sets
  · exact (h3 c hc1 hc2 hc3).2.2.2.2.sets

/-- A RUNNING batch that takes up a channel is RUNNING or IDLE after it (R121). -/
theorem takeUp_state {s : State} (h : s.batch.state = .running) : s.takeUp.batch.state ≠ .suspended := by
  obtain ⟨h1, h2, h3⟩ := takeUp_spec s
  rcases takeUp_or s with k | ⟨c, hc1, hc2, hc3⟩
  · rw [(h2 k).1]; simp
  · rw [(h3 c hc1 hc2 hc3).1]; simp [h]

/-- After a channel was taken up the quiet timer's condition is settled: the batch is not SUSPENDED (R134). -/
theorem settleQuiet_takeUp {s : State} (h : s.batch.state = .running) : s.takeUp.settleQuiet = s.takeUp :=
  settleQuiet_of_not _ (fun k => takeUp_state h k.1)

/-- Taking up reads only the working settings of the settings unit. -/
theorem takenUp_setSets {s t : State} (h : TakenUp s t) {x : SettingsUnit} (hx : x.working = s.sets.working) :
    TakenUp (s.setSets x) (t.setSets x) := by
  cases x
  simp only at hx
  subst hx
  obtain ⟨h1, h2, h3⟩ := h
  refine ⟨h1, fun hn => ⟨(h2 hn).1, (h2 hn).2.setSets _⟩, fun c hp hn hl => ?_⟩
  obtain ⟨a, b, d, e, f⟩ := h3 c hp hn hl
  exact ⟨a, b, d, e, f.setSets _⟩

end Sys2Proof.Machine
end

