-- ==== Sys2Proof/Laws/Writes.lean ====
section
/-! SUPPORT. Accepted settings writes, a release, and the end of LOADING. -/

namespace Sys2Proof.Machine

open Sys2Proof Sys2Proof.Safety

/-- With no order active and no zone LIT, a write to the map finds nothing to do (R178). -/
theorem mapWritten_of_atRest {s : State} (h : AtRest s) : s.mapWritten = s := by
  obtain ⟨h1, h2⟩ := h
  have : (ids 12).foldl (fun s o => s.demandMissing o) s = s :=
    foldl_id _ _ (by intro o _; simp [State.demandMissing, h1 o])
  unfold State.mapWritten
  rw [this, evaluateWhere_dark _ h2]

/-- The hold condition (R177). -/
theorem holdsMet_iff {s : State} (hs : s.inService = true) (zs : List ZoneId) :
    s.holdsMet zs = true ↔ (s.mode = .protecting → ∀ z, z ∈ zs → (s.zone z).prot = .held) := by
  have : s.mode = .protecting ∨ s.mode = .backstop := by simpa [State.inService] using hs
  rcases this with h | h <;> simp [State.holdsMet, h]

theorem superviseBreaker_same (s : State) (b : BreakerId) (old new : Bool) :
    SameBut [.inputs] s (s.superviseBreaker b old new) := by
  unfold State.superviseBreaker
  dsimp only
  split_ifs <;> simp [SameBut]

theorem releaseBreaker_same (s : State) (b : BreakerId) : SameBut [.trips, .inputs, .lockout] s (s.releaseBreaker b) := by
  unfold State.releaseBreaker; dsimp only; rw [lockoutChanged_eq]; simp [SameBut]

theorem releasable_iff (p : TripPhase) : p.releasable = true ↔ (p = .idle ∨ p = .openDone ∨ p = .spent) := by
  cases p <;> simp [TripPhase.releasable]

/-- A breaker that drives no TRIP line hears no report (R64 to R67). -/
theorem tripReport_released {s : State} {b : BreakerId}
    (h : (s.trip b).phase = .idle ∨ (s.trip b).phase = .openDone ∨ (s.trip b).phase = .spent) : s.tripReport b = s := by
  unfold State.tripReport; rcases h with h | h | h <;> simp [h]

section
variable (s : State)

@[simp] theorem startBlocks_mode : s.startBlocks.mode = s.mode := by unfold State.startBlocks; rfl
@[simp] theorem startBlocks_sets : s.startBlocks.sets = s.sets := by unfold State.startBlocks; rfl
@[simp] theorem startBlocks_ring : s.startBlocks.ring = s.ring := by unfold State.startBlocks; rfl
@[simp] theorem startBlocks_nextSeq : s.startBlocks.nextSeq = s.nextSeq := by unfold State.startBlocks; rfl
@[simp] theorem startBlocks_ports : s.startBlocks.ports = s.ports := by unfold State.startBlocks; rfl
@[simp] theorem startBlocks_lockout : s.startBlocks.lockout = s.lockout := by unfold State.startBlocks; rfl
@[simp] theorem startBlocks_batch : s.startBlocks.batch = Batch.atReset := by unfold State.startBlocks; rfl
@[simp] theorem startBlocks_sup : s.startBlocks.sup = Supervision.atReset := by unfold State.startBlocks; rfl
@[simp] theorem startBlocks_loadLimit : s.startBlocks.loadLimit = none := by unfold State.startBlocks; rfl
@[simp] theorem startBlocks_inForce : s.startBlocks.inForce = s.inForce := by
  simp only [State.inForce, startBlocks_mode, startBlocks_sets]
@[simp] theorem startBlocks_chan (c : ChanId) : s.startBlocks.chan c = Channel.atEntry (s.chanRec c) s.inForce.fast := by
  unfold State.startBlocks State.chan; rw [look_ofFn]
@[simp] theorem startBlocks_input (b : BreakerId) : s.startBlocks.input b = s.startInputs b := by
  unfold State.startBlocks State.input; rw [look_ofFn]

end

end Sys2Proof.Machine
end

