-- ==== Sys2Proof/Tests/Slice0.lean ====
section
/-! SUPPORT. Tests: the checks of WellFormed, what commands do on small states (expected values worked by hand from the
spec), and for each obligation with hypotheses a witness that meets them, at the ends of their ranges. -/

namespace Sys2Proof.Tests

set_option Elab.async false

open Sys2Proof Sys2Proof.Machine Sys2Proof.Safety

/-! ### Small states -/

/-- PROTECTING on the BACKSTOP defaults: every channel watches Z0, and every breaker is an INCOMER of Z0. -/
def work : State := { State.reset with mode := .protecting }

/-- A request with a kind and data. -/
def request (k : Byte) (data : List Byte) : Request := { kind := k, tag := 7#8, data := data }

/-- `s` with port `p`'s request executing. -/
def serve (s : State) (p : PortId) (r : Request) : State := s.setPort p { s.port p with slot := .executing r }

/-- Channel 0 in a phase, with b_int 100: under the defaults T is 2048 and D is 1792. -/
def chan0 (ph : ChannelPhase) : State := work.setChan 0 { work.chan 0 with phase := ph, bfp := 1600 }

/-- An active order of Z0 that lists B0 and B1, both open. -/
def order01 : Order :=
  { zones := [0], span := 1, level := 0
    entries := [{ breaker := 0, level := 0, outcome := none, outcomeTime := none, offset := none },
      { breaker := 1, level := 0, outcome := none, outcomeTime := none, offset := none }]
    ut := 0, decision := { sec := 0, us := 0 }, source := none, resolution := none, closeTimer := none
    escLimit := false, supplyLow := false, decisionStatus := .unset, channels := [], noUpstream := 0, timeStep := false }

/-- `order01` in slot 0 with Z0 in ARC, and B0 driven by it in phase `ph` with its timers running. -/
def arc (ph : TripPhase) : State :=
  ((work.setOrder 0 (some order01)).setZone 0 { work.zone 0 with prot := .arc, orderSlot := some 0 }).setTrip 0
    { phase := ph, demands := 1, bfTimer := some 120000, minTimer := some 100000, ceilTimer := some 2000000
      failed := false }

/-- `s` with zone 0 in protection state `x`. -/
def zone0 (x : Prot) (s : State) : State := s.setZone 0 { s.zone 0 with prot := x }

/-- Z0 held by port 0 until 9 s. -/
def held0 (x : Prot) : State :=
  work.setZone 0 { work.zone 0 with prot := x, holds := put (Vector.replicate 3 none) 0 (some 9000000) }

/-- Settings with Z0 and Z1 in use, and B0 a COUPLER between them. -/
def coupled : Settings :=
  { backstopDefaults with
    zones := put backstopDefaults.zones 1 { inUse := true, lightOnly := false }
    breakers := put backstopDefaults.breakers 0 { defaultBreaker none with role := .coupler, sideA := .zone 0, sideB := 1 } }

/-- A value of the state that an outcome gives. -/
def after {α : Type} (o : Result) (f : State → α) : Option α :=
  match o with
  | .next t => some (f t)
  | .fault _ => none
  | .refused _ => none

/-! ### Which commands exist -/

theorem test_sample_4095_exists : (Instr.sampleArrival 0 4095 .ok).wellFormed = true := by decide
theorem test_sample_4096_refused : (Instr.sampleArrival 0 4096 .ok).wellFormed = false := by decide
theorem test_extra_bits_7_exist : (Instr.transactionEnd 0 [] 7).wellFormed = true := by decide
theorem test_extra_bits_8_refused : (Instr.transactionEnd 0 [] 8).wellFormed = false := by decide

theorem test_sample_4096_faults : exec (.sampleArrival 0 4096 .ok) work = .fault .sampleOutOfRange := by rfl
theorem test_extra_bits_8_fault : exec (.transactionEnd 0 [] 8) work = .fault .partialByteOutOfRange := by rfl

theorem test_no_table_word : decodeTableWord 8 0 = none ∧ decodeTableWord 0 0 = none := by decide

/-! ### Check values and encodings -/

/-- The published check values of the two CRCs over the ASCII digits 1 to 9: CRC-8 of generator 07 from FF gives FB, and
CRC-16 of generator 1021 from FFFF gives 29B1. -/
theorem test_crc_check_values :
    crc8 [0x31, 0x32, 0x33, 0x34, 0x35, 0x36, 0x37, 0x38, 0x39] = 0xFB#8
      ∧ crc16 [0x31, 0x32, 0x33, 0x34, 0x35, 0x36, 0x37, 0x38, 0x39] = 0x29B1#16 := by decide +kernel

/-- R171: T_a 300 is 01 2C, an absent secondary zone is FF, ref 1800 is 07 08. -/
theorem test_channel_fields :
    encodeChannel { inUse := true, primary := 2, secondary := none, ta := 300, g := 8, m := 60, k := 5, n := 2, ref := 1800 }
      = [1, 2, 0xFF, 0x01, 0x2C, 8, 0, 60, 5, 2, 0x07, 0x08] := by decide

/-- R34: a BF time of 20 ms is clamped to 30, and Table 10-7: N = 12 is clamped to 8. -/
theorem test_clamps :
    ({ defaultBreaker none with bfTime := 20 } : BreakerRecord).clamped.bfTime = 30
      ∧ ({ defaultChannel with n := 12 } : ChannelRecord).clamped.n = 8 := by decide

/-! ### Light channels -/

/-- Tables 1-5 and 1-6: background updates, with the floor toward minus infinity. -/
theorem test_background_updates :
    filtered 6 650 3200 = 3312 ∧ filtered 6 620 3312 = 3415 ∧ filtered 6 209 3312 = 3312 ∧ filtered 6 100 3312 = 3285
      ∧ filtered 4 0 1 = 0 ∧ filtered 12 4094 65520 = 65519 := by decide

/-- Table 1-5: b_fp 3312 with T_a = 600, g = 24, m = 80 gives T = 701 and D = 614. -/
theorem test_threshold :
    threshold { defaultChannel with ta := 600, g := 24, m := 80 } { Channel.atReset with bfp := 3312 } = 701
      ∧ dropLevel 701 = 614 := by decide

/-- Table 1-5, step 1: the channel of the table takes 650 as ambient. -/
theorem test_ambient_sample :
    after (exec (.sampleArrival 0 650 .ok)
        ((work.setSets { work.sets with working := { backstopDefaults with
            channels := put backstopDefaults.channels 0 { defaultChannel with ta := 600, g := 24, m := 80, k := 6 } } }).setChan 0
          { work.chan 0 with phase := .quiet, bfp := 3200 }))
      (fun t => ((t.chan 0).phase, (t.chan 0).bfp, threshold (t.chanRec 0) (t.chan 0))) = some (.quiet, 3312, 701) := by
  decide +kernel

/-- Table 1-8: a saturated sample in WARMUP confirms the channel early, and its zone is LIT. -/
theorem test_saturated_in_warmup :
    after (exec (.sampleArrival 0 4095 .ok) (work.setChan 0 { work.chan 0 with phase := .warmup, warmSum := 8000, warmCount := 40 }))
      (fun t => ((t.chan 0).phase, (t.chan 0).early, (t.chan 0).warmSum, (t.zone 0).prot))
      = some (.confirmed, true, 0, .lit) := by decide +kernel

/-- R6, Table 1-9: the 200th OPEN sample faults the line, and a record is sealed. -/
theorem test_line_fault :
    after (exec (.lineFault 0) (work.setChan 0 { work.chan 0 with phase := .quiet, nonOkRun := 199 }))
      (fun t => ((t.chan 0).phase, (t.chan 0).cause, t.ring.map (·.body)))
      = some (.faulted, some .line, [.channelFault 0 .line none]) := by decide +kernel

/-- R8, Table 1-9: the 20,000th OK sample gives a fresh WARMUP. -/
theorem test_line_recovery :
    after (exec (.lineRecovery 0) (work.setChan 0 { work.chan 0 with phase := .faulted, cause := some .line, okRun := 19999 }))
      (fun t => ((t.chan 0).phase, (t.chan 0).cause, (t.chan 0).warmLength, t.ring.length))
      = some (.warmup, none, 16, 0) := by decide +kernel

/-! ### The map's inputs -/

theorem test_contacts_start_stability :
    after (exec (.contactLineChange 3 true false) work) (fun t => ((t.input 3).bpc, (t.input 3).stability))
      = some (true, some 3000) := by decide +kernel

/-- R37: after 3 ms of BPC asserted and BPO released the position is CLOSED. -/
theorem test_position_closed :
    after (exec (.positionChange 3) (work.setInput 3 { work.input 3 with bpc := true, stability := some 3000 }))
      (fun t => (t.input 3).position) = some .closed := by decide +kernel

theorem test_position_fault :
    after (exec (.positionFaultTimerExpiry 3) (work.setInput 3 { work.input 3 with unknownTimer := some 0 }))
      (fun t => (t.input 3).positionFault) = some true := by decide +kernel

/-- R41, R42: a line that rises starts the 100 µs filter, whose end gives the filtered current. -/
theorem test_current_filter :
    after (exec (.currentLineChange 1 true) work) (fun t => (t.input 1).filterTimer) = some (some 100)
      ∧ after (exec (.filteredCurrentChange 1) (work.setInput 1 { work.input 1 with curLine := true, filterTimer := some 100 }))
          (fun t => (t.input 1).current) = some true := by decide +kernel

/-! ### Orders and breakers -/

theorem test_light_alarm :
    after (exec (.lightAlarmTimerExpiry 0) (work.setZone 0 { work.zone 0 with prot := .lit, alarmTimer := some 0 }))
      (fun t => ((t.zone 0).alarmSent, t.ring.length)) = some (true, 1) := by decide +kernel

/-- R71: the close seals the ARC record, empties the slot, and a dark zone returns to DARK. -/
theorem test_close_timer :
    after (exec (.closeTimerExpiry 0) ((arc .driving).setOrder 0 (some { order01 with closeTimer := some 0 })))
      (fun t => (t.order 0, (t.zone 0).prot, (t.trip 0).demands, t.ring.length)) = some (none, .dark, 0, 1) := by
  decide +kernel

/-- Table 4-8: at the BF timer's end incomer B1, of UT line UT1, is FAILED, and UT1 is asserted for 200 ms. -/
theorem test_bf_timer :
    after (exec (.bfTimerExpiry 1) ((arc .idle).setTrip 1
        { Trip.atReset with phase := .driving, demands := 1, bfTimer := some 0 }))
      (fun t => ((t.trip 1).phase, (t.utLine 1).asserted, (t.utLine 1).claims, (t.utLine 1).minimum))
      = some (.failed, true, 1, .running 200000) := by decide +kernel

/-- Table 4-7 at 130.0: the minimum pulse of a HOLDING breaker runs out. -/
theorem test_minimum_pulse :
    after (exec (.minimumPulseTimerExpiry 0) (arc .holding)) (fun t => ((t.trip 0).phase, t.tripLine 0))
      = some (.openDone, false) := by decide +kernel

/-- Table 4-7 at 2000.0: the ceiling of a FAILED breaker runs out. -/
theorem test_pulse_ceiling :
    after (exec (.pulseCeilingTimerExpiry 0) (arc .failed))
      (fun t => ((t.trip 0).phase, (t.order 0).map (fun x => x.entries.map (·.outcome))))
      = some (.spent, some [some .spent, none]) := by decide +kernel

/-- Table 4-8 at 320.0: an unclaimed line is released at its minimum's end. -/
theorem test_ut_minimum :
    after (exec (.utMinimumTimerExpiry 1) (work.setUt 1 { UtLine.atReset with asserted := true, minimum := .running 0 }))
      (fun t => t.utLevel 1) = some false := by decide +kernel

/-! ### Lockouts and holds -/

/-- The lockout store updating towards B0 LOCKED, with `st` its state. -/
def updating (st : LockoutStore) : State :=
  work.setLockout { Lockout.atReset factoryWord with marks := 1, store := st, snapshot := some 1, timer := some 60000 }

theorem test_lockout_completion :
    after (exec .lockoutUpdateCompletion (updating .updating)) (fun t => (t.lockout.store, t.lockout.word))
      = some (.idle, { marks := 0x01, complement := 0xFE, marker := true }) := by decide +kernel

/-- R100: the update ends at 60 ms, and not before. -/
theorem test_lockout_timer :
    after (exec .lockoutUpdateTimerExpiry { updating .updatingAgain with now := 60000 })
        (fun t => (t.lockout.store, t.lockout.fault)) = some (.updating, true)
      ∧ after (exec .lockoutUpdateTimerExpiry { updating .updatingAgain with now := 59999 })
        (fun t => (t.lockout.store, t.lockout.fault)) = some (.updatingAgain, false) := by decide +kernel

/-- R100: a completion that comes with the timer's end, and after it, is that of the abandoned update, and does not follow;
one that comes later is the fresh update's. -/
theorem test_lockout_abandoned :
    let ended := fun d : Nat =>
      after (exec .lockoutUpdateTimerExpiry { updating .updatingAgain with now := 60000 })
        (fun t => after (exec .lockoutUpdateCompletion { t with now := 60000 + d })
          (fun u => (u.lockout.store, u.lockout.fault, u.lockout.word.valid)))
    ended 0 = some (some (.updating, true, false)) ∧ ended 1 = some (some (.idle, false, true)) := by decide +kernel

/-- R106: a duration of 0 min is clamped to 1 min: HELD, and 60 s remain. -/
theorem test_hold_zone :
    after (exec .holdZone (serve work 2 (request 0x10#8 [0, 0, 0])))
      (fun t => ((t.zone 0).prot, t.holdOf 0 2, (t.port 2).slot))
      = some (.held, some 60000000,
          .answered (request 0x10#8 [0, 0, 0]) { code := .doneClamped, data := [3, 0, 60] }) := by decide +kernel

theorem test_free_zone :
    after (exec .freeZone (serve (held0 .held) 0 (request 0x11#8 [0]))) (fun t => ((t.zone 0).prot, t.holdOf 0 0))
      = some (.dark, none) := by decide +kernel

/-- R114: at its expiry the entry goes; before it, as after a renewal, nothing is sealed. -/
theorem test_hold_expiry :
    after (exec (.holdExpiry 0 0) (held0 .held)) (fun t => ((t.zone 0).prot, t.ring.length)) = some (.held, 0) ∧
    after (exec (.holdExpiry 0 0) { held0 .held with now := 9000000 }) (fun t => ((t.zone 0).prot, t.ring.map (·.body)))
      = some (.dark, [.holdExpired 0 0]) := by decide +kernel

/-- R94: the owner's release of a LOCKED breaker starts an update. -/
theorem test_release_lockout :
    after (exec .releaseLockout (serve (work.setLockout { Lockout.atReset (.holding 0xFF#8) with marks := 0xFF#8 }) 2
        (request 0x18#8 [7])))
      (fun t => (t.lockout.marks, t.lockout.store)) = some (0x7F#8, .updating) := by decide +kernel

/-! ### Test engine -/

/-- A batch in state `st` with channel 0 PENDING, which passes the skip checks: Z0 is covered by channel 1 as well. -/
def batch0 (st : BatchState) : State :=
  ((chan0 .quiet).setChan 1 { work.chan 1 with phase := .quiet }).setBatch
    { Batch.atReset with state := st, selected := 1, results := put (Vector.replicate 24 .none) 0 .pending }

/-- Channel 0 in TESTING as the batch's current channel, in step `st`. -/
def testing0 (st : TestStep) : State :=
  ((batch0 .running).setChan 0 { (chan0 .quiet).chan 0 with phase := .testing }).setBatch
    { (batch0 .running).batch with current := some 0, step := some st }

/-- Table 7-8: the window runs to 5 ms. -/
theorem test_test_channels :
    after (exec .testChannels (serve work 2 (request 0x20#8 [0, 0, 0xC8, 0])))
      (fun t => (t.batch.state, t.batch.windowExpiry, t.result 3, t.result 6, t.result 7, t.result 2))
      = some (.gathering, some 5000, .pending, .pending, .pending, .none) := by decide +kernel

theorem test_gathering_window :
    after (exec .gatheringWindowExpiry ((batch0 .gathering).setBatch { (batch0 .gathering).batch with windowExpiry := some 0 }))
      (fun t => (t.batch.state, (t.chan 0).phase, t.teLine 0, t.batch.settleTimer))
      = some (.running, .testing, true, some 2000) := by decide +kernel

theorem test_settle_timer :
    after (exec .settleTimerExpiry ((testing0 .emit).setBatch { (testing0 .emit).batch with settleTimer := some 0 }))
      (fun t => (t.batch.settleTimer, t.batch.step)) = some (none, some .emit) := by decide +kernel

/-- R126: the darken timer's end gives STUCK. -/
theorem test_darken_timer :
    after (exec .darkenTimerExpiry ((testing0 .darken).setBatch { (testing0 .darken).batch with darkenTimer := some 0 }))
      (fun t => (t.result 0, (t.chan 0).phase, (t.chan 0).cause, t.batch.state))
      = some (.verdict .stuck, .faulted, some .optical, .idle) := by decide +kernel

/-- R127: the response of emit sum 13,160 at b_int 245 is 1400. R126: 5600 ≥ 5400 is PASS; of 11,440 at 230 it is 1200,
WEAK (Tables 7-8, 7-9); LEARNED needs 64. -/
theorem test_verdicts :
    response 13160 245 = 1400 ∧ plainVerdict 1400 1800 = .pass ∧ response 11440 230 = 1200 ∧ plainVerdict 1200 1800 = .weak
      ∧ response 18640 120 = 2210 ∧ learnVerdict 2210 = .learned ∧ learnVerdict 63 = .fail ∧ plainVerdict 899 1800 = .fail := by
  decide

theorem test_quiet_timer :
    after (exec .quietTimerExpiry ((batch0 .suspended).setBatch
        { (batch0 .suspended).batch with cause := some .light, quietTimer := some 0 }))
      (fun t => (t.batch.state, t.batch.current)) = some (.running, some 0) := by decide +kernel

theorem test_suspend :
    after (exec .suspendTest (serve (testing0 .emit) 0 (request 0x21#8 [])))
      (fun t => (t.batch.state, t.batch.cause, (t.chan 0).phase, t.result 0))
      = some (.suspended, some .request, .quiet, .pending) := by decide +kernel

theorem test_resume :
    after (exec .resumeTest (serve ((batch0 .suspended).setBatch { (batch0 .suspended).batch with cause := some .request }) 0
        (request 0x22#8 [])))
      (fun t => (t.batch.state, t.batch.current)) = some (.running, some 0) := by decide +kernel

/-! ### Records and time -/

/-- The time base at a second and a microsecond, SYNCED. -/
def clock (sec us : Nat) (mark : Bool) : State :=
  work.setTime { TimeBase.atReset with seconds := sec, micros := us, status := .synced, applied := true, offWindow := mark }

/-- Section 8.5: a pulse at u = 999,640 gives the next second; Table 8-8: the second off-window pulse applies the pending
value. -/
theorem test_sync_pulse :
    after (exec .syncPulse (clock 1187 999640 false)) (fun t => (t.time.seconds, t.time.micros)) = some (1188, 0)
      ∧ after (exec .syncPulse ((clock 2002 400000 true).setTime
            { (clock 2002 400000 true).time with pendingSeconds := some 2003 }))
          (fun t => (t.time.seconds, t.ring.map (·.body))) = some (2003, [.timeStep 2002 400000 2003]) := by decide +kernel

theorem test_rollover_wraps :
    after (exec .rollover (clock 4294967295 999999 false)) (fun t => (t.time.seconds, t.time.micros)) = some (0, 0) := by
  decide +kernel

/-- R153: a pulse and the rollover at u = 999,999, in either order, give the next second once. -/
theorem test_pulse_and_rollover :
    after (step ((clock 1187 999999 false).setPending [.syncPulse, .rollover])) (fun t => after (step t) (·.time.seconds))
        = some (some 1188)
      ∧ after (step ((clock 1187 999999 false).setPending [.rollover, .syncPulse])) (fun t => after (step t) (·.time.seconds))
        = some (some 1188) := by decide +kernel

theorem test_freewheel :
    after (exec .freewheelTimerExpiry ((clock 5 0 false).setTime { (clock 5 0 false).time with freewheel := some 0 }))
      (fun t => t.time.status) = some .freewheel := by decide +kernel

theorem test_set_seconds :
    after (exec .setSeconds (serve work 2 (request 0x48#8 [0, 0, 0x07, 0xD3]))) (fun t => t.time.pendingSeconds)
      = some (some 2003) := by decide +kernel

/-- One record sealed: HOLD_EXPIRED of Z0 and port 0. -/
def oneRecord : State := work.seal (.holdExpired 0 0)

/-- R149, R173: page 0 of the record, with the cursor advanced. The header is one page of kind 5 and sequence number 0. -/
theorem test_fetch_record :
    after (exec .fetchRecord (serve oneRecord 1 (request 0x30#8 [0, 1])))
      (fun t => ((t.port 1).cursor, t.unfetched 1,
        match (t.port 1).slot with
        | .answered _ a => (a.code, a.data.take 3)
        | _ => (.empty, [])))
      = some (1, 0, .done, [0x15, 0, 0]) := by decide +kernel

/-- R173: page 0 whole, sealed at 1187 s and 5 µs under SYNCED: status 1 stands above the microseconds. -/
theorem test_fetch_page :
    after (exec .fetchRecord (serve ((clock 1187 5 false).seal (.holdExpired 11 2)) 1 (request 0x30#8 [0, 0])))
      (fun t => match (t.port 1).slot with
        | .answered _ a => a.data
        | _ => []) = some [0x15, 0, 0, 0, 0, 0x04, 0xA3, 0x40, 0, 5, 11, 2] := by decide +kernel

theorem test_peek_order :
    after (exec .peekOrder (serve (arc .driving) 1 (request 0x31#8 [0, 0])))
      (fun t => match (t.port 1).slot with
        | .answered _ a => (a.code, (a.data.drop 1).take 2)
        | _ => (.empty, [])) = some (.done, [0xFF, 0xFF]) := by decide +kernel

/-! ### Ports -/

/-- Table 9-9 at 0: the STATUS frame of a port with an EMPTY slot: 24 bytes from 3C, with the slot state and the port
number in byte 1. -/
theorem test_transaction_start :
    after (exec (.transactionStart 1) work)
      (fun t => match (t.port 1).outgoing with
        | some (.status _ _ bs) => (bs.length, bs.take 2, crcOk bs)
        | _ => (0, [], false)) = some (24, [0x3C, 1], true) := by decide +kernel

/-- Table 9-3: a RESPONSE frame: C3, kind, tag, result code, then the data, padded with 0, and the check byte. -/
theorem test_response_frame :
    after (exec (.transactionStart 1) (work.setPort 1 { work.port 1 with
        slot := .answered (request 0x10#8 []) { code := .doneClamped, data := [3, 0, 60] } }))
      (fun t => match (t.port 1).outgoing with
        | some (.response bs) => (bs.length, bs.take 8, crcOk bs)
        | _ => (0, [], false)) = some (24, [0xC3, 0x10, 7, 1, 3, 0, 60, 0], true) := by decide +kernel

/-- A frame of a kind with the tag 8 and no data. -/
def frame (k : Byte) : List Byte := sealFrame ([k, 8] ++ List.replicate 21 0#8)

/-- Port 1 with a STATUS frame under way and its slot as given. -/
def sending (x : Slot) : State :=
  work.setPort 1 { work.port 1 with selected := true, slot := x, outgoing := some (.status false false []) }

/-- Table 9-9 at 16: an idle executor takes the request at once; at 76: at an occupied slot it is dropped. -/
theorem test_transaction_end :
    after (exec (.transactionEnd 1 (frame 0x30#8) 0) (sending .empty))
        (fun t => ((t.port 1).slot.running.map (·.kind), t.execLimit)) = some (some 0x30#8, some 20)
      ∧ after (exec (.transactionEnd 1 (frame 0x10#8) 0) (sending (.executing (request 0x30#8 []))))
          (fun t => (t.port 1).dropped) = some true := by decide +kernel

/-- Table 9-10, grants 5 and 6: skip counts 4, 4, 0 promote P0, and 0, 5, 1 promote P1. -/
def loaded (a b c : Nat) : State :=
  ((work.setPort 0 { work.port 0 with slot := .queued (request 1#8 []), skip := a }).setPort 1
    { work.port 1 with slot := .queued (request 1#8 []), skip := b }).setPort 2
    { work.port 2 with slot := .queued (request 1#8 []), skip := c }

theorem test_grants :
    ((ids 3).map (fun p => ((loaded 4 4 0).grantNext.port p).skip) = [0, 5, 1])
      ∧ ((ids 3).map (fun p => ((loaded 0 5 1).grantNext.port p).skip) = [1, 0, 2])
      ∧ ((ids 3).map (fun p => ((loaded 1 0 2).grantNext.port p).skip) = [2, 1, 0]) := by decide +kernel

/-- Item kind 2, zone record 0: one page, in use and not light-only, then the zone's live fields. -/
theorem test_read_item :
    after (exec .readItem (serve work 0 (request 0x01#8 [2, 0, 0])))
      (fun t => match (t.port 0).slot with
        | .answered _ a => (a.code, (a.data.drop 1).take 2)
        | _ => (.empty, [])) = some (.done, [1, 0]) := by decide +kernel

/-- Table 9-5: the time item at 1187 s and 5 µs, SYNCED, with 2003 s pending and the off-window mark set. -/
theorem test_time_item :
    (((clock 1187 5 true).setTime { (clock 1187 5 true).time with pendingSeconds := some 2003 }).itemContent 8 0)
      = some [0, 0, 0x04, 0xA3, 0, 0, 5, 1, 1, 0, 0, 0x07, 0xD3, 1, 1, 0] := by decide +kernel

theorem test_unknown_request :
    after (exec .unknownRequest (serve work 0 (request 0x55#8 []))) (fun t => (t.port 0).slot)
      = some (.answered (request 0x55#8 []) { code := .value, data := [] }) := by decide +kernel

/-! ### Settings -/

/-- Table 10-7 at 80 in BACKSTOP, where no hold is needed: channel 6 is written with N = 12, clamped to 8. -/
theorem test_write_channel :
    after (exec .writeChannelRecord (serve { work with mode := .backstop } 2
        (request 0x02#8 [1, 6, 1, 0, 0xFF, 1, 0x2C, 8, 0, 60, 5, 12, 0, 0])))
      (fun t => ((look t.sets.working.channels 6).n, t.sets.dirty, (t.chan 6).phase,
        match (t.port 2).slot with
        | .answered _ a => a.code
        | _ => .empty)) = some (8, true, .warmup, .doneClamped) := by decide +kernel

/-- R177: in PROTECTING a zone in use that is not HELD may not be written, one not in use may. -/
theorem test_write_zone :
    after (exec .writeZoneRecord (serve work 2 (request 0x02#8 [2, 0, 1, 1]))) (fun t => (t.port 2).slot)
        = some (.answered (request 0x02#8 [2, 0, 1, 1]) { code := .notHeld, data := [] })
      ∧ after (exec .writeZoneRecord (serve work 2 (request 0x02#8 [2, 1, 1, 0]))) (fun t => (t.zoneRec 1).inUse)
          = some true := by decide +kernel

/-- R31: the pair is unordered, and is shown with the lower zone first. -/
theorem test_write_link :
    after (exec .writeLinkSlot (serve
        ({ work with mode := .backstop }.setSets { work.sets with working := coupled }) 2 (request 0x02#8 [3, 0, 1, 1, 0])))
      (fun t => (look t.sets.working.links 0, (t.port 2).slot))
      = some (some (0, 1), .answered (request 0x02#8 [3, 0, 1, 1, 0]) { code := .done, data := [1, 0, 1] }) := by
  decide +kernel

/-- R33: an INCOMER in use with a zone as side A is a structural error. -/
theorem test_write_breaker :
    after (exec .writeBreakerRecord (serve work 2 (request 0x02#8 [4, 0, 1, 0, 0, 0, 2, 1, 0, 120, 0xFF])))
      (fun t => (t.port 2).slot)
      = some (.answered (request 0x02#8 [4, 0, 1, 0, 0, 0, 2, 1, 0, 120, 0xFF]) { code := .value, data := [] }) := by
  decide +kernel

/-- Table 10-7 at 200: port record P0 with priority 3. -/
theorem test_write_port :
    after (exec .writePortRecord (serve work 2 (request 0x02#8 [9, 0, 3, 16])))
      (fun t => (t.portRec 0).priority * 100 + (t.portRec 0).ceiling) = some 315 := by decide +kernel

theorem test_write_global :
    after (exec .writeGlobalRecord (serve work 2 (request 0x02#8 [10, 0, 0]))) (fun t => (t.inForce.fast, t.sets.dirty))
      = some (false, true) := by decide +kernel

/-- Table 10-7 at 120: the answer carries WRITING and the generation before the commit. -/
theorem test_commit_settings :
    after (exec .commitSettings (serve (work.setSets { work.sets with generation := 41 }) 2 (request 0x40#8 [])))
      (fun t => ((t.port 2).slot, t.sets.timer, t.sets.image.erased))
      = some (.answered (request 0x40#8 []) { code := .done, data := [1, 0, 41] }, some 800000, true) := by decide +kernel

/-- Generation 42 of the defaults being written. -/
def writing : State :=
  work.setSets { work.sets with
    store := .writing, snapshot := some (backstopDefaults, 42), timer := some 800000, generation := 41, dirty := true
    writtenSince := true }

/-- Table 10-7 at 300: generation 42, and the dirty flag stays set. -/
theorem test_commit_completion :
    after (exec .commitCompletion writing) (fun t => (t.sets.store, t.sets.generation, t.sets.dirty))
      = some (.idle, 42, true) := by decide +kernel

theorem test_commit_timer :
    after (exec .commitTimerExpiry writing) (fun t => (t.sets.store, t.sets.generation, t.sets.failed))
      = some (.idle, 41, true) := by decide +kernel

/-! ### Modes -/

theorem test_power_on_reset :
    after (exec .powerOnReset { oneRecord with powered := false }) (fun t => (t.powered, t.mode, t.ring.length))
      = some (true, .reset, 0) := by decide +kernel

/-- Section 8.5: RESET_N keeps the ring, and the cursors move to the oldest record. -/
theorem test_reset_n :
    after (exec .resetN oneRecord) (fun t => (t.mode, t.ring.length, t.nextSeq, t.unfetched 2))
      = some (.reset, 1, 1, 1) := by decide +kernel

theorem test_reset_end :
    after (exec .resetEnd State.reset) (fun t => (t.mode, t.loadLimit)) = some (.loading, some 5000) := by decide +kernel

/-- The factory image is valid, so the first start enters PROTECTING; the factory word is not, so every breaker is
LOCKED. -/
theorem test_loading_end :
    after (exec .loadingEnd { State.reset with mode := .loading })
      (fun t => (t.mode, t.lockout.marks, t.lockout.store, (t.chan 23).phase, (t.input 7).position))
      = some (.protecting, 0xFF#8, .updating, .warmup, .unknown) := by decide +kernel

theorem test_loss_of_power :
    after (exec .lossOfPower oneRecord) (fun t => (t.powered, t.ring.length, t.ciLine 0)) = some (false, 0, false) := by
  decide +kernel

/-- R187: two agreeing readings. -/
theorem test_trip_supply :
    after (exec (.tripSupplyReading true) { work with sup := { supply := .unknown, lastReading := some true } })
        (fun t => t.sup.supply) = some .ok
      ∧ after (exec (.tripSupplyReading true) work) (fun t => t.sup.supply) = some .unknown := by decide +kernel

/-! ### Witnesses: for each obligation, states and operands that meet the hypotheses of each clause -/

theorem witness_EmptyQueueTicks :
    (work.pending = [] ∧ work.powered = true ∧ work.due = [] ∧ work.mode ≠ .reset)
      ∧ ((clock 0 999999 false).pending = [] ∧ (clock 0 999999 false).powered = true ∧ (clock 0 999999 false).due = []
        ∧ (clock 0 999999 false).mode ≠ .reset)
      ∧ (updating .idle).pending = [] ∧ { updating .updating with now := 60000 }.due = [.lockoutUpdateTimerExpiry] := by
  decide +kernel

theorem witness_DetectionNumbers :
    (∀ r ∈ [defaultChannel, { defaultChannel with ta := 64, g := 8, m := 0, k := 4, n := 1 },
        { defaultChannel with ta := 4000, g := 64, m := 1023, k := 12, n := 8, ref := 4095 }], ChannelInRange r)
      ∧ (4094 : Nat) ≤ 4094 ∧ (65520 : Nat) ≤ 65520 ∧ (0 : Nat) ≤ 4094
      ∧ (0 ≤ 16 * 1 ∧ 16 * 1 < 0 + 2 ^ 5) ∧ 16 * 4094 < 65520 := by unfold ChannelInRange; decide

/-- Channel 0 with N = `n` in a phase, with b_int 100, so that T is 2048, and a count of 1. -/
def counted (ph : ChannelPhase) (n : Nat) : State :=
  (work.setSets { work.sets with working := { backstopDefaults with
    channels := put backstopDefaults.channels 0 { defaultChannel with n := n } } }).setChan 0
      { work.chan 0 with phase := ph, bfp := 1600, count := 1 }

theorem witness_SampleInQuiet :
    ∀ ph ∈ [ChannelPhase.quiet, .pickup], ∀ n ∈ [1, 2, 3],
      (counted ph n).inService = true ∧ QuietOk (counted ph n) ∧ ((counted ph n).chan 0).phase = ph
        ∧ threshold ((counted ph n).chanRec 0) ((counted ph n).chan 0) = 2048 ∧ (2048 ≤ 2048 ∧ 2048 ≤ 4095)
        ∧ (2048 < 2049 ∧ 2049 < 4095) ∧ (2048 < 4094 ∧ 4094 < 4095) ∧ ((counted ph n).chanRec 0).n = n
        ∧ (((counted ph n).chan 0).count + 1 ≠ n ↔ n ≠ 2) := by
  unfold QuietOk; decide +kernel

/-- A direct confirmation at a LIT zone: N = 1, or a saturated sample. -/
theorem witness_SampleInQuiet_direct :
    ∀ a ∈ [(1, 2049), (1, 4095), (2, 4095), (8, 4095)],
      Confirms (zone0 .lit (counted .quiet a.1)) 0 a.2 0 ∧ ((zone0 .lit (counted .quiet a.1)).zone 0).prot = .lit
        ∧ ((zone0 .lit (counted .quiet a.1)).chan 0).phase = .quiet := by
  unfold Confirms QuietOk; decide +kernel

/-- Channel 0 in PICKUP with one sample over T. -/
def picked : State := work.setChan 0 { work.chan 0 with phase := .pickup, bfp := 1600, count := 1 }

theorem witness_ConfirmationLightsZone :
    (∀ a ∈ [(picked, 2049), (picked, 4094), (counted .pickup 8, 4095), (counted .quiet 1, 2049), (counted .quiet 8, 4095),
        (counted .warmup 8, 4095)],
      Confirms a.1 0 a.2 0 ∧ (a.1.zone 0).prot = .dark ∧ a.1.currentCondition 0 = false ∧ a.1.batch.state = .idle) := by
  unfold Confirms QuietOk; decide +kernel

/-- Z0 bright or HELD with channel 0 about to join its set; `order01` stands in slot 0. -/
def joined0 (x : Prot) (sent : Bool) : State :=
  (picked.setZone 0 { picked.zone 0 with prot := x, orderSlot := some 0, heldLightSent := sent }).setOrder 0 (some order01)

theorem witness_ConfirmationLightsZone_bright :
    ∀ x ∈ [Prot.lit, .arc, .held], ∀ sent : Bool, Confirms (joined0 x sent) 0 2049 0 ∧ ((joined0 x sent).zone 0).prot = x
      ∧ ((joined0 x sent).zone 0).heldLightSent = sent ∧ ((joined0 x sent).zone 0).orderSlot = some 0
      ∧ (joined0 x sent).order 0 = some order01 := by unfold Confirms QuietOk; decide +kernel

/-- Channel 0 with one sample to go in Z0, light-only and linked with Z1, which is ARC by `x` of slot 0. -/
def joining (x : Order) : State :=
  ((picked.setSets { work.sets with working := { coupled with
      zones := put coupled.zones 0 { inUse := true, lightOnly := true }
      links := put coupled.links 15 (some (0, 1)) } }).setZone 1
    { work.zone 1 with prot := .arc, orderSlot := some 0 }).setOrder 0 (some x)

/-- A join with the span growing, of an order open or resolved, and one with the span kept. -/
theorem witness_ConfirmationLightsZone_joins :
    ∀ x ∈ [{ order01 with zones := [1], span := 2 }, { order01 with zones := [1], span := 3 },
        { order01 with zones := [1], span := 2, resolution := some ⟨0, 0⟩, closeTimer := some 5000000 }],
      Confirms (joining x) 0 2049 0 ∧ ((joining x).zone 0).prot = .dark ∧ ((joining x).zone 0).confirmed = 0
        ∧ (joining x).currentCondition 0 = true ∧ (joining x).batch.state = .idle
        ∧ (joining x).tripSet ((joining x).island 0) ≠ [] ∧ (joining x).order 0 = some x
        ∧ (∃ y ∈ x.zones, ((joining x).island 0).has y = true) ∧ (¬ ∃ q : SlotId, q < 0)
        ∧ ((joining x).missing x (x.span ||| (joining x).island 0)).length = 6
        ∧ ∀ b, b ∈ (joining x).missing x (x.span ||| (joining x).island 0) →
          ((joining x).trip b).phase = .idle ∧ ((joining x).trip b).demands = 0 := by
  unfold Confirms QuietOk; decide +kernel

/-- `s` with Z0 light-only: its current condition is met. -/
def lightOnly (s : State) : State :=
  s.setSets { s.sets with working := { s.sets.working with
    zones := put s.sets.working.zones 0 { inUse := true, lightOnly := true } } }

/-- `s` with every breaker of the defaults OPEN, or with every one CLOSED. -/
def positions (x : Position) (s : State) : State :=
  (ids 8).foldl (fun s b => s.setInput b { s.input b with position := x }) s

/-- A DARK zone whose condition is met at the confirmation, with no order in its island: an empty trip set, and one of eight
breakers with slot 0 empty, or filled by an order of Z1. -/
theorem witness_ConfirmationLightsZone_creates :
    (∀ x ∈ [Position.opened, .closed],
      Confirms (positions x (lightOnly picked)) 0 4095 0 ∧ ((positions x (lightOnly picked)).zone 0).prot = .dark
        ∧ ((positions x (lightOnly picked)).zone 0).confirmed = 0
        ∧ (positions x (lightOnly picked)).currentCondition 0 = true ∧ (positions x (lightOnly picked)).batch.state = .idle
        ∧ ((positions x (lightOnly picked)).tripSet ((positions x (lightOnly picked)).island 0)).length
          = (if x = .closed then 8 else 0)
        ∧ ((positions x (lightOnly picked)).island 0).has 1 = false
        ∧ ∀ b, ((positions x (lightOnly picked)).trip b).phase = .idle
          ∧ ((positions x (lightOnly picked)).trip b).demands = 0)
    ∧ (∀ o, picked.order o = none) ∧ (∀ q : SlotId, ¬ q < 0)
    ∧ (let t := picked.setOrder 0 (some { order01 with zones := [1] });
      t.order 1 = none ∧ (∀ q, q < 1 → t.order q ≠ none) ∧ (∀ q, t.order q ≠ none → q = 0)
        ∧ ∀ y, y ∈ ({ order01 with zones := [1] } : Order).zones → y = 1) := by
  unfold Confirms QuietOk; decide +kernel

/-- Z0 LIT by channel 0. -/
def lit0 : State := (chan0 .confirmed).setZone 0 { work.zone 0 with prot := .lit, confirmed := Marks.add 0 0, alarmTimer := some 2000000 }

/-- Channel 0 CONFIRMED, early or not, in Z0 and its secondary zone, if any. Z0 and Z1 are in protection state `x`, and Z1 is
lit by the channels `m`. -/
def dropping (early : Bool) (sec : Option ZoneId) (x : Prot) (m : Marks 24) : State :=
  ((((chan0 .confirmed).setSets { work.sets with working := { coupled with
        channels := put coupled.channels 0 { defaultChannel with secondary := sec } } }).setChan 0
      { (chan0 .confirmed).chan 0 with early := early }).setZone 0
    { work.zone 0 with prot := x, orderSlot := some 0, confirmed := 1 }).setZone 1
      { work.zone 1 with prot := x, orderSlot := some 0, confirmed := m }

/-- `order01` with zones Z0 and Z1, resolved or not. -/
def twoZones (resolved : Bool) : Order :=
  { order01 with zones := [0, 1], resolution := if resolved then some { sec := 0, us := 0 } else none }

/-- The greatest sample that drops channel 0. -/
def lowSample (early : Bool) : Nat := if early then 3583 else 1791

theorem witness_DropDarkensZone :
    ∀ e : Bool, ∀ sec ∈ [none, some (1 : ZoneId)],
      Drops (dropping e sec .lit 1) 0 (lowSample e) ∧ ((dropping e sec .lit 1).chan 0).early = e
        ∧ dropLevel (threshold ((dropping e sec .lit 1).chanRec 0) ((dropping e sec .lit 1).chan 0)) = 1792
        ∧ 1792 ≤ 1791 + 1 ∧ 3583 < 3583 + 1 ∧ lowSample e + 1 ≤ 4095 := by
  unfold Drops QuietOk; decide +kernel

/-- With no order, an order not resolved, and a resolved one with Z1 lit by channel 1 as well, no order closes. -/
theorem witness_DropDarkensZone_stays : ∀ e : Bool, ∀ sec ∈ [none, some (1 : ZoneId)],
    ∀ a ∈ [(Prot.lit, (1 : Marks 24), none), (.arc, 1, some (twoZones false)), (.arc, 3, some (twoZones true))],
    ∀ y o x, (((dropping e sec a.1 a.2.1).setOrder 0 a.2.2).chanRec 0).watches y = true →
      (((dropping e sec a.1 a.2.1).setOrder 0 a.2.2).zone y).prot = .arc →
      (((dropping e sec a.1 a.2.1).setOrder 0 a.2.2).zone y).orderSlot = some o →
      ((dropping e sec a.1 a.2.1).setOrder 0 a.2.2).order o = some x →
      x.resolution = none ∨ ∃ z d, z ∈ x.zones ∧ d ≠ 0
        ∧ (((dropping e sec a.1 a.2.1).setOrder 0 a.2.2).zone z).confirmed.has d = true := by
  have lit : ∀ e : Bool, ∀ sec ∈ [none, some (1 : ZoneId)],
      (((dropping e sec .arc 3).setOrder 0 (some (twoZones true))).zone 1).confirmed.has 1 = true := by decide +kernel
  intro e sec hs a ha y o x _ _ _ hx
  have h0 : x ∈ a.2.2 := by
    by_cases h : o = 0
    · subst h; exact hx
    · fin_cases o <;> first | exact absurd rfl h | cases hx
  simp only [List.mem_cons, List.not_mem_nil, or_false] at ha
  rcases ha with rfl | rfl | rfl
  · cases h0
  · cases h0; exact .inl rfl
  · cases h0
    exact .inr ⟨1, 1, by decide, by decide, lit e sec hs⟩

/-- A resolved order whose zones are lit by channel 0 only: through its primary zone, and through both its zones. -/
theorem witness_DropDarkensZone_closes : ∀ e : Bool, ∀ a ∈ [(none, (0 : Marks 24)), (some (1 : ZoneId), 1)],
    ((dropping e a.1 .arc a.2).setOrder 0 (some (twoZones true))).order 0 = some (twoZones true)
      ∧ (twoZones true).resolution ≠ none ∧ (twoZones true).zones = [0, 1]
      ∧ Drops ((dropping e a.1 .arc a.2).setOrder 0 (some (twoZones true))) 0 (lowSample e)
      ∧ (((dropping e a.1 .arc a.2).setOrder 0 (some (twoZones true))).chanRec 0).watches 0 = true
      ∧ (∀ y, (((dropping e a.1 .arc a.2).setOrder 0 (some (twoZones true))).chanRec 0).watches y = true →
        (((dropping e a.1 .arc a.2).setOrder 0 (some (twoZones true))).zone y).prot = .arc
          ∧ (((dropping e a.1 .arc a.2).setOrder 0 (some (twoZones true))).zone y).orderSlot = some 0
          ∧ (((dropping e a.1 .arc a.2).setOrder 0 (some (twoZones true))).zone y).confirmed.has 0 = true ∧ (y = 0 ∨ y = 1))
      ∧ ∀ y d, y ∈ (twoZones true).zones →
        (((dropping e a.1 .arc a.2).setOrder 0 (some (twoZones true))).zone y).confirmed.has d = true →
        d = 0 ∧ (((dropping e a.1 .arc a.2).setOrder 0 (some (twoZones true))).chanRec 0).watches y = true := by
  unfold Drops QuietOk; decide +kernel

theorem witness_WarmupAveragesBackground :
    (chan0 .warmup).inService = true ∧ QuietOk (chan0 .warmup) ∧ ((chan0 .warmup).chan 0).phase = .warmup
      ∧ 0 < 4095 ∧ 4094 < 4095 := by unfold QuietOk; decide +kernel

/-- A saturated sample in WARMUP at a LIT zone. -/
theorem witness_WarmupAveragesBackground_saturated :
    Confirms (zone0 .lit (chan0 .warmup)) 0 4095 0 ∧ ((zone0 .lit (chan0 .warmup)).zone 0).prot = .lit := by
  unfold Confirms QuietOk; decide +kernel

theorem witness_LineRunsEnd :
    (∀ ph ∈ [ChannelPhase.quiet, .pickup],
      let s := work.setChan 0 { work.chan 0 with phase := ph, nonOkRun := 199 }
      s.inService = true ∧ QuietOk s ∧ 4095 ≤ 4095 ∧ (s.chan 0).nonOkRun = 199 ∧ (s.chan 0).phase = ph)
    ∧ (let s := work.setChan 0 { work.chan 0 with phase := .faulted, cause := some .optical, nonOkRun := 199 }
      s.inService = true ∧ QuietOk s ∧ (s.chan 0).nonOkRun = 199 ∧ (s.chan 0).phase = .faulted
        ∧ (s.chan 0).cause = some .optical)
    ∧ (let s := work.setChan 0 { work.chan 0 with phase := .faulted, cause := some .line, okRun := 19999 }
      s.inService = true ∧ QuietOk s ∧ (s.chan 0).phase = .faulted ∧ (s.chan 0).cause = some .line
        ∧ (s.chan 0).okRun = 19999) := by unfold QuietOk; decide +kernel

/-- Runs short of their limits, in every phase, and at a channel that has no line fault to come. -/
theorem witness_LineRunsEnd_short :
    (∀ a ∈ [(ChannelPhase.warmup, 198), (.quiet, 0), (.pickup, 198), (.testing, 198), (.warmup, 199)],
      let s := work.setChan 0 { work.chan 0 with phase := a.1, nonOkRun := a.2 }
      s.inService = true ∧ QuietOk s ∧ (s.chan 0).phase = a.1 ∧ (s.chan 0).nonOkRun = a.2)
    ∧ ∀ ph ∈ [ChannelPhase.off, .faulted], ∀ n ∈ [0, 19998],
      let s := work.setChan 0 { work.chan 0 with phase := ph, cause := some .line, nonOkRun := 199, okRun := n }
      s.inService = true ∧ QuietOk s ∧ (s.chan 0).phase = ph ∧ (s.chan 0).cause = some .line ∧ (s.chan 0).okRun = n := by
  unfold QuietOk; decide +kernel

/-- A CONFIRMED channel; what `DropsTo` asks of the orders is met in the witnesses of DropDarkensZone. -/
theorem witness_LineRunsEnd_confirmed :
    ∀ e : Bool, ∀ sec ∈ [none, some (1 : ZoneId)],
      (dropping e sec .lit 1).inService = true ∧ QuietOk (dropping e sec .lit 1)
        ∧ ((dropping e sec .lit 1).chan 0).phase = .confirmed ∧ ((dropping e sec .lit 1).chan 0).nonOkRun = 0 := by
  unfold QuietOk; decide +kernel

theorem witness_IslandIsLeastClosedSet :
    (look coupled.zones 11).inUse = false ∧ (look coupled.zones 0).inUse = true ∧ (look coupled.zones 1).inUse = true
      ∧ look (put coupled.links 15 (some (0, 1))) 15 = some (0, 1) ∧ (3 : Marks 12).has 0 = true
      ∧ (3 : Marks 12).has 0 = (3 : Marks 12).has 1 := by decide +kernel

/-- R44, R45, R54: with the COUPLER B0 between Z0 and Z1, a boundary holds it where exactly one of the two is in the set, and
the INCOMERs of Z0 where Z0 is; a breaker that is OPEN leaves the trip set, and an ASSERTED current meets the condition. -/
theorem test_boundary_sides :
    let s := work.setSets { work.sets with working := coupled }
    (s.boundary 1 = [0, 1, 2, 3, 4, 5, 6, 7] ∧ s.boundary 2 = [0] ∧ s.boundary 3 = [1, 2, 3, 4, 5, 6, 7] ∧ s.boundary 4 = [])
      ∧ (s.setInput 0 { s.input 0 with position := .opened }).tripSet 2 = []
      ∧ s.currentCondition 0 = false ∧ (s.setInput 7 { s.input 7 with current := true }).currentCondition 0 = true := by
  decide +kernel

theorem witness_InputLinesAndTimers :
    work.inService = true ∧ ¬ ((work.input 7).bpc = true ∧ (work.input 7).bpo = false) ∧ (work.input 7).curLine ≠ true
      ∧ (let s := work.setInput 7 { work.input 7 with unknownTimer := some 0 }
        s.inService = true ∧ (s.input 7).unknownTimer.isSome = true)
      ∧ ∀ ph ∈ [TripPhase.idle, .openDone, .spent, .driving, .failed], ∀ level : Bool,
        let s := (work.setInput 7 { work.input 7 with filterTimer := some 0, curLine := level, current := !level }).setTrip 7
          { Trip.atReset with phase := ph }
        s.inService = true ∧ QuietOk s ∧ (s.input 7).filterTimer.isSome = true ∧ (s.input 7).curLine = level
          ∧ (s.trip 7).phase = ph ∧ (s.input 7).position ≠ .opened ∧ ∀ z, (s.zone z).prot ≠ .lit := by
  unfold QuietOk; decide +kernel

/-- A current ASSERTED again at HOLDING B0, whose outcome stands in the order that demands it. -/
theorem witness_InputLinesAndTimers_returned :
    let s := ((arc .holding).setOrder 0 (some { order01 with
      entries := [{ breaker := 0, level := 0, outcome := some .opened, outcomeTime := some ⟨0, 0⟩, offset := some 0 }]
      resolution := some ⟨0, 0⟩, closeTimer := some 0 })).setInput 0
        { work.input 0 with filterTimer := some 0, curLine := true, position := .opened }
    s.inService = true ∧ QuietOk s ∧ (s.input 0).filterTimer.isSome = true ∧ (s.input 0).curLine = true
      ∧ (s.input 0).current = false ∧ (∀ z, (s.zone z).prot ≠ .lit) ∧ (s.trip 0).phase = .holding
      ∧ (s.breakerRec 0).ccUsed = true ∧ (s.trip 0).demands.has 0 = true := by unfold QuietOk; decide +kernel

/-- `s` with breaker `b` at a position, its contact pair CLOSED and its stability timer running. -/
def moving (b : BreakerId) (x : Position) (s : State) : State :=
  s.setInput b { s.input b with bpc := true, bpo := false, stability := some 0, position := x }

/-- `order01` with the outcome of B0 written. -/
def opened01 : Order :=
  { order01 with
    entries := [{ breaker := 0, level := 0, outcome := some .opened, outcomeTime := some ⟨0, 0⟩, offset := some 0 },
      { breaker := 1, level := 0, outcome := none, outcomeTime := none, offset := none }] }

theorem witness_PositionTakesRawValue :
    (∀ bpc bpo : Bool, let s := work.setInput 7 { work.input 7 with bpc := bpc, bpo := bpo, stability := some 0 }
      s.inService = true ∧ QuietOk s ∧ (s.input 7).stability.isSome = true ∧ (s.trip 7).phase = .idle
        ∧ (s.input 7).position ≠ .opened ∧ (s.breakerRec 7).inUse = true
        ∧ (rawPosition (s.input 7).bpc (s.input 7).bpo = (s.input 7).position ↔ bpc = bpo))
    ∧ ∀ ph ∈ [TripPhase.driving, .failed], let s := moving 0 .unknown (arc ph)
      s.inService = true ∧ QuietOk s ∧ (s.input 0).stability.isSome = true ∧ (s.trip 0).phase = ph
        ∧ rawPosition (s.input 0).bpc (s.input 0).bpo = .closed ∧ (s.input 0).position = .unknown := by
  unfold QuietOk; decide +kernel

/-- A breaker about to leave OPEN: on no active order's boundary, HOLDING in an order that lists it (its outcome written),
or IDLE on the span's boundary, not listed (B7) or listed (B1). -/
theorem witness_PositionTakesRawValue_leaves :
    (∀ a ∈ [((7 : BreakerId), work), (0, (arc .holding).setOrder 0 (some opened01)), (7, arc .driving), (1, arc .driving)],
      (moving a.1 .opened a.2).inService = true ∧ QuietOk (moving a.1 .opened a.2)
        ∧ ((moving a.1 .opened a.2).input a.1).position = .opened
        ∧ rawPosition ((moving a.1 .opened a.2).input a.1).bpc ((moving a.1 .opened a.2).input a.1).bpo = .closed
        ∧ ((moving a.1 .opened a.2).input a.1).stability.isSome = true
        ∧ ∀ z, ((moving a.1 .opened a.2).zone z).prot ≠ .lit)
    ∧ (∀ o, work.order o = none) ∧ (∀ q, q ≠ 0 → (arc .driving).order q = none)
    ∧ ((arc .holding).trip 0).phase = .holding ∧ ((arc .holding).trip 0).demands.has 0 = true ∧ opened01.lists 0 = true
    ∧ ((arc .driving).trip 7).phase = .idle ∧ ((arc .driving).trip 1).phase = .idle
    ∧ 7 ∈ (arc .driving).boundary order01.span ∧ 1 ∈ (arc .driving).boundary order01.span
    ∧ order01.lists 7 = false ∧ order01.lists 1 = true := by unfold QuietOk; decide +kernel

/-- Breaker `b`, not IDLE, about to leave OPEN on the boundary of the span of `order01`, whose other entries are open. -/
def returning (b : BreakerId) (ph : TripPhase) : State :=
  moving b .opened ((arc .idle).setTrip b { Trip.atReset with phase := ph })

theorem witness_PositionTakesRawValue_demands :
    ∀ b ∈ [(3 : BreakerId), 4], ∀ ph ∈ [TripPhase.driving, .openDone, .failed, .spent],
      (returning b ph).inService = true ∧ QuietOk (returning b ph) ∧ ((returning b ph).input b).stability.isSome = true
        ∧ ((returning b ph).input b).position = .opened
        ∧ rawPosition ((returning b ph).input b).bpc ((returning b ph).input b).bpo = .closed
        ∧ ((returning b ph).trip b).phase = ph ∧ (∀ z, ((returning b ph).zone z).prot ≠ .lit)
        ∧ (returning b ph).order 0 = some order01 ∧ (∀ q, q ≠ 0 → (returning b ph).order q = none)
        ∧ b ∈ (returning b ph).boundary order01.span := by unfold QuietOk; decide +kernel

theorem witness_PositionTakesRawValue_roles :
    (∃ e ∈ order01.entries, e.breaker ≠ 3 ∧ e.breaker ≠ 4 ∧ e.outcome = none)
    ∧ (work.breakerRec 3).role = .incomer ∧ (work.breakerRec 3).utLine = some 3 ∧ (work.breakerRec 4).role = .incomer
    ∧ (work.breakerRec 4).utLine = none := by decide +kernel

/-- B0, a coupler from Z0 to Z1, about to leave OPEN with one side in the span of the order. -/
def crossing (span : Marks 12) (ph : TripPhase) (level : Nat) : State :=
  ((returning 0 ph).setSets { work.sets with working := coupled }).setOrder 0
    (some { order01 with span := span, level := level })

theorem witness_PositionTakesRawValue_crossed :
    ∀ span ∈ [(1 : Marks 12), 2], ∀ ph ∈ [TripPhase.failed, .spent], ∀ level ∈ [0, 1, 2],
      0 ∈ (crossing span ph level).boundary span ∧ ((crossing span ph level).trip 0).phase = ph
        ∧ ((crossing span ph level).breakerRec 0).role = .coupler
        ∧ ((crossing span ph level).breakerRec 0).sideA = .zone 0 ∧ ((crossing span ph level).breakerRec 0).sideB = 1
        ∧ ∀ y, y ∈ (crossing span ph level).missing order01
            (span ||| (crossing span ph level).island (if span = 1 then 1 else 0)) →
          ((crossing span ph level).trip y).phase = .idle ∧ ((crossing span ph level).trip y).demands = 0 := by
  decide +kernel

theorem witness_PositionTakesRawValue_lightOnly :
    let s := moving 7 .opened (lit0.setSets { lit0.sets with working := { backstopDefaults with
      zones := put backstopDefaults.zones 0 { inUse := true, lightOnly := true } } })
    s.inService = true ∧ QuietOk s ∧ (s.trip 7).phase = .idle ∧ (∀ o, s.order o = none) ∧ (s.zone 0).prot = .lit
      ∧ (∀ y, y ≠ 0 → (s.zone y).prot ≠ .lit) ∧ (s.zoneRec 0).lightOnly = true ∧ s.batch.state = .idle
      ∧ 7 ∈ s.boundary (s.island 0) ∧ ∀ a, a ∈ s.boundary (s.island 0) → (s.trip a).phase = .idle := by
  unfold QuietOk; decide +kernel

theorem witness_LightAlarmSealsOnce :
    ∀ sent : Bool, let s := lit0.setZone 0 { lit0.zone 0 with alarmSent := sent }
      s.inService = true ∧ (s.zone 0).prot = .lit ∧ (s.zone 0).alarmTimer.isSome = true ∧ (s.zone 0).alarmSent = sent
        ∧ (s.zone 0).confirmed ≠ 0 ∧ ((s.setZone 0 { s.zone 0 with confirmed := 0 }).zone 0).confirmed = 0 := by
  decide +kernel

/-- R141: the origin of a zone is the channel with the earliest pickup time, and the lower one at a tie. -/
theorem test_origin :
    let at_ := fun (c : ChanId) (us : Nat) (s : State) => s.setChan c { s.chan c with pickupTime := some { sec := 1, us := us } }
    let s := lit0.setZone 0 { lit0.zone 0 with confirmed := 0b1110 }
    (at_ 1 9 (at_ 2 7 (at_ 3 8 s))).zoneOrigin 0 = some 2 ∧ (at_ 1 9 (at_ 2 8 (at_ 3 8 s))).zoneOrigin 0 = some 2 := by
  decide +kernel

theorem witness_CurrentAssertionTrips :
    let s := lit0.setInput 7 { lit0.input 7 with filterTimer := some 0, curLine := true }
    s.inService = true ∧ (s.input 7).filterTimer.isSome = true ∧ (s.input 7).curLine = true ∧ (s.input 7).current = false
      ∧ (s.zone 0).prot = .lit ∧ (s.zoneRec 0).inUse = true ∧ (∀ y, y ≠ 0 → (s.zone y).prot ≠ .lit)
      ∧ (∀ o, s.order o = none) ∧ s.batch.state = .idle ∧ 7 ∈ s.tripSet (s.island 0) ∧ (s.breakerRec 7).ccUsed = true
      ∧ ∀ x, x ∈ s.tripSet (s.island 0) → (s.trip x).phase = .idle := by decide +kernel

/-- `order01` with the outcome of B1 written: B0's is the last. -/
def last01 : Order :=
  { order01 with
    entries := [{ breaker := 0, level := 0, outcome := none, outcomeTime := none, offset := none },
      { breaker := 1, level := 0, outcome := some .opened, outcomeTime := some ⟨0, 0⟩, offset := some 0 }] }

/-- B0 in phase `ph`, demanded by `x`, about to open with Z0 lit or not. -/
def opening (ph : TripPhase) (x : Order) (lit : Bool) : State :=
  (((arc ph).setOrder 0 (some x)).setZone 0 { (arc ph).zone 0 with confirmed := if lit then 1 else 0 }).setInput 0
    { work.input 0 with stability := some 0, bpo := true, position := .closed }

/-- The inputs of B0 in `opening` after the report. -/
def openedInputs : Inputs :=
  { work.input 0 with stability := none, bpo := true, position := .opened, unknownTimer := none, positionFault := false }

theorem witness_OpeningWritesOutcome :
    ∀ ph ∈ [TripPhase.driving, .failed], ∀ x ∈ [order01, last01], ∀ lit : Bool,
      OpeningReport (opening ph x lit) 0 (.positionChange 0) openedInputs ∧ QuietOk (opening ph x lit)
        ∧ ((opening ph x lit).trip 0).phase = ph ∧ ((opening ph x lit).trip 0).minTimer.isSome = true
        ∧ ((opening ph x lit).trip 0).demands.members = [0] ∧ (opening ph x lit).order 0 = some x ∧ x.resolution = none
        ∧ (((opening ph x lit).zone 0).confirmed ≠ 0 ↔ lit = true) := by unfold OpeningReport QuietOk; decide +kernel

/-- The same with the current, RELEASED at last, as the report, and with the minimum pulse run out. -/
theorem witness_OpeningWritesOutcome_current :
    ∀ ph ∈ [TripPhase.driving, .failed],
      let i := { work.input 0 with filterTimer := some 0, current := true, position := .opened }
      let s := ((arc ph).setInput 0 i).setTrip 0 { (arc ph).trip 0 with minTimer := none }
      OpeningReport s 0 (.filteredCurrentChange 0) { i with filterTimer := none, current := false } ∧ QuietOk s
        ∧ (s.trip 0).phase = ph ∧ (s.trip 0).minTimer = none ∧ (s.trip 0).demands.members = [0]
        ∧ s.order 0 = some order01 := by unfold OpeningReport QuietOk; decide +kernel

/-- The cases of `Tested`: another entry open, a line short of its minimum, and complete. -/
theorem witness_Tested :
    ∀ v ∈ [BreakerOutcome.opened, .failedThenOpened, .spent],
      ¬ Complete work (writtenIn ⟨0, 0⟩ 0 v order01) ∧ Complete work (writtenIn ⟨0, 0⟩ 0 v last01)
        ∧ ¬ Complete work (writtenIn ⟨0, 0⟩ 0 v { last01 with ut := 8 })
        ∧ (∀ z, z ∈ last01.zones → z = 0) ∧ (∃ z, z ∈ last01.zones) := by unfold Complete; decide +kernel

theorem witness_PulseTimersEnd :
    (∀ ph ∈ [TripPhase.holding, .driving, .failed],
      (arc ph).inService = true ∧ ((arc ph).trip 0).minTimer.isSome = true ∧ ((arc ph).trip 0).phase = ph)
    ∧ ∀ x ∈ [order01, last01], ∀ lit : Bool, let s := opening .failed x lit
      QuietOk s ∧ (s.trip 0).phase = .failed ∧ (s.trip 0).ceilTimer.isSome = true ∧ (s.trip 0).demands.members = [0]
        ∧ s.order 0 = some x ∧ x.resolution = none ∧ ((s.zone 0).confirmed ≠ 0 ↔ lit = true) := by
  unfold QuietOk; decide +kernel

/-- Breaker `b` driven by `order01`, its BF timer running. -/
def drivenBy0 (b : BreakerId) : State :=
  (arc .idle).setTrip b { Trip.atReset with phase := .driving, demands := 1, bfTimer := some 0 }

theorem witness_FailedIncomerEscalatesUpstream :
    (∀ b ∈ [(3 : BreakerId), 4], (drivenBy0 b).inService = true ∧ QuietOk (drivenBy0 b)
      ∧ ((drivenBy0 b).trip b).phase = .driving ∧ ((drivenBy0 b).trip b).bfTimer.isSome = true
      ∧ ((drivenBy0 b).breakerRec b).role = .incomer ∧ ((drivenBy0 b).trip b).demands.members = [0]
      ∧ (drivenBy0 b).order 0 = some order01)
    ∧ ((drivenBy0 3).breakerRec 3).utLine = some 3 ∧ ((drivenBy0 3).utLine 3).asserted = false
    ∧ ((drivenBy0 4).breakerRec 4).utLine = none
    ∧ (let s := (drivenBy0 3).setUt 3 { asserted := true, claims := 2, since := some ⟨0, 0⟩, minimum := .runOut }
      QuietOk s ∧ (s.utLine 3).asserted = true ∧ s.order 0 = some order01) := by unfold QuietOk; decide +kernel

/-- B0 a driven coupler from Z0 to Z1, demanded by an order of a span at a level. -/
def driven0 (span : Marks 12) (level : Nat) : State :=
  ((drivenBy0 0).setSets { work.sets with working := coupled }).setOrder 0
    (some { order01 with span := span, level := level })

/-- Both sides of the coupler or none in the span, and either one: Z0 inside with Z1 as the far side, and the reverse. -/
theorem witness_FailedCouplerGrowsSpan :
    ∀ span ∈ [(1 : Marks 12), 2, 3, 4], ∀ level ∈ [0, 1, 2],
      (driven0 span level).inService = true ∧ QuietOk (driven0 span level)
        ∧ ((driven0 span level).trip 0).phase = .driving ∧ ((driven0 span level).trip 0).bfTimer.isSome = true
        ∧ ((driven0 span level).breakerRec 0).role = .coupler ∧ ((driven0 span level).breakerRec 0).sideA = .zone 0
        ∧ ((driven0 span level).breakerRec 0).sideB = 1 ∧ ((driven0 span level).trip 0).demands.members = [0]
        ∧ (driven0 span level).order 0 = some { order01 with span := span, level := level }
        ∧ (span.has 0 = true ↔ span = 1 ∨ span = 3) ∧ (span.has 1 = true ↔ span = 2 ∨ span = 3) := by
  unfold QuietOk; decide +kernel

theorem witness_FailedCouplerGrowsSpan_farB :
    (∀ y, y ∈ (driven0 1 1).missing order01 (1 ||| (driven0 1 1).island 1) →
      ((driven0 1 1).trip y).phase = .idle ∧ ((driven0 1 1).trip y).demands = 0)
    ∧ 2 ∈ (driven0 1 1).missing order01 (1 ||| (driven0 1 1).island 1) := by decide +kernel

theorem witness_FailedCouplerGrowsSpan_farA :
    (∀ y, y ∈ (driven0 2 1).missing order01 (2 ||| (driven0 2 1).island 0) →
      ((driven0 2 1).trip y).phase = .idle ∧ ((driven0 2 1).trip y).demands = 0)
    ∧ 2 ∈ (driven0 2 1).missing order01 (2 ||| (driven0 2 1).island 0) := by decide +kernel

/-- B0 a driven coupler from Z0 to Z1 and B2, in phase `ph`, one from Z1 to Z2 or an INCOMER of Z1 with UT line `u`. The
order of Z0 lists B0 and every breaker of Z0, all open; B7 is of Z2. -/
def chained (coupler : Bool) (u : Option UtId) (ph : TripPhase) (level : Nat) : State :=
  let second : BreakerRecord :=
    if coupler then { defaultBreaker none with role := .coupler, sideA := .zone 1, sideB := 2 }
    else { defaultBreaker u with sideB := 1 }
  (((driven0 1 level).setSets { work.sets with working := { coupled with
      zones := put coupled.zones 2 { inUse := true, lightOnly := false }
      breakers := put (put coupled.breakers 2 second) 7 { defaultBreaker none with sideB := 2 } } }).setOrder 0
    (some { order01 with level := level, entries := [0, 1, 3, 4, 5, 6].map (openEntry 0) })).setTrip 2
      { Trip.atReset with phase := ph }

/-- The one breaker appended is not IDLE: an INCOMER with or without a UT line, or a COUPLER that leads on to Z2. -/
theorem witness_FailedCouplerGrowsSpan_demands :
    ∀ a ∈ [(true, (none : Option UtId)), (false, none), (false, some 3)],
    ∀ ph ∈ [TripPhase.driving, .holding, .openDone, .failed, .spent], ∀ level ∈ [0, 1],
      let s := chained a.1 a.2 ph level
      let x := { order01 with level := level, entries := [0, 1, 3, 4, 5, 6].map (openEntry 0) }
      let grown := { x with span := 3, level := level + 1, entries := x.entries ++ [openEntry (level + 1) 2] }
      s.inService = true ∧ QuietOk s ∧ (s.trip 0).phase = .driving ∧ (s.trip 0).bfTimer.isSome = true
        ∧ (s.breakerRec 0).role = .coupler ∧ (s.breakerRec 0).sideA = .zone 0 ∧ (s.breakerRec 0).sideB = 1
        ∧ (s.trip 0).demands.members = [0] ∧ s.order 0 = some x ∧ x.span.has 0 = true ∧ x.span.has 1 = false
        ∧ s.missing x (x.span ||| s.island 1) = [2] ∧ (s.trip 2).phase = ph
        ∧ (∃ e, e ∈ x.entries ∧ e.breaker ≠ 2 ∧ e.outcome = none) ∧ x.span ||| s.island 1 = grown.span
        ∧ (s.breakerRec 2).role = (if a.1 then .coupler else .incomer) ∧ (s.breakerRec 2).utLine = a.2
        ∧ grown.span.has 1 = true ∧ grown.span.has 2 = false ∧ (2 ≤ grown.level ↔ level = 1)
        ∧ (a.1 = true → s.missing grown (grown.span ||| s.island 2) = [7])
        ∧ (s.trip 7).phase = .idle ∧ (s.trip 7).demands = 0 := by unfold QuietOk; decide +kernel

/-- UT3 asserted with the claims `m`, its minimum ending, and the order `x` in slot 0, whose zone is lit or not. -/
def utEnding (m : Marks 12) (x : Order) (lit : Bool) : State :=
  (opening .driving x lit).setUt 3 { asserted := true, claims := m, since := none, minimum := .running 0 }

theorem witness_UtMinimumEnds :
    (∀ m ∈ [(0 : Marks 12), 1], let s := utEnding m order01 false
      s.inService = true ∧ QuietOk s ∧ (s.utLine 3).timing = true ∧ (s.utLine 3).claims = m ∧ s.order 0 = some order01
        ∧ ∃ e ∈ order01.entries, e.outcome = none)
    ∧ ∀ lit : Bool, ∀ x ∈ [{ order01 with ut := 8 }, { last01 with ut := 8, entries := last01.entries.drop 1 }],
      let s := utEnding 1 x lit
      s.inService = true ∧ QuietOk s ∧ (s.utLine 3).timing = true ∧ (s.utLine 3).claims.members = [0] ∧ s.order 0 = some x
        ∧ x.resolution = none ∧ x.ut.has 3 = true ∧ ((s.zone 0).confirmed ≠ 0 ↔ lit = true)
        ∧ (Complete (s.setUt 3 { s.utLine 3 with minimum := .runOut }) x ↔ x ≠ { order01 with ut := 8 }) := by
  unfold QuietOk Complete; decide +kernel

/-- Channel 0 with one sample to go in Z0, in a batch in state `st` whose current channel, if any, is `d`; channel 5
watches Z1. -/
def pickedIn (st : BatchState) (d : Option ChanId) : State :=
  (picked.setSets { work.sets with working := { coupled with
    channels := put coupled.channels 5 { defaultChannel with primary := 1 } } }).setBatch
    { Batch.atReset with state := st, current := d }

/-- `order01` at its close timer's end, with a claim on UT3: Z0 is held or not and lit by channel 2 or not, in a batch in
state `st` with current channel `d`. -/
def closing (held lit : Bool) (st : BatchState) (d : Option ChanId) : State :=
  ((pickedIn st d).setOrder 0 (some { order01 with closeTimer := some 0, ut := 8 })).setZone 0
    { work.zone 0 with
      prot := .arc, orderSlot := some 0, confirmed := if lit then 4 else 0
      holds := if held then put (Vector.replicate 3 none) 0 (some 9000000) else Vector.replicate 3 none }

theorem witness_CloseOrderFiveSteps :
    ∀ held lit : Bool, let x := { order01 with closeTimer := some 0, ut := 8 }
    let s := closing held lit .idle none
    s.inService = true ∧ s.order 0 = some x ∧ x.closeTimer.isSome = true ∧ 3 ∈ x.ut.members ∧ 2 ∉ x.ut.members
      ∧ (s.utLine 3).claims.drop 0 = 0 ∧ (s.utLine 3).minimum ≠ .runOut
      ∧ ((s.setUt 3 { UtLine.atReset with minimum := .runOut }).utLine 3).minimum = .runOut
      ∧ x.lists 1 = true ∧ x.lists 2 = false ∧ 0 ∈ x.zones ∧ 11 ∉ x.zones ∧ (s.zone 0).hasHold = held
      ∧ (s.zoneRec 0).inUse = true ∧ ((s.zone 0).confirmed ≠ 0 ↔ lit = true) := by decide +kernel

/-- A close that suspends the batch and releases channel 5, of Z1; one that does not, for the current channel watches Z0; and
one with Z0 entering HELD, which clears the count of channel 0, in PICKUP. -/
theorem witness_CloseOrderFiveSteps_batch :
    (∀ a ∈ [(BatchState.gathering, none), (.running, none), (.running, some (5 : ChanId))],
      LitSuspends (closing false true a.1 a.2) 0 ∧ (closing false true a.1 a.2).batch.current = a.2)
    ∧ ¬ LitSuspends (closing false true .running (some 1)) 0 ∧ ¬ LitSuspends (closing false true .idle none) 0
    ∧ ((closing true false .idle none).zone 0).hasHold = true ∧ ((closing true false .idle none).chan 0).phase = .pickup
    ∧ ((closing true false .idle none).chanRec 0).watches 0 = true := by
  unfold LitSuspends; decide +kernel

theorem witness_OutputLinesFollowState :
    State.reset.mode = .reset ∧ work.mode ≠ .reset ∧ (∃ p, oneRecord.attn p = true) ∧ work.attn 0 = false
      ∧ work.powered = true ∧ work.inService = true ∧ State.reset.powered = true ∧ State.reset.inService = false := by
  decide +kernel

/-- R159: SDO shows the outgoing frame bit by bit, and from the end on its last bit (log 23). -/
theorem witness_OutputLinesFollowState_sdo :
    let f := frame 0xC1#8
    let s := work.setPort 1 { work.port 1 with outgoing := some (.response f) }
    (work.port 1).outgoing = none ∧ (s.port 1).outgoing = some (.response f) ∧ f.length = 24
      ∧ (List.range 8).map (s.sdo 1) = [some true, some true, some false, some false, some false, some false, some false, some true]
      ∧ s.sdo 1 192 = s.sdo 1 191 := by decide +kernel

theorem witness_LockoutUpdateEnds :
    (∀ st ∈ [LockoutStore.updating, .updatingAgain], ∀ now ∈ [0, 59999, 60000],
      LockoutWordOk { updating st with now := now } ∧ ({ updating st with now := now } : State).inService = true
        ∧ (updating st).lockout.store = st ∧ (updating st).lockout.timer = some 60000 ∧ 60000 ≤ 60000 ∧ 59999 < 60000
        ∧ (updating st).lockout.abandonedAt ≠ some now)
    ∧ (let s := (updating .updating).setLockout { (updating .updating).lockout with abandonedAt := some 0 }
      LockoutWordOk s ∧ s.lockout.abandonedAt = some s.now) := by unfold LockoutWordOk; decide +kernel

/-- Port 2's Release Lockout of B7 in a state. -/
def releasing (s : State) : State := serve s 2 (request 0x18#8 [7])

theorem witness_ReleaseLockoutChecks :
    (∀ s ∈ [State.reset, work, arc .driving, zone0 .lit work, zone0 .held work],
      (releasing s).executing = some (2, request 0x18#8 [7]) ∧ (request 0x18#8 [7]).kind = 0x18#8)
    ∧ (request 0x18#8 [7]).byte 0 = 7 ∧ (request 0x18#8 [8]).byte 0 = 8
    ∧ (releasing State.reset).inService = false ∧ (releasing work).inService = true
    ∧ ((releasing work).breakerRec 7).owner = 2 ∧ ((serve work 0 (request 0x18#8 [7])).breakerRec 7).owner ≠ 0 := by
  decide +kernel

theorem witness_ReleaseLockoutUnlocks :
    (∀ m ∈ [(0xFF : Marks 8), 0x7F], let s := releasing (work.setLockout { work.lockout with marks := m })
      Serving s 2 (request 0x18#8 [7]) ∧ (request 0x18#8 [7]).kind = 0x18#8 ∧ (request 0x18#8 [7]).byte 0 = 7
        ∧ (s.breakerRec 7).owner = 2 ∧ (s.trip 7).phase = .idle ∧ s.locked 7 = m.has 7
        ∧ ∀ z, z ∈ (s.breakerRec 7).sideZones → (s.zone z).prot = .dark ∨ (s.zone z).prot = .held)
    ∧ (0xFF : Marks 8).has 7 = true ∧ (0x7F : Marks 8).has 7 = false := by unfold Serving; decide +kernel

theorem witness_HoldZoneHolds :
    ∀ x ∈ [Prot.dark, .lit, .arc], let s := serve (zone0 x work) 2 (request 0x10#8 [0, 0xFF, 0xFF])
      Serving s 2 (request 0x10#8 [0, 0xFF, 0xFF]) ∧ HoldsOk s ∧ (s.zoneRec 0).inUse = true
        ∧ (request 0x10#8 [0, 0xFF, 0xFF]).byte 0 = 0
        ∧ (request 0x10#8 [0, 0, 0]).byte 1 * 256 + (request 0x10#8 [0, 0, 0]).byte 2 = 0 := by
  unfold Serving HoldsOk; decide +kernel

/-- A zone number above 11, a zone not in use, and a zone that is held already. -/
theorem witness_HoldZoneHolds_other :
    (∀ z ∈ [(12 : Byte), 255, 11], Serving (serve work 2 (request 0x10#8 [z, 0, 1])) 2 (request 0x10#8 [z, 0, 1])
      ∧ (12 ≤ (request 0x10#8 [z, 0, 1]).byte 0 ↔ z ≠ 11))
    ∧ (request 0x10#8 [11, 0, 1]).byte 0 = 11 ∧ (work.zoneRec 11).inUse = false
    ∧ (let s := serve (held0 .held) 2 (request 0x10#8 [0, 0x01, 0xE0])
      Serving s 2 (request 0x10#8 [0, 0x01, 0xE0]) ∧ HoldsOk s ∧ (s.zoneRec 0).inUse = true ∧ (s.zone 0).prot = .held) := by
  unfold Serving HoldsOk; decide +kernel

theorem witness_FreeZoneFrees :
    (∀ x ∈ [Prot.held, .arc], ∀ p ∈ [(0 : PortId), 2], let s := serve (held0 x) p (request 0x11#8 [0])
      Serving s p (request 0x11#8 [0]) ∧ QuietOk s ∧ (request 0x11#8 [0]).kind = 0x11#8 ∧ (request 0x11#8 [0]).byte 0 = 0
        ∧ (s.holdOf 0 p = none ↔ p = 2) ∧ (s.zone 0).prot = x ∧ (∀ q, q ≠ 0 → s.holdOf 0 q = none)
        ∧ ∀ c, (s.chanRec c).watches 0 = true → (s.chan c).phase ≠ .confirmed)
    ∧ (∃ q, q ≠ (0 : PortId) ∧ ((held0 .held).setHold 0 2 (some 9000001)).holdOf 0 q ≠ none)
    ∧ (let s := serve work 0 (request 0x11#8 [12]);
      Serving s 0 (request 0x11#8 [12]) ∧ QuietOk s ∧ 12 ≤ (request 0x11#8 [12]).byte 0) := by
  unfold Serving QuietOk; decide +kernel

theorem witness_HoldExpiryRemovesEntry :
    (∀ x ∈ [Prot.held, .arc], ∀ n ∈ [0, 8999999, 9000000], let s := { held0 x with now := n }
      s.inService = true ∧ QuietOk s ∧ s.holdOf 0 0 = some 9000000
      ∧ (∀ y q, s.holdOf y q = some 9000000 → y = 0 ∧ q = 0) ∧ (s.zone 0).prot = x
      ∧ (s.now < 9000000 ∨ 9000000 ≤ s.now) ∧ (∀ q, q ≠ 0 → s.holdOf 0 q = none)
      ∧ ∀ c, (s.chanRec c).watches 0 = true → (s.chan c).phase ≠ .confirmed)
    ∧ (let s := { (held0 .held).setHold 0 2 (some 9000001) with now := 9000000 }
      QuietOk s ∧ s.holdOf 0 2 ≠ none ∧ ∀ y q, s.holdOf y q = some 9000000 → y = 0 ∧ q = 0) := by
  unfold QuietOk; decide +kernel

/-- Z0 held by port 0 until 9 s, and then, with channel 0 CONFIRMED in its set, early or not. -/
def heldLight (early : Bool) : State :=
  { ((held0 .held).setZone 0 { (held0 .held).zone 0 with confirmed := 1 }).setChan 0
      { work.chan 0 with phase := .confirmed, early := early } with now := 9000000 }

/-- The last entry of a HELD zone goes while a channel that watches it is CONFIRMED. -/
theorem witness_HoldExpiryRemovesEntry_forced :
    ∀ early : Bool, QuietOk (heldLight early) ∧ (heldLight early).inService = true
      ∧ (heldLight early).holdOf 0 0 = some 9000000 ∧ (heldLight early).now = 9000000
      ∧ (∀ q, q ≠ 0 → (heldLight early).holdOf 0 q = none) ∧ ((heldLight early).zone 0).prot = .held
      ∧ (∀ y q, (heldLight early).holdOf y q = some 9000000 → y = 0 ∧ q = 0)
      ∧ ((heldLight early).chanRec 0).watches 0 = true ∧ ((heldLight early).chan 0).phase = .confirmed
      ∧ Serving (serve (heldLight early) 0 (request 0x11#8 [0])) 0 (request 0x11#8 [0]) := by
  unfold QuietOk Serving; decide +kernel

theorem witness_ArcUntouched :
    ∀ early : Bool, ArcUntouched (heldLight early) 0 ∧ ArcUntouched (serve (heldLight early) 0 (request 0x11#8 [0])) 0 := by
  have dark : ∀ early : Bool, ∀ y, ((heldLight early).zone y).prot ≠ .arc
      ∧ ((serve (heldLight early) 0 (request 0x11#8 [0])).zone y).prot ≠ .arc := by decide +kernel
  exact fun early => ⟨fun _ y _ _ _ => (dark early y).1, fun _ y _ _ _ => (dark early y).2⟩

/-- Port 2's Test Channels of channel 0, or of channel 23 with learning, in a batch state. -/
def asking (st : BatchState) (r : Request) : State :=
  serve (work.setBatch { Batch.atReset with state := st, selected := 1, windowExpiry := some 5000, windowLimit := some 50000 }) 2 r

theorem witness_TestChannelsGathers :
    (∀ st ∈ [BatchState.idle, .gathering, .running, .suspended],
      Serving (asking st (request 0x20#8 [0, 0, 1, 0])) 2 (request 0x20#8 [0, 0, 1, 0])
        ∧ Serving (asking st (request 0x20#8 [0x80, 0, 0, 2])) 2 (request 0x20#8 [0x80, 0, 0, 2])
        ∧ (asking st (request 0x20#8 [])).batch.state = st)
    ∧ (asking .gathering (request 0x20#8 [])).batch.windowLimit = some 50000
    ∧ (asking .gathering (request 0x20#8 [])).batch.learn = false ∧ (0x800000 : Marks 24) ≠ 0
    ∧ (0x800000 : Marks 24).toNat = 0x80 * 65536 + 0 * 256 + 0 ∧ (0 : Marks 24).toNat = 0 * 65536 + 0 * 256 + 0 := by
  unfold Serving; decide +kernel

theorem witness_BatchStartsAndResumes :
    (let s := zone0 .lit ((batch0 .gathering).setBatch { (batch0 .gathering).batch with windowExpiry := some 0 });
      s.inService = true ∧ QuietOk s ∧ s.batch.state = .gathering ∧ s.ranOut s.batch.windowExpiry = true
        ∧ s.anyBright = true)
    ∧ (let s := (batch0 .gathering).setBatch { (batch0 .gathering).batch with windowExpiry := some 0 }
      s.inService = true ∧ s.ranOut s.batch.windowExpiry = true ∧ s.anyBright = false ∧ NextUp s 0)
    ∧ (∀ e ∈ [none, some 1],
      let s := (batch0 .gathering).setBatch { (batch0 .gathering).batch with windowExpiry := e }
      s.inService = true ∧ s.ranOut s.batch.windowExpiry = false)
    ∧ (let s := (batch0 .suspended).setBatch { (batch0 .suspended).batch with cause := some .light, quietTimer := some 0 }
      s.inService = true ∧ s.batch.state = .suspended ∧ s.batch.quietTimer.isSome = true ∧ NextUp s 0) := by
  unfold QuietOk NextUp; decide +kernel

theorem witness_BatchStartsAndResumes_light :
    (∀ s ∈ [pickedIn .gathering none, pickedIn .running (some 1), pickedIn .running (some 5)],
      Confirms s 0 2049 0 ∧ (s.zone 0).prot = .dark ∧ s.currentCondition 0 = false ∧ s.batch.current ≠ some 0)
    ∧ LitSuspends (pickedIn .gathering none) 0 ∧ LitSuspends (pickedIn .running (some 5)) 0
    ∧ ¬ LitSuspends (pickedIn .running (some 1)) 0 := by
  unfold Confirms QuietOk LitSuspends; decide +kernel

/-- A batch SUSPENDED, by light with its quiet timer running or by request, at which Z0 enters LIT. -/
theorem witness_BatchStartsAndResumes_suspended :
    ∀ a ∈ [(SuspendCause.light, some 1000000), (.request, none)],
      let s := (pickedIn .suspended none).setBatch
        { (pickedIn .suspended none).batch with cause := some a.1, quietTimer := a.2 }
      Confirms s 0 2049 0 ∧ (s.zone 0).prot = .dark ∧ s.currentCondition 0 = false ∧ s.batch.state = .suspended := by
  unfold Confirms QuietOk; decide +kernel

/-- R134: the last light of the board goes under a batch SUSPENDED by light, and its quiet timer starts at 1 s. -/
theorem test_quiet_timer_starts :
    after (exec (.sampleArrival 0 1791 .ok) (lit0.setBatch { Batch.atReset with state := .suspended, cause := some .light }))
      (fun t => ((t.zone 0).prot, t.batch.quietTimer)) = some (.dark, some 1000000) := by decide +kernel

/-- Z0, LIT, enters ARC at a current assertion while a batch gathers or tests channel 0, which watches Z0. -/
theorem witness_BatchStartsAndResumes_arc :
    ∀ a ∈ [(BatchState.gathering, none), (.running, none), (.running, some (0 : ChanId))],
      let s := (lit0.setInput 7 { lit0.input 7 with filterTimer := some 0, curLine := true }).setBatch
        { Batch.atReset with state := a.1, current := a.2 }
      s.inService = true ∧ (s.input 7).filterTimer.isSome = true ∧ (s.input 7).curLine = true ∧ (s.input 7).current = false
        ∧ (s.zone 0).prot = .lit ∧ (s.zoneRec 0).inUse = true ∧ (∀ y, y ≠ 0 → (s.zone y).prot ≠ .lit)
        ∧ (∀ o, s.order o = none) ∧ 7 ∈ s.tripSet (s.island 0) ∧ (s.breakerRec 7).ccUsed = true
        ∧ (∀ x, x ∈ s.tripSet (s.island 0) → (s.trip x).phase = .idle) ∧ s.batch.state = a.1 ∧ s.batch.current = a.2 := by
  decide +kernel

theorem witness_EmitStepSumsEight :
    ∀ e ∈ [none, some 0], ∀ n ∈ [0, 7],
      let s := (testing0 .emit).setBatch { (testing0 .emit).batch with settleTimer := e, emitCount := n }
      s.inService = true ∧ QuietOk s ∧ s.batch.current = some 0 ∧ s.batch.step = some .emit ∧ (s.chan 0).phase = .testing
        ∧ (s.chan 0).nonOkRun = 0 ∧ 4095 ≤ 4095 ∧ s.batch.settleTimer = e := by unfold QuietOk; decide +kernel

theorem witness_TestEndsWithVerdict :
    (∀ learn : Bool, ∀ x ∈ [none, some FaultCause.optical],
      let s := ((testing0 .darken).setBatch { (testing0 .darken).batch with
        darkenTimer := some 0, darkenCount := 1, emitSum := 8000, learn := learn }).setChan 0
          { (testing0 .darken).chan 0 with cause := x }
      s.inService = true ∧ s.batch.current = some 0 ∧ s.batch.state = .running ∧ s.batch.step = some .darken
        ∧ s.batch.darkenTimer.isSome = true ∧ threshold (s.chanRec 0) (s.chan 0) = 2048 ∧ 2048 ≤ 2048 ∧ 2048 ≤ 4095
        ∧ s.batch.darkenCount = 1 ∧ s.batch.learn = learn ∧ (s.chan 0).phase = .testing ∧ (s.chan 0).cause = x
        ∧ 64 ≤ s.batch.emitSum / 8 - (s.chan 0).bfp / 16
        ∧ s.reference 0 * 3 ≤ (s.batch.emitSum / 8 - (s.chan 0).bfp / 16) * 4)
    ∧ ∀ st ∈ [TestStep.emit, .darken],
      let s := (testing0 st).setChan 0 { (testing0 st).chan 0 with nonOkRun := 199 }
      s.inService = true ∧ s.batch.current = some 0 ∧ s.batch.state = .running ∧ (s.chan 0).phase = .testing
        ∧ (s.chan 0).nonOkRun = 199 := by decide +kernel

/-- A dark sample with the count at 0, and a sample above T with the count at 0 and at 1: the count becomes 1, 0 and 0. -/
theorem witness_TestEndsWithVerdict_dark :
    ∀ a ∈ [(0, 2048, 1), (0, 2049, 0), (1, 2049, 0)],
      let s := (testing0 .darken).setBatch { (testing0 .darken).batch with darkenCount := a.1 }
      s.inService = true ∧ s.batch.current = some 0 ∧ s.batch.state = .running ∧ s.batch.step = some .darken
        ∧ (s.chan 0).phase = .testing ∧ a.2.1 ≤ 4095 ∧ threshold (s.chanRec 0) (s.chan 0) = 2048 ∧ s.batch.darkenCount = a.1
        ∧ after (exec (.sampleArrival 0 a.2.1 .ok) s) (fun t => t.batch.darkenCount) = some a.2.2 := by decide +kernel

theorem witness_SuspendTestSuspends :
    (∀ st ∈ [BatchState.idle, .gathering, .running, .suspended],
      let s := serve ((testing0 .emit).setBatch { (testing0 .emit).batch with state := st }) 0 (request 0x21#8 [])
      Serving s 0 (request 0x21#8 []) ∧ s.batch.state = st ∧ s.batch.current = some 0)
    ∧ ∀ x ∈ [none, some FaultCause.optical],
      (((testing0 .emit).setChan 0 { (testing0 .emit).chan 0 with cause := x }).chan 0).cause = x := by
  unfold Serving; decide +kernel

/-- Port 0's Resume Test at a batch suspended by request, with Z0 in protection state `x`. -/
def resuming (x : Prot) : State :=
  serve (zone0 x ((batch0 .suspended).setBatch { (batch0 .suspended).batch with cause := some .request })) 0 (request 0x22#8 [])

theorem witness_ResumeTestResumes :
    (∀ x ∈ [Prot.dark, .lit, .arc], Serving (resuming x) 0 (request 0x22#8 []) ∧ QuietOk (resuming x)
      ∧ (resuming x).batch.state = .suspended ∧ (resuming x).batch.cause = some .request
      ∧ ((resuming x).anyBright = false ↔ x = .dark))
    ∧ NextUp (resuming .dark) 0
    ∧ ¬ ((asking .idle (request 0x22#8 [])).batch.state = .suspended
        ∧ (asking .idle (request 0x22#8 [])).batch.cause = some .request) := by unfold Serving QuietOk NextUp; decide +kernel

/-- A dark-board resume whose first PENDING channel, 0, is skipped for its line fault: channel 1, PENDING or not, is QUIET or
CONFIRMED in HELD Z0. -/
theorem witness_ResumeTestResumes_skips :
    ∀ ph ∈ [ChannelPhase.quiet, .confirmed], ∀ x ∈ [TestResult.none, .pending],
      let s := ((resuming .held).setChan 0 { work.chan 0 with phase := .faulted, cause := some .line }).setChan 1
        { work.chan 1 with phase := ph }
      let t := s.setBatch { s.batch with results := put s.batch.results 1 x }
      Serving t 0 (request 0x22#8 []) ∧ QuietOk t ∧ t.batch.state = .suspended ∧ t.batch.cause = some .request
        ∧ t.anyBright = false ∧ t.result 0 = .pending ∧ skipOutcome t 0 = some .skippedLine ∧ t.result 1 = x
        ∧ skipOutcome t 1 = none ∧ (∀ d, d < 1 → d = 0) ∧ ∀ d, 1 < d → t.result d ≠ .pending := by
  unfold Serving QuietOk; decide +kernel

theorem witness_RolloverFreewheelAndSetSeconds :
    (clock 5 999999 false).mode ≠ .reset ∧ 999999 ≤ (clock 5 999999 false).time.micros
      ∧ (clock 5 999998 false).time.micros < 999999 ∧ State.reset.mode = .reset
      ∧ (work.setTime { work.time with freewheel := some 0 }).time.freewheel.isSome = true
      ∧ Serving (serve work 2 (request 0x48#8 [0xFF, 0xFF, 0xFF, 0xFF])) 2 (request 0x48#8 [0xFF, 0xFF, 0xFF, 0xFF]) := by
  unfold Serving; decide +kernel

theorem witness_SyncPulseAlignsOrSteps :
    work.inService = true ∧ (clock 1 999000 false).time.micros ≥ 999000 ∧ (clock 1 1000 false).time.micros ≤ 1000
      ∧ (clock 1 999999 false).time.micros = 999999
      ∧ (∃ t, exec .rollover (clock 1 999999 false) = .next t)
      ∧ (∃ t, exec .syncPulse (clock 1 999999 false) = .next t) ∧ (∃ t, exec .syncPulse (clock 1 0 false) = .next t)
      ∧ (1001 ≤ (clock 1 1001 false).time.micros ∧ (clock 1 1001 false).time.offWindow = false)
      ∧ (clock 1 998999 true).time.micros ≤ 998999 ∧ (clock 1 998999 true).time.offWindow = true := by
  refine ⟨by decide +kernel, by decide +kernel, by decide +kernel, by decide +kernel, ⟨_, rfl⟩, ⟨_, rfl⟩, ⟨_, rfl⟩, ?_⟩
  decide +kernel

theorem witness_FetchRecordReads :
    Serving (serve oneRecord 1 (request 0x30#8 [0, 1])) 1 (request 0x30#8 [0, 1])
      ∧ RecordsOk (serve oneRecord 1 (request 0x30#8 [0, 1]))
      ∧ (serve oneRecord 1 (request 0x30#8 [0, 1])).unfetched 1 = 1
      ∧ (∀ x ∈ oneRecord.ring, x.body.pages = 1 ∧ x.body.pages ≤ (request 0x30#8 [1, 1]).byte 0
        ∧ (request 0x30#8 [0, 1]).byte 0 < x.body.pages)
      ∧ (serve work 1 (request 0x30#8 [0, 1])).unfetched 1 = 0 ∧ RecordsOk (serve work 1 (request 0x30#8 [0, 1])) := by
  refine ⟨by unfold Serving; decide +kernel, ⟨by decide +kernel, by decide +kernel, ?_, by decide +kernel⟩, by decide +kernel,
    by decide +kernel, by decide +kernel, ⟨by decide +kernel, by decide +kernel, ?_, by decide +kernel⟩⟩
  · intro i r h
    match i with
    | 0 => obtain rfl : _ = r := Option.some.inj h; decide +kernel
    | n + 1 => exact absurd h (by simp [oneRecord, serve, work, State.seal, State.setPort, State.reset, ringSize])
  · intro i r h
    exact absurd h (by simp [serve, work, State.setPort, State.reset])

theorem witness_PeekOrderReads :
    Serving (serve (arc .driving) 1 (request 0x31#8 [0, 1])) 1 (request 0x31#8 [0, 1])
      ∧ (arc .driving).order 0 = some order01 ∧ (arc .driving).order 11 = none
      ∧ 12 ≤ (request 0x31#8 [12, 0]).byte 0 ∧ (request 0x31#8 [11, 0]).byte 0 = (11 : SlotId).val
      ∧ (request 0x31#8 [0, 1]).byte 1 < (RecordBody.arc ((arc .driving).arcRecord 0 order01)).pages
      ∧ (RecordBody.arc ((arc .driving).arcRecord 0 order01)).pages ≤ (request 0x31#8 [0, 15]).byte 1 := by
  unfold Serving; decide +kernel

/-- R143, R146: the ARC record of an order with three channel entries. Channel 2 has the earliest pickup and its peak is
refreshed, channel 3 is 1 s and 5 µs later, and channel 1, in a later episode, keeps its peak and is 70 µs later. -/
theorem test_arc_record :
    let entry := fun (c : ChanId) (sec us : Nat) => ({ chan := c, pickup := some { sec := sec, us := us }, offset := none, peak := 9 } : ChannelEntry)
    let s := work.setChan 2 { work.chan 2 with pickupTime := some { sec := 4, us := 999940 }, peak := 4095 }
    let x := s.arcRecord 0 { order01 with channels := [entry 1 5 10, entry 2 4 999940, entry 3 5 999945] }
    x.origin = some 2
      ∧ x.channels.map (fun e => (e.chan, e.offset, e.peak)) = [(1, some 70, 9), (2, some 0, 4095), (3, some 65535, 9)]
      ∧ order01.channels = [] := by decide +kernel

theorem witness_TransactionStartFixesFrame :
    (State.reset.port 2).selected = false ∧ State.reset.mode = .reset
      ∧ (∀ m ∈ [UnitMode.loading, .protecting, .backstop],
        ∀ x ∈ [Slot.empty, .queued (request 1#8 []), .executing (request 1#8 [])],
        let s := { work.setPort 2 { work.port 2 with slot := x } with mode := m }
        (s.port 2).selected = false ∧ s.mode ≠ .reset ∧ (s.port 2).slot.isAnswered = false ∧ (s.port 2).slot = x
          ∧ (s.inService = false ↔ m = .loading))
      ∧ ((work.setPort 2 { work.port 2 with slot := .answered (request 1#8 []) (.refuse .item) }).port 2).slot
        = .answered (request 1#8 []) (.refuse .item) := by decide +kernel

theorem witness_TransactionEndDelivers :
    (0 : Nat) ≤ 7 ∧ (frame 0#8).length = 24 ∧ crcOk (frame 0#8) = true ∧ (frame 0#8).head? = some 0#8
      ∧ ((sending .empty).port 1).outgoing = some (.status false false [])
      ∧ ((work.setPort 1 { work.port 1 with outgoing := some (.response []) }).port 1).outgoing = some (.response [])
      ∧ ¬ ((frame 0#8).length = 24 ∧ 7 = 0) ∧ ¬ (((frame 0#8).drop 1).length = 24 ∧ 0 = 0) := by decide +kernel

theorem witness_TransactionEndTakesRequest :
    (frame 0x30#8).length = 24 ∧ ((sending .empty).port 1).outgoing = some (.status false false [])
      ∧ crcOk (List.replicate 24 0xFF#8) = false ∧ (List.replicate 24 0xFF#8).length = 24 ∧ crcOk (frame 0x30#8) = true
      ∧ (frame 0x30#8).getD 0 0#8 ≠ 0 ∧ ((sending .empty).port 1).slot = .empty ∧ (sending .empty).executing = none
      ∧ PortsOk (sending .empty)
      ∧ ((sending .empty).setPort 0 { work.port 0 with slot := .executing (request 1#8 []) }).executing ≠ none
      ∧ ((sending (.executing (request 1#8 []))).port 1).slot ≠ .empty := by
  refine ⟨by decide +kernel, by decide +kernel, by decide +kernel, by decide +kernel, by decide +kernel, by decide +kernel,
    by decide +kernel, by decide +kernel, ⟨by decide +kernel, by decide +kernel, ?_⟩, by decide +kernel, by decide +kernel⟩
  intro p bs h
  have none_sent : ∀ p, ((sending .empty).port p).outgoing = none ∨ ((sending .empty).port p).outgoing = some (.status false false []) := by
    decide +kernel
  rcases none_sent p with e | e <;> simp [e] at h

/-- Port 1 with a RESPONSE under way from its ANSWERED slot, and port 0's slot as given. -/
def responding (x : Slot) : State :=
  (work.setPort 1 { work.port 1 with
    selected := true, slot := .answered (request 0x11#8 []) (.refuse .item), outgoing := some (.response []) }).setPort 0
      { work.port 0 with slot := x }

/-- A RESPONSE with a new request in the same transaction, the executor idle and busy: taken in both (R162, R163). -/
theorem witness_TransactionEndTakesRequest_response :
    (∀ x ∈ [Slot.empty, .executing (request 1#8 [])],
      ((responding x).port 1).outgoing = some (.response []) ∧ ((responding x).executing = none ↔ x = .empty)
        ∧ after (exec (.transactionEnd 1 (frame 0x30#8) 0) (responding x)) (fun t => (t.port 1).slot.request.map (·.kind))
          = some (some 0x30#8)
        ∧ (∀ q, ((responding x).port 1).slot ≠ .executing q))
      ∧ PortsOk (responding .empty) := by
  refine ⟨?_, by decide +kernel, by decide +kernel, ?_⟩
  · intro x hx
    simp only [List.mem_cons, List.not_mem_nil, or_false] at hx
    rcases hx with rfl | rfl
    · exact ⟨by decide +kernel, by decide +kernel, by decide +kernel, fun q h => by cases h⟩
    · exact ⟨by decide +kernel, by decide +kernel, by decide +kernel, fun q h => by cases h⟩
  · intro p bs h
    have one_sends : ∀ p, ((responding .empty).port p).outgoing = none ∨ ((responding .empty).port p).slot.isAnswered = true := by
      decide +kernel
    rcases one_sends p with e | e
    · rw [e] at h; cases h
    · exact e

theorem witness_ArbiterGrants :
    (serve work 2 (request 0x55#8 [])).executing = some (2, request 0x55#8 [])
      ∧ (∀ p, work.isQueued p = false) ∧ (∃ p, (loaded 0 0 0).isQueued p = true) ∧ (∃ p, (loaded 4 4 0).isQueued p = true)
      ∧ (∃ q, (loaded 4 4 0).isQueued q = true ∧ ((loaded 4 4 0).portRec q).ceiling ≠ 0
        ∧ ((loaded 4 4 0).portRec q).ceiling ≤ ((loaded 4 4 0).port q).skip)
      ∧ ¬ ∃ q, (loaded 3 3 255).isQueued q = true ∧ ((loaded 3 3 255).portRec q).ceiling ≠ 0
        ∧ ((loaded 3 3 255).portRec q).ceiling ≤ ((loaded 3 3 255).port q).skip := by decide +kernel

theorem witness_RequestsWithoutEffect :
    (serve State.reset 2 (request 0x10#8 [])).executing = some (2, request 0x10#8 [])
      ∧ (serve State.reset 2 (request 0x10#8 [])).inService = false
      ∧ (serve work 2 (request 0x03#8 [])).executing = some (2, request 0x03#8 [])
      ∧ (serve work 2 (request 0x03#8 [])).inService = true
      ∧ (request 0x03#8 []).kind ∉
        [0x01#8, 0x02#8, 0x10#8, 0x11#8, 0x18#8, 0x20#8, 0x21#8, 0x22#8, 0x30#8, 0x31#8, 0x40#8, 0x48#8]
      ∧ (serve work 2 (request 0x02#8 [5])).executing = some (2, request 0x02#8 [5])
      ∧ (request 0x02#8 [5]).kind = 0x02#8 ∧ (request 0x02#8 [5]).byte 0 ∉ [1, 2, 3, 4, 9, 10] := by decide +kernel

theorem witness_ReadItemReads :
    Serving (serve work 2 (request 0x01#8 [2, 11, 0])) 2 (request 0x01#8 [2, 11, 0])
      ∧ (request 0x01#8 [2, 11, 0]).kind = 0x01#8 ∧ work.itemContent 2 12 = none ∧ work.itemContent 0 0 = none
      ∧ ∃ content, work.itemContent 2 11 = some content ∧ 0 < (content.length + 17) / 18
        ∧ (content.length + 17) / 18 ≤ 255 := by
  refine ⟨by unfold Serving; decide +kernel, rfl, by decide +kernel, by decide +kernel, _, rfl, by decide +kernel,
    by decide +kernel⟩

theorem witness_SettingsFieldsRoundTrip :
    (defaultChannel.ta < 65536 ∧ defaultChannel.g < 256 ∧ defaultChannel.m < 65536 ∧ defaultChannel.k < 256
      ∧ defaultChannel.n < 256 ∧ defaultChannel.ref < 65536) ∧ (0 : ZoneId) ≤ 11 ∧ (11 : ZoneId) ≤ 11
      ∧ ((defaultBreaker none).bfTime < 65536 ∧ ¬ ((defaultBreaker none).role = .coupler ∧ (defaultBreaker none).sideA = .external))
      ∧ 255 < 256 := by decide

/-- A Write Item of channel 23 with secondary zone byte `sec`. -/
def writeCh (sec use : Byte) : Request := request 0x02#8 [1, 23, use, 0, sec, 8, 0, 32, 0, 200, 8, 2, 0, 0]

/-- The record of `writeCh`. -/
def wroteCh (sec : Option ZoneId) (use : Bool) : ChannelRecord := { defaultChannel with secondary := sec, inUse := use }

theorem witness_WriteChannelRestartsChannel :
    (∀ s ∈ [work, held0 .held, { work with mode := .backstop }], ∀ r ∈ [writeCh 0xFF 1, writeCh 0xFF 0, writeCh 0 1],
      Serving (serve s 2 r) 2 r ∧ QuietOk (serve s 2 r) ∧ r.kind = 0x02#8 ∧ r.byte 0 = 1 ∧ r.byte 1 = 23
        ∧ ((serve s 2 r).chan 23).phase ≠ .testing ∧ ((serve s 2 r).chan 23).phase ≠ .confirmed)
    ∧ (writeCh 0xFF 1).channelRecord = some (wroteCh none true) ∧ (wroteCh none true).secondary ≠ some 0
    ∧ (writeCh 0xFF 0).channelRecord = some (wroteCh none false)
    ∧ (writeCh 0 1).channelRecord = some (wroteCh (some 0) true)
    ∧ (∃ z, z ∈ (look work.sets.working.channels 23).zones ++ (wroteCh none true).zones ∧ (work.zone z).prot ≠ .held)
    ∧ ∀ z, z ∈ (look work.sets.working.channels 23).zones ++ (wroteCh none true).zones → ((held0 .held).zone z).prot = .held := by
  unfold Serving QuietOk; decide +kernel

/-- A write of the channel under test in BACKSTOP. -/
theorem witness_WriteChannelRestartsChannel_testing :
    let r := request 0x02#8 [1, 0, 1, 0, 0xFF, 8, 0, 32, 0, 200, 8, 2, 0, 0]
    let s := { serve (testing0 .emit) 2 r with mode := .backstop }
    Serving s 2 r ∧ QuietOk s ∧ r.kind = 0x02#8 ∧ r.byte 0 = 1 ∧ r.byte 1 = 0
      ∧ r.channelRecord = some (wroteCh none true) ∧ (wroteCh none true).secondary ≠ some 0
      ∧ (s.chan 0).phase = .testing ∧ s.batch.current = some 0 ∧ s.batch.state = .running := by
  unfold Serving QuietOk; decide +kernel

/-- Writes with an index one out of range, and with a field that is no value of its kind: a flag of 2, zone 12, role 2, port
3, UT line 4. -/
theorem witness_writes_refused :
    ∀ r ∈ [request 0x02#8 [1, 24], request 0x02#8 [2, 12], request 0x02#8 [3, 16], request 0x02#8 [4, 8],
        request 0x02#8 [1, 23, 2], request 0x02#8 [1, 23, 1, 12], request 0x02#8 [1, 23, 1, 0, 12], request 0x02#8 [2, 11, 2],
        request 0x02#8 [2, 11, 0, 2], request 0x02#8 [3, 15, 2], request 0x02#8 [3, 15, 1, 12], request 0x02#8 [3, 15, 1, 0, 12],
        request 0x02#8 [4, 7, 2], request 0x02#8 [4, 7, 1, 2], request 0x02#8 [4, 7, 1, 1, 0xFE],
        request 0x02#8 [4, 7, 1, 0, 12], request 0x02#8 [4, 7, 1, 0, 0, 12], request 0x02#8 [4, 7, 1, 0, 0, 0, 3],
        request 0x02#8 [4, 7, 1, 0, 0, 0, 2, 2], request 0x02#8 [4, 7, 1, 0, 0, 0, 2, 1, 0, 0, 4]],
      Serving (serve work 2 r) 2 r ∧ QuietOk (serve work 2 r) ∧ AtRest (serve work 2 r) ∧ r.kind = 0x02#8
        ∧ after (exec r.row.command (serve work 2 r)) (fun t => (t.port 2).slot)
          = some (.answered r (.refuse (if r.byte 1 ∈ [24, 12, 16, 8] then .item else .value))) := by
  unfold Serving QuietOk AtRest; decide +kernel

theorem witness_WriteZoneAndLinkChangeMap_serving :
    ∀ r ∈ [request 0x02#8 [2, 0, 0, 0], request 0x02#8 [2, 0, 1, 1], request 0x02#8 [2, 11, 1, 0],
        request 0x02#8 [3, 15, 1, 0, 1], request 0x02#8 [3, 15, 0]],
      ∀ s ∈ [work, held0 .held], Serving (serve s 2 r) 2 r ∧ QuietOk (serve s 2 r) ∧ AtRest (serve s 2 r) ∧ r.kind = 0x02#8
        ∧ (serve s 2 r).batch.state = .idle := by
  unfold Serving QuietOk AtRest; decide +kernel

theorem witness_WriteZoneAndLinkChangeMap_zones :
    (request 0x02#8 [2, 0, 0, 0]).zoneRecord = some { inUse := false, lightOnly := false }
    ∧ (∃ b, (look work.sets.working.breakers b).inUse = true ∧ 0 ∈ (look work.sets.working.breakers b).sideZones)
    ∧ (request 0x02#8 [2, 0, 1, 1]).zoneRecord = some { inUse := true, lightOnly := true }
    ∧ (look work.sets.working.zones 0).inUse = true ∧ (work.zone 0).prot ≠ .held ∧ ((held0 .held).zone 0).prot = .held
    ∧ (request 0x02#8 [2, 11, 1, 0]).zoneRecord = some { inUse := true, lightOnly := false }
    ∧ (look work.sets.working.zones 11).inUse = false ∧ (work.zone 11).prot = .dark := by decide +kernel

/-- Z11 not in use, with channel 0 in its set. -/
def unused11 : State := work.setZone 11 { work.zone 11 with confirmed := 1 }

theorem witness_WriteZoneAndLinkChangeMap_lit :
    AtRest unused11 ∧ QuietOk unused11 ∧ unused11.batch.state = .idle ∧ (unused11.zone 11).prot = .dark
      ∧ (unused11.zone 11).confirmed ≠ 0
      ∧ (let t := unused11.setSets { work.sets with working := { work.sets.working with
            zones := put work.sets.working.zones 11 { inUse := true, lightOnly := false } } };
        t.tripSet (t.island 11) = []) := by
  unfold QuietOk AtRest; decide +kernel

theorem witness_WriteZoneAndLinkChangeMap_links :
    (request 0x02#8 [3, 15, 1, 0, 1]).linkSlot = some (some (0, 1)) ∧ (request 0x02#8 [3, 15, 0]).linkSlot = some none
    ∧ (look work.sets.working.zones 1).inUse = false ∧ (look coupled.zones 0).inUse = true ∧ (look coupled.zones 1).inUse = true
    ∧ (∀ j, look coupled.links j ≠ some (0, 1)) ∧ ∀ j, look coupled.links j ≠ some (1, 0) := by decide +kernel

/-- A Write Item of B7 as an INCOMER of Z0 with use, side A and BF time bytes. -/
def writeBr (use sideA bf : Byte) : Request := request 0x02#8 [4, 7, use, 0, sideA, 0, 2, 1, 0, bf, 0xFF]

theorem witness_WriteBreakerSupervises :
    (∀ r ∈ [writeBr 1 0xFE 29, writeBr 1 0 120, writeBr 0 0xFE 30], ∀ s ∈ [work, held0 .held],
      Serving (serve s 2 r) 2 r ∧ QuietOk (serve s 2 r) ∧ AtRest (serve s 2 r) ∧ r.kind = 0x02#8 ∧ r.byte 0 = 4 ∧ r.byte 1 = 7)
    ∧ (writeBr 1 0xFE 29).breakerRecord = some { defaultBreaker none with bfTime := 29 }
    ∧ (writeBr 1 0 120).breakerRecord = some { defaultBreaker none with sideA := .zone 0 }
    ∧ (writeBr 0 0xFE 30).breakerRecord = some { defaultBreaker none with inUse := false, bfTime := 30 }
    ∧ (work.zone 0).prot ≠ .held
    ∧ ∀ z, z ∈ (defaultBreaker none).sideZones ++ (defaultBreaker none).sideZones → ((held0 .held).zone z).prot = .held := by
  unfold Serving QuietOk AtRest; decide +kernel

theorem witness_WritePortAndGlobal :
    ∀ r ∈ [request 0x02#8 [9, 2, 255, 255], request 0x02#8 [9, 3, 0, 0], request 0x02#8 [10, 0, 1], request 0x02#8 [10, 0, 2],
        request 0x02#8 [10, 1, 0]],
      Serving (serve work 2 r) 2 r ∧ QuietOk (serve work 2 r) ∧ r.kind = 0x02#8 ∧ (r.byte 0 = 9 ∨ r.byte 0 = 10)
        ∧ (3 ≤ r.byte 1 ∨ r.byte 1 ≤ 2) := by unfold Serving QuietOk; decide +kernel

theorem witness_CommitWritesSnapshot :
    (∀ s ∈ [work, writing], Serving (serve s 2 (request 0x40#8 [])) 2 (request 0x40#8 []) ∧ (request 0x40#8 []).kind = 0x40#8)
    ∧ work.sets.store = .idle ∧ writing.sets.store = .writing ∧ writing.sets.snapshot = some (backstopDefaults, 42)
    ∧ writing.sets.timer.isSome = true := by unfold Serving; decide +kernel

theorem witness_ResetsKeepTheStores :
    work.powered = true ∧ oneRecord.ring ≠ [] ∧ work.ring = []
      ∧ (∀ st ∈ [LockoutStore.updating, .updatingAgain], LockoutWordOk (updating st) ∧ (updating st).lockout.store ≠ .idle)
      ∧ (work.setSets { writing.sets with image := { factoryImage with erased := true } }).sets.image.erased = true := by
  unfold LockoutWordOk; decide +kernel

theorem witness_LoadingEndsInServiceMode :
    State.reset.powered = true ∧ State.reset.mode = .reset ∧ { State.reset with mode := .loading }.mode = .loading
      ∧ State.reset.sets.image.valid = true ∧ { factoryImage with erased := true }.valid = false
      ∧ State.reset.lockout.word.valid = false ∧ (LockoutWord.holding 0x80).valid = true := by decide +kernel

theorem witness_CommittedSettingsReturn :
    writing.powered = true ∧ writing.sets.snapshot = some (backstopDefaults, 42) ∧ Buildable backstopDefaults := by
  have links : ∀ l, look backstopDefaults.links l = none := by decide
  refine ⟨by decide +kernel, by decide +kernel, by unfold ChannelInRange; decide +kernel, fun l a b h => ?_, fun l a b h => ?_,
    by unfold Placed; decide +kernel, by decide +kernel⟩ <;> simp [links] at h

theorem witness_TripSupplyNeedsTwoReadings :
    work.inService = true ∧ State.reset.inService = false ∧ work.sup.lastReading ≠ some true
      ∧ { work with sup := { supply := .ok, lastReading := some false } }.sup.lastReading = some false := by decide +kernel

/-- The invariants' statements speak of every step that gives a next state: one from reset, where all of them hold. -/
theorem witness_steps : ∃ t, step (State.reset.setPending [.resetEnd]) = .next t ∧ t.mode = .loading :=
  ⟨_, rfl, rfl⟩

theorem witness_StepKeepsLockouts :
    DrivenIsLocked (updating .updating) ∧ LockoutWordOk (updating .updating)
      ∧ ∃ t, step ((updating .updating).setPending [.lockoutUpdateCompletion]) = .next t :=
  ⟨by unfold DrivenIsLocked; decide +kernel, by unfold LockoutWordOk; decide +kernel, _, rfl⟩

theorem witness_StepKeepsHolds :
    HoldsOk (held0 .held) ∧ HoldsOk (held0 .arc) ∧ ∃ t, step ({ held0 .held with now := 9000000 }.setPending [.holdExpiry 0 0]) = .next t :=
  ⟨by unfold HoldsOk; decide +kernel, by unfold HoldsOk; decide +kernel, _, rfl⟩

theorem witness_StepKeepsTestEngine :
    TestingOk (testing0 .emit) ∧ QuietOk (testing0 .emit)
      ∧ ∃ t, step ((testing0 .emit).setPending [.settleTimerExpiry]) = .next t :=
  ⟨by unfold TestingOk; decide +kernel, by unfold QuietOk; decide +kernel, _, rfl⟩

theorem witness_StepKeepsLinks :
    LinksOk work.sets.working ∧ ∃ t, step (work.setPending [.rollover]) = .next t :=
  ⟨fun i a b h => by simp [(by decide +kernel : ∀ i, look work.sets.working.links i = none) i] at h, _, rfl⟩

theorem witness_StepKeepsOrders :
    OrdersOk work ∧ LevelBounded work ∧ ∃ t, step (work.setPending [.closeTimerExpiry 0]) = .next t := by
  have none_active : ∀ o, work.order o = none := by decide +kernel
  exact ⟨⟨fun o x z h => by simp [none_active] at h,
      fun z h => absurd h ((by decide +kernel : ∀ z, (work.zone z).prot ≠ .arc) z)⟩,
    fun o x h => by simp [none_active] at h, _, rfl⟩

theorem witness_StepKeepsRecordsAndPorts :
    RecordsOk work ∧ PortsOk work ∧ ∃ t, step (work.setPending [.transactionStart 0]) = .next t := by
  have none_sent : ∀ p, (work.port p).outgoing = none := by decide +kernel
  exact ⟨⟨by decide +kernel, by decide +kernel, fun i r h => absurd h (by simp [work, State.reset]), by decide +kernel⟩,
    ⟨by decide +kernel, by decide +kernel, fun p bs h => by simp [none_sent] at h⟩, _, rfl⟩

end Sys2Proof.Tests
end

section
/-! PROOF. Light channels and detection (chapter 1): the numbers of the detection, OK and non-OK samples, confirmations and
drops. -/

namespace Sys2Proof.Machine

open Sys2Proof Sys2Proof.Safety

/-! ### Frames extended by one update -/

section
variable {ps : List Part} {s t : State} (h : SameBut ps s t)
include h

theorem sameBut_setChan (c : ChanId) (x : Channel) (hp : Part.channels ∈ ps) :
    SameBut ps s (t.setChan c x) :=
  h.trans (SameBut.mono (ps := [.channels]) (by simp [SameBut]) (by simpa using hp))

theorem sameBut_setZone (z : ZoneId) (x : Zone) (hp : Part.zones ∈ ps) : SameBut ps s (t.setZone z x) :=
  h.trans (SameBut.mono (ps := [.zones]) (by simp [SameBut]) (by simpa using hp))

theorem sameBut_setBatch (b : Batch) (hp : Part.batch ∈ ps) : SameBut ps s (t.setBatch b) :=
  h.trans (SameBut.mono (ps := [.batch]) (by simp [SameBut]) (by simpa using hp))

theorem sameBut_setSets (x : SettingsUnit) (hp : Part.sets ∈ ps) : SameBut ps s (t.setSets x) :=
  h.trans (SameBut.mono (ps := [.sets]) (by simp [SameBut]) (by simpa using hp))

theorem sameBut_seal (b : RecordBody) (hr : Part.records ∈ ps) (hp : Part.ports ∈ ps) :
    SameBut ps s (t.seal b) :=
  h.trans ((seal_same t b).mono (by simpa using ⟨hr, hp⟩))

end

/-! ### The meaning of a command -/

section
variable (s : State)

theorem exec_sampleArrival_eq (c : ChanId) (v : Nat) (line : LineStatus) :
    exec (.sampleArrival c v line) s = execSampleArrival c v line s := rfl

theorem exec_lineFault_eq (c : ChanId) : exec (.lineFault c) s = execLineFault c s := rfl

theorem exec_lineRecovery_eq (c : ChanId) : exec (.lineRecovery c) s = execLineRecovery c s := rfl

theorem exec_holdExpiry_eq (z : ZoneId) (p : PortId) : exec (.holdExpiry z p) s = execHoldExpiry z p s := rfl

theorem exec_darkenTimerExpiry_eq : exec .darkenTimerExpiry s = execDarkenTimerExpiry s := rfl

theorem exec_gatheringWindowExpiry_eq : exec .gatheringWindowExpiry s = execGatheringWindowExpiry s := rfl

theorem exec_quietTimerExpiry_eq : exec .quietTimerExpiry s = execQuietTimerExpiry s := rfl

theorem exec_filteredCurrentChange_eq (b : BreakerId) :
    exec (.filteredCurrentChange b) s = execFilteredCurrentChange b s := rfl

theorem exec_resetEnd_eq : exec .resetEnd s = execResetEnd s := rfl

end

/-! ### What a sample's command is -/

theorem exec_sampleArrival_ok {s : State} {c : ChanId} {v : Nat} (hs : s.inService = true) (hv : v ≤ 4095) :
    exec (.sampleArrival c v .ok) s = .next (s.okArrival c v).settleQuiet := by
  simp [exec_sampleArrival_eq, execSampleArrival, hs, Nat.not_lt.mpr hv]

theorem exec_sampleArrival_nonOk {s : State} {c : ChanId} {v : Nat} {line : LineStatus} (hs : s.inService = true)
    (hv : v ≤ 4095) (hl : line ≠ .ok) :
    exec (.sampleArrival c v line) s = .next (s.nonOkArrival c).settleQuiet := by
  cases line with
  | ok => exact absurd rfl hl
  | openLoop | short => simp [exec_sampleArrival_eq, execSampleArrival, hs, Nat.not_lt.mpr hv]

/-- A change of one channel is no event for the quiet timer (R134). -/
theorem settleQuiet_setChan {s : State} (hq : QuietOk s) (c : ChanId) (x : Channel) :
    (s.setChan c x).settleQuiet = s.setChan c x :=
  settleQuiet_of_quietOk _ (hq.of_eq (by simp) (by simp))

/-- An OK sample that moves no channel into or out of CONFIRMED changes that channel only (R5, R22). -/
theorem exec_sample_setChan {s : State} {c : ChanId} {v : Nat} {y : Channel} (hs : s.inService = true) (hq : QuietOk s)
    (hv : v ≤ 4095) (ht : (s.chan c).phase ≠ .testing)
    (hy : (s.chan c).okSample (s.chanRec c) s.inForce.fast s.stamp v = y)
    (hc : (s.chan c).isConfirmed = y.isConfirmed) :
    exec (.sampleArrival c v .ok) s = .next (s.setChan c y) := by
  rw [exec_sampleArrival_ok hs hv, okArrival_of_not_testing ht, hy, putChannel_setChan hc, settleQuiet_setChan hq]

/-- A zone written with its own protection state. -/
theorem prot_setZone {s : State} {z : ZoneId} {x : Zone} (h : x.prot = (s.zone z).prot) (y : ZoneId) :
    ((s.setZone z x).zone y).prot = (s.zone y).prot := by
  rw [State.setZone_zone]
  split
  · rename_i e; subst e; exact h
  · rfl

/-- A zone after channel `c` joined its set (R50). -/
def joinedBy (c : ChanId) (x : Zone) : Zone := { x with confirmed := x.confirmed.add c }

theorem joinedBy_def (c : ChanId) (x : Zone) : joinedBy c x = { x with confirmed := x.confirmed.add c } := rfl

section
variable {s : State} {c : ChanId} {v : Nat} {z : ZoneId} (h : Confirms s c v z)
include h

theorem exec_confirms : exec (.sampleArrival c v .ok) s = .next (s.okArrival c v).settleQuiet := by
  obtain ⟨hs, -, hv, -⟩ := h
  exact exec_sampleArrival_ok hs hv

/-- The channel joins its zone's set before anything else happens there (R50). -/
theorem okArrival_joins : s.okArrival c v =
    ((s.setChan c (confirmedBy s.stamp v (s.chan c))).setZone z (joinedBy c (s.zone z))).confirmedAt c z := by
  rw [okArrival_confirms h]
  obtain ⟨-, -, -, -, -, -, hu, hn⟩ := h
  simp [State.confirmReport, hn, hu, joinedBy_def]

/-- The quiet timer stands right where the channel, the zone's set and parts that it does not read have changed. -/
theorem settleQuiet_joined {t : State} (hb : t.batch = s.batch)
    (hz : ∀ y, (t.zone y).prot = (s.zone y).prot) : t.settleQuiet = t := by
  obtain ⟨-, hq, -⟩ := h
  exact settleQuiet_of_quietOk _ (hq.of_eq hb (by simp only [State.anyBright, Zone.isBright, hz]))

/-- A confirmation at a LIT zone: the channel joins the zone's set, and that is all (R50). -/
theorem exec_confirms_lit (hp : (s.zone z).prot = .lit) :
    exec (.sampleArrival c v .ok) s =
      .next ((s.setChan c (confirmedBy s.stamp v (s.chan c))).setZone z (joinedBy c (s.zone z))) := by
  have hat : ∀ t : State, (t.zone z).prot = .lit → t.confirmedAt c z = t := by
    intro t ht; simp [State.confirmedAt, ht]
  rw [exec_confirms h, okArrival_joins h, hat _ (by simp [joinedBy_def, hp]), settleQuiet_joined h (by simp)]
  exact prot_setZone (by simp [joinedBy_def])

/-- A confirmation at an ARC zone: the order's open record gets the channel's entry (R143). -/
theorem exec_confirms_arc {o : SlotId} {x : Order} (hp : (s.zone z).prot = .arc) (ho : (s.zone z).orderSlot = some o)
    (hx : s.order o = some x) :
    exec (.sampleArrival c v .ok) s =
      .next (((s.setChan c (confirmedBy s.stamp v (s.chan c))).setZone z (joinedBy c (s.zone z))).setOrder o
        (some { x with channels := withChannel c (confirmedBy s.stamp v (s.chan c)) x.channels })) := by
  rw [exec_confirms h, okArrival_joins h]
  simp only [State.confirmedAt, State.setZone_zone, if_true, joinedBy_def, hp, ho, State.modifyOrder,
    State.setZone_order,
    State.setChan_order, hx, addChannels_one, State.setZone_chan, State.setChan_chan]
  rw [settleQuiet_joined h (by simp)]
  exact prot_setZone (by simp [hp])

/-- A confirmation at a HELD zone: a record once in a held period (R110). -/
theorem exec_confirms_held (hp : (s.zone z).prot = .held) :
    exec (.sampleArrival c v .ok) s =
      .next (let t := (s.setChan c (confirmedBy s.stamp v (s.chan c))).setZone z (joinedBy c (s.zone z))
        if (s.zone z).heldLightSent then t
        else (t.seal (.heldLight z c)).setZone z { joinedBy c (s.zone z) with heldLightSent := true }) := by
  have hat : ∀ t : State, (t.zone z).prot = .held → t.confirmedAt c z =
      if (t.zone z).heldLightSent then t
      else (t.seal (.heldLight z c)).setZone z { t.zone z with heldLightSent := true } := by
    intro t ht; simp [State.confirmedAt, ht]
  rw [exec_confirms h, okArrival_joins h, hat _ (by simp [joinedBy_def, hp])]
  simp only [State.setZone_zone, if_true,
    show (joinedBy c (s.zone z)).heldLightSent = (s.zone z).heldLightSent from rfl]
  rw [settleQuiet_joined h (by split <;> simp)]
  split
  · exact prot_setZone (by simp [joinedBy_def])
  · intro y
    rw [State.setZone_zone, seal_zone]
    split
    · rename_i e; subst e; rfl
    · exact prot_setZone (by simp [joinedBy_def]) y

end

/-- The state in which a DARK zone `z` is evaluated after channel `c` lit it: the channel CONFIRMED, the zone LIT with it
(R50). -/
def lighted (s : State) (c : ChanId) (v : Nat) (z : ZoneId) : State :=
  (s.setChan c (confirmedBy s.stamp v (s.chan c))).setZone z (litBy c s.stamp s.now (s.zone z))

theorem lighted_def (s : State) (c : ChanId) (v : Nat) (z : ZoneId) :
    lighted s c v z =
      (s.setChan c (confirmedBy s.stamp v (s.chan c))).setZone z (litBy c s.stamp s.now (s.zone z)) := rfl

section
variable (s : State) (c : ChanId) (v : Nat) (z : ZoneId)

theorem lighted_same : SameBut [.channels, .zones] s (lighted s c v z) := by simp [SameBut, lighted_def]

theorem lighted_zone : (lighted s c v z).zone z = litBy c s.stamp s.now (s.zone z) := by simp [lighted_def]

theorem lighted_onlyZone : OnlyZone s (lighted s c v z) z := fun y hy => by simp [lighted_def, Ne.symm hy]

theorem lighted_chan : (lighted s c v z).chan c = confirmedBy s.stamp v (s.chan c) := by simp [lighted_def]

theorem lighted_onlyChan : OnlyChan s (lighted s c v z) c := fun d hd => by simp [lighted_def, Ne.symm hd]

theorem lighted_island (y : ZoneId) : (lighted s c v z).island y = s.island y :=
  island_congr ((lighted_same s c v z).inForce (by decide) (by decide)) y

theorem lighted_tripSet (m : Marks 12) : (lighted s c v z).tripSet m = s.tripSet m :=
  tripSet_congr ((lighted_same s c v z).inForce (by decide) (by decide)) ((lighted_same s c v z).inputs (by decide)) m

theorem lighted_currentCondition : (lighted s c v z).currentCondition z = s.currentCondition z :=
  currentCondition_congr ((lighted_same s c v z).inForce (by decide) (by decide))
    ((lighted_same s c v z).inputs (by decide)) z

theorem lighted_missing (x : Order) (m : Marks 12) : (lighted s c v z).missing x m = s.missing x m :=
  missing_congr ((lighted_same s c v z).inForce (by decide) (by decide)) ((lighted_same s c v z).inputs (by decide))
    rfl m

end

theorem members_add_zero (c : ChanId) : (Marks.add 0 c : Marks 24).members = [c] := by
  revert c; decide

/-- The channels after an evaluation that leaves them alone. -/
theorem chan_of_lighted {s t : State} {c : ChanId} {v : Nat} {z : ZoneId} {ps : List Part}
    (h : SameBut ps (lighted s c v z) t) (hp : Part.channels ∉ ps) :
    t.chan c = confirmedBy s.stamp v (s.chan c) ∧ OnlyChan s t c :=
  ⟨(h.chan c hp).trans (lighted_chan s c v z), fun d hd => (h.chan d hp).trans (lighted_onlyChan s c v z d hd)⟩

theorem onlyZone_of_lighted {s t : State} {c : ChanId} {v : Nat} {z : ZoneId} (h : OnlyZone (lighted s c v z) t z) :
    OnlyZone s t z := fun y hy => (h y hy).trans (lighted_onlyZone s c v z y hy)

section
variable {s : State} {c : ChanId} {v : Nat} {z : ZoneId} (h : Confirms s c v z) (hp : (s.zone z).prot = .dark)
  (hb : s.batch.state = .idle)
include h hp hb

/-- A confirmation at a DARK zone under an IDLE batch: the zone, LIT with the channel, is evaluated (R50, R56). -/
theorem okArrival_dark : s.okArrival c v = (lighted s c v z).evaluate z := by
  rw [okArrival_joins h]
  simp only [State.confirmedAt, State.setZone_zone, if_true, joinedBy_def, hp, State.enterLit]
  rw [noteLit_idle (by simpa using hb)]
  simp [lighted_def, litBy, Zone.unlit, State.after, lightAlarmTime, ms]

/-- An evaluation that leaves the IDLE batch alone is the whole event. -/
theorem exec_confirms_dark {ps : List Part} (hs : SameBut ps (lighted s c v z) ((lighted s c v z).evaluate z))
    (hn : Part.batch ∉ ps) :
    exec (.sampleArrival c v .ok) s = .next ((lighted s c v z).evaluate z) := by
  have hidle : ((lighted s c v z).evaluate z).batch.state = .idle := by
    rw [hs.batch hn, (lighted_same s c v z).batch (by decide)]; exact hb
  rw [exec_confirms h, okArrival_dark h hp hb, settleQuiet_of_idle hidle]

variable (hc : s.currentCondition z = true)
include hc

/-- A confirmation whose evaluation finds an empty trip set (R57). -/
theorem confirms_noSource (h0 : (s.zone z).confirmed = 0) (ht : s.tripSet (s.island z) = []) :
    ∃ t, exec (.sampleArrival c v .ok) s = .next t ∧ Sealed s t (.noSource z (some c) (Marks.add 0 c))
      ∧ t.chan c = confirmedBy s.stamp v (s.chan c) ∧ OnlyChan s t c
      ∧ t.zone z = { litBy c s.stamp s.now (s.zone z) with noSourceSent := true } ∧ OnlyZone s t z
      ∧ SameBut [.channels, .zones, .records, .ports] s t := by
  have hset : ((lighted s c v z).zone z).confirmed = Marks.add 0 c := by rw [lighted_zone]; simp only [litBy, h0]
  have horigin : (lighted s c v z).zoneOrigin z = some c := by
    rw [State.zoneOrigin, hset, members_add_zero]; rfl
  have hev := evaluate_noSource (s := lighted s c v z) (z := z) (by rw [lighted_zone]; rfl)
    ((lighted_currentCondition s c v z).trans hc) (by rw [lighted_island, lighted_tripSet, ht])
    (by rw [lighted_zone]; rfl)
  rw [horigin, hset] at hev
  have hsame : SameBut [.zones, .records, .ports] (lighted s c v z) ((lighted s c v z).evaluate z) := by
    rw [hev]; exact sameBut_setZone (sameBut_seal (SameBut.refl _ _) _ (by decide) (by decide)) _ _ (by decide)
  refine ⟨_, exec_confirms_dark h hp hb hsame (by decide), ?_, (chan_of_lighted hsame (by decide)).1,
    (chan_of_lighted hsame (by decide)).2, ?_,
    onlyZone_of_lighted (c := c) (v := v) fun y hy => ?_,
    SameBut.trans ((lighted_same s c v z).mono (by simp)) (hsame.mono (by simp))⟩
  · rw [hev]; exact (sealed_seal (lighted s c v z) _).congr rfl rfl rfl rfl rfl rfl rfl
  · rw [hev, State.setZone_zone, if_pos rfl, lighted_zone]
  · rw [hev, State.setZone_zone, if_neg (Ne.symm hy), seal_zone]

/-- A confirmation whose evaluation finds an order to join (R59). -/
theorem confirms_joins {o : SlotId} {x : Order} (h0 : (s.zone z).confirmed = 0) (ht : s.tripSet (s.island z) ≠ [])
    (hx : s.order o = some x) (hy : ∃ y, y ∈ x.zones ∧ (s.island z).has y = true)
    (hlow : ∀ q w, q < o → s.order q = some w → ∀ y, y ∈ w.zones → (s.island z).has y = false)
    (hi : ∀ b, b ∈ s.missing x (x.span ||| s.island z) → (s.trip b).phase = .idle ∧ (s.trip b).demands = 0) :
    let new := if x.resolution = none ∧ s.island z &&& ~~~x.span ≠ 0 then s.missing x (x.span ||| s.island z) else []
    ∃ t, exec (.sampleArrival c v .ok) s = .next t
      ∧ t.chan c = confirmedBy s.stamp v (s.chan c) ∧ OnlyChan s t c
      ∧ t.zone z = { litBy c s.stamp s.now (s.zone z) with prot := .arc, alarmTimer := none, orderSlot := some o }
      ∧ OnlyZone s t z
      ∧ t.order o = some { x with
          zones := x.zones ++ [z], span := x.span ||| s.island z
          channels := withChannel c (confirmedBy s.stamp v (s.chan c)) x.channels
          entries := x.entries ++ new.map (openEntry x.level)
          closeTimer := if new = [] then x.closeTimer else none } ∧ OnlyOrder s t o
      ∧ Demanded s t o new ∧ SameBut [.channels, .zones, .orders, .trips, .lockout] s t := by
  intro new
  have hl := lighted_same s c v z
  have hset : ((lighted s c v z).zone z).confirmed = Marks.add 0 c := by rw [lighted_zone]; simp only [litBy, h0]
  have hev := evaluate_joins (s := lighted s c v z) (z := z) (o := o) (x := x) (by rw [lighted_zone]; rfl)
    ((lighted_currentCondition s c v z).trans hc) ((hl.inService (by decide)).trans h.1)
    (by rw [hl.batch (by decide)]; exact hb)
    (by rw [lighted_island, lighted_tripSet]; exact ht) ((hl.order o (by decide)).trans hx)
    (by rw [lighted_island]; exact hy)
    (fun q w hq hw => by rw [lighted_island]; rw [hl.order _ (by decide)] at hw; exact hlow q w hq hw)
    (fun b hm => by rw [lighted_missing, lighted_island] at hm; rw [hl.trip _ (by decide)]; exact hi b hm)
  rw [lighted_missing, lighted_island, hset, members_add_zero, addChannels_one, lighted_chan] at hev
  obtain ⟨hz, hoz, hord, hoo, hdem, hsame⟩ := hev
  refine ⟨_, exec_confirms_dark h hp hb hsame (by decide), (chan_of_lighted hsame (by decide)).1,
    (chan_of_lighted hsame (by decide)).2, ?_,
    onlyZone_of_lighted hoz, hord, fun q hq => (hoo q hq).trans (hl.order q (by decide)), demanded_congr hdem hl,
    SameBut.trans (hl.mono (by simp)) (hsame.mono (by simp))⟩
  rw [hz, lighted_zone]

/-- A confirmation whose evaluation creates an order (R58). -/
theorem confirms_creates {o : SlotId} (ht : s.tripSet (s.island z) ≠ [])
    (hno : ∀ q w, s.order q = some w → ∀ y, y ∈ w.zones → (s.island z).has y = false)
    (ho : s.order o = none) (hlow : ∀ q, q < o → s.order q ≠ none)
    (hi : ∀ b, b ∈ s.tripSet (s.island z) → (s.trip b).phase = .idle ∧ (s.trip b).demands = 0) :
    ∃ t, exec (.sampleArrival c v .ok) s = .next t
      ∧ t.chan c = confirmedBy s.stamp v (s.chan c) ∧ OnlyChan s t c
      ∧ t.zone z = { litBy c s.stamp s.now (s.zone z) with prot := .arc, alarmTimer := none, orderSlot := some o }
      ∧ OnlyZone s t z ∧ Created s t z o (s.tripSet (s.island z))
      ∧ SameBut [.channels, .zones, .orders, .trips, .lockout] s t := by
  have hl := lighted_same s c v z
  have hev := evaluate_creates (s := lighted s c v z) (z := z) (o := o) (by rw [lighted_zone]; rfl)
    ((lighted_currentCondition s c v z).trans hc) ((hl.inService (by decide)).trans h.1)
    (by rw [hl.batch (by decide)]; exact hb)
    (by rw [lighted_island, lighted_tripSet]; exact ht)
    (fun q w hw => by rw [lighted_island]; rw [hl.order _ (by decide)] at hw; exact hno q w hw)
    ((hl.order o (by decide)).trans ho) (fun q hq => by rw [hl.order _ (by decide)]; exact hlow q hq)
    (fun b hm => by rw [lighted_island, lighted_tripSet] at hm; rw [hl.trip _ (by decide)]; exact (hi b hm).1)
    (fun q w b _ hm => by
      rw [lighted_island, lighted_tripSet] at hm; rw [hl.trip _ (by decide), (hi b hm).2, Marks.has_zero])
  rw [lighted_island, lighted_tripSet] at hev
  obtain ⟨hz, hoz, hcre, hsame⟩ := hev
  refine ⟨_, exec_confirms_dark h hp hb hsame (by decide), (chan_of_lighted hsame (by decide)).1,
    (chan_of_lighted hsame (by decide)).2, ?_,
    onlyZone_of_lighted hoz, created_congr hcre hl, SameBut.trans (hl.mono (by simp)) (hsame.mono (by simp))⟩
  rw [hz, lighted_zone]

end

/-! ### The numbers of the detection (R10, R11, R12) -/

theorem threshold_eq (r : ChannelRecord) (c : Channel) :
    threshold r c = max r.ta (min 4094 (c.bfp / 16 * r.g / 8 + r.m)) := rfl

theorem threshold_bounds {r : ChannelRecord} (c : Channel) (h : ChannelInRange r) :
    r.ta ≤ threshold r c ∧ 64 ≤ threshold r c ∧ threshold r c ≤ 4094 := by
  obtain ⟨hlo, hhi, -⟩ := h
  rw [threshold_eq]
  omega

/-- A quotient by a positive number lies between the dividend and 0. -/
theorem ediv_between {d p : Int} (h : 1 ≤ p) : min d 0 ≤ d / p ∧ d / p ≤ max d 0 := by
  have hpos : 0 < p := by omega
  constructor
  · rw [Int.le_ediv_iff_mul_le hpos]
    rcases le_total d 0 with hd | hd
    · rw [min_eq_left hd]; nlinarith
    · rw [min_eq_right hd]; simpa using hd
  · rcases le_total d 0 with hd | hd
    · rw [max_eq_right hd]; simpa using Int.ediv_le_ediv hpos hd
    · rw [max_eq_left hd]; exact Int.ediv_le_self p hd

/-- The new background as an integer: the floor is toward minus infinity, and the sum is never negative (R12). -/
theorem filtered_cast (k s bfp : Nat) : (filtered k s bfp : Int) = bfp + (16 * (s : Int) - bfp) / 2 ^ k := by
  have hlow := (ediv_between (d := 16 * (s : Int) - bfp) (one_le_pow₀ (n := k) (by norm_num : (1 : Int) ≤ 2))).1
  simp only [filtered]
  push_cast
  omega

/-- Settles O4. -/
theorem detectionNumbers : Obligations.DetectionNumbers := by
  refine ⟨fun r c h => ?_, fun k s bfp hs hb => ?_⟩
  · obtain ⟨hlo, h64, hhi⟩ := threshold_bounds c h
    refine ⟨threshold_eq r c, hlo, hhi, ?_⟩
    unfold dropLevel
    omega
  · have hpow : (0 : Int) < 2 ^ k := by positivity
    have hcast := filtered_cast k s bfp
    have hbetween := ediv_between (d := 16 * (s : Int) - bfp) (one_le_pow₀ (n := k) (by norm_num : (1 : Int) ≤ 2))
    refine ⟨hcast, by omega, by omega, by omega, fun hle hlt => ?_, fun hlt => ?_⟩
    · have hzero : (16 * (s : Int) - bfp) / 2 ^ k = 0 :=
        Int.ediv_eq_zero_of_lt (by omega) (by rw [sub_lt_iff_lt_add']; exact_mod_cast hlt)
      omega
    · have hneg : (16 * (s : Int) - bfp) / 2 ^ k < 0 := Int.ediv_neg_of_neg_of_pos (by omega) hpow
      omega

/-! ### OK samples (R14, R15, R16, R19, R20, R21) -/

/-- Settles O5: each clause is the sample's effect on the channel, which makes no report but at the confirmation. -/
theorem sampleInQuiet : Obligations.SampleInQuiet := by
  intro s c v hs hq
  refine ⟨fun hp => ⟨fun hle hv => ?_, fun hlt hv hn => ?_, fun z hz hl => ?_⟩,
    fun hp => ⟨fun hle hv => ?_, fun hlt hv hn => ?_⟩⟩
  · exact exec_sample_setChan hs hq hv (by simp [hp]) (okSample_quiet_ambient hp hle) (by simp [Channel.isConfirmed])
  · exact exec_sample_setChan hs hq hv.le (by simp [hp]) (okSample_quiet_pickup hp hlt hv hn)
      (by simp [Channel.isConfirmed, hp])
  · rw [exec_confirms_lit hz hl]
    simp [confirmedBy, joinedBy_def, hp]
  · exact exec_sample_setChan hs hq hv (by simp [hp]) (okSample_pickup_quiet hp hle) (by simp [Channel.isConfirmed, hp])
  · exact exec_sample_setChan hs hq hv.le (by simp [hp]) (okSample_pickup_counts hp hlt hv hn)
      (by simp [Channel.isConfirmed])

/-- Settles O8: the sum and the count, and the average at the end; a saturated sample confirms. -/
theorem warmupAveragesBackground : Obligations.WarmupAveragesBackground := by
  intro s c v hs hq hp
  refine ⟨fun hv => ?_, fun z hz hl => ?_⟩
  · refine exec_sample_setChan hs hq hv.le (by simp [hp]) (okSample_warmup hp hv) ?_
    split <;> simp [Channel.isConfirmed, hp]
  · have hsat : v = 4095 := by
      obtain ⟨-, -, -, hk, -⟩ := hz
      rcases hk with ⟨h, -⟩ | ⟨h, -⟩ | ⟨-, h⟩
      · simp [hp] at h
      · simp [hp] at h
      · exact h
    rw [exec_confirms_lit hz hl]
    simp [confirmedBy, joinedBy_def, hp, hsat]

theorem droppedBy_phase (fast : Bool) (v : Nat) (x : Channel) : (droppedBy fast v x).phase ≠ .confirmed := by
  unfold droppedBy; split <;> simp

/-- Settles O7: the drop is the channel's exit from CONFIRMED with its reports. -/
theorem dropDarkensZone : Obligations.DropDarkensZone := by
  intro s c v
  refine ⟨fun hd => ?_, fun hs hq hp hv hhigh => ?_⟩
  · obtain ⟨hs, -, hp, hv, hlow⟩ := hd
    rw [exec_sampleArrival_ok hs hv, okArrival_of_not_testing (by simp [hp]), okSample_drops hp hlow]
    exact putChannel_dropsTo hp (droppedBy_phase _ _ _)
  · refine exec_sample_setChan hs hq hv (by simp [hp]) ?_ (by simp [Channel.isConfirmed])
    rcases hhigh with ⟨he, hd⟩ | ⟨he, hd⟩
    · exact okSample_confirmed_stay hp he hd
    · exact okSample_early_stay hp he hd

/-! ### Line supervision (R6, R7, R8, R9) -/

theorem lineFaulted_iff (x : Channel) : x.lineFaulted = true ↔ x.phase = .faulted ∧ x.cause = some .line := by
  simp [Channel.lineFaulted]

theorem brokenBy_isConfirmed (fast : Bool) (x : Channel) : (brokenBy fast x).isConfirmed = false := by
  unfold brokenBy Channel.isConfirmed
  cases hp : x.phase with
  | confirmed | faulted => dsimp only; split <;> simp
  | _ => simp [hp]

/-- A non-OK sample short of the 200th of its run neither enters FAULTED(LINE) nor leaves it. -/
theorem brokenBy_lineFaulted (fast : Bool) (x : Channel) : (brokenBy fast x).lineFaulted = x.lineFaulted := by
  rw [Bool.eq_iff_iff, lineFaulted_iff, lineFaulted_iff]
  unfold brokenBy
  cases hp : x.phase with
  | confirmed | faulted => dsimp only; split <;> simp
  | _ => simp [hp]

theorem nonOkArrival_short {s : State} {c : ChanId}
    (h : (s.chan c).nonOkRun + 1 ≠ 200 ∨ (s.chan c).phase = .off
      ∨ ((s.chan c).phase = .faulted ∧ (s.chan c).cause = some .line)) :
    s.nonOkArrival c = s.putChannel c (s.chanRec c).zones (brokenBy s.inForce.fast (s.chan c)) := by
  simp [State.nonOkArrival, nonOkSample_short h, Channel.enteredLineFault, brokenBy_lineFaulted]

/-- The channel `x` at the 200th non-OK sample of its run: FAULTED(LINE), after what Table 1-4 says of the sample (R7). -/
def lineFaultOf (fast : Bool) (x : Channel) : Channel :=
  { brokenBy fast x with
    phase := .faulted, cause := some .line, early := false, count := 0, nonOkRun := 0, okRun := 0 }

theorem lineFaultOf_def (fast : Bool) (x : Channel) : lineFaultOf fast x = { brokenBy fast x with
    phase := .faulted, cause := some .line, early := false, count := 0, nonOkRun := 0, okRun := 0 } := rfl

/-- The 200th non-OK sample of a run: the fault, its record, and the test engine told of a channel under test (R7, R130). -/
theorem nonOkArrival_limit {s : State} {c : ChanId} (hoff : (s.chan c).phase ≠ .off)
    (hconf : (s.chan c).phase ≠ .confirmed) (hline : ¬ ((s.chan c).phase = .faulted ∧ (s.chan c).cause = some .line))
    (hrun : (s.chan c).nonOkRun = 199) :
    s.nonOkArrival c =
      let t := (s.setChan c (lineFaultOf s.inForce.fast (s.chan c))).seal (.channelFault c .line none)
      if (s.chan c).phase = .testing then t.channelTaken c .skippedLine else t := by
  have hy : (s.chan c).nonOkSample s.inForce.fast = lineFaultOf s.inForce.fast (s.chan c) :=
    nonOkSample_limit hoff hline hrun
  have hin : (s.chan c).enteredLineFault (lineFaultOf s.inForce.fast (s.chan c)) = true := by
    have hl : (s.chan c).lineFaulted = false := Bool.eq_false_iff.mpr (mt (lineFaulted_iff _).mp hline)
    simp [Channel.enteredLineFault, hl, lineFaulted_iff, lineFaultOf_def]
  have hput : s.putChannel c (s.chanRec c).zones (lineFaultOf s.inForce.fast (s.chan c))
      = s.setChan c (lineFaultOf s.inForce.fast (s.chan c)) :=
    putChannel_setChan (by simp [Channel.isConfirmed, hconf, lineFaultOf_def])
  simp only [State.nonOkArrival, hy, hin, hput, if_true]

/-- LINE_FAULT is the non-OK sample that is the 200th of its run (R7; log 22). -/
theorem exec_lineFault {s : State} {c : ChanId} (hs : s.inService = true) (hoff : (s.chan c).phase ≠ .off)
    (hline : ¬ ((s.chan c).phase = .faulted ∧ (s.chan c).cause = some .line)) (hrun : (s.chan c).nonOkRun = 199) :
    exec (.lineFault c) s = .next (s.nonOkArrival c).settleQuiet := by
  have hl : (s.chan c).lineFaulted = false := Bool.eq_false_iff.mpr (mt (lineFaulted_iff _).mp hline)
  simp [exec_lineFault_eq, execLineFault, hs, hoff, hl, hrun, nonOkRunLimit]

/-- LINE_RECOVERY is the OK sample that is the 20,000th of its run (R8; log 22). -/
theorem exec_lineRecovery {s : State} {c : ChanId} (hs : s.inService = true) (hp : (s.chan c).phase = .faulted)
    (hc : (s.chan c).cause = some .line) (hrun : (s.chan c).okRun = 19999) :
    exec (.lineRecovery c) s = .next (s.okArrival c 0).settleQuiet := by
  simp [exec_lineRecovery_eq, execLineRecovery, hs, Channel.lineFaulted, hp, hc, hrun, okRunLimit]

theorem okSample_off {x : Channel} {r : ChannelRecord} {fast : Bool} {t : Stamp} {v : Nat} (hp : x.phase = .off) :
    x.okSample r fast t v = x := by
  simp [Channel.okSample, Channel.lineFaulted, Channel.okRuns, Channel.okDetect, hp]

theorem okSample_optical {x : Channel} {r : ChannelRecord} {fast : Bool} {t : Stamp} {v : Nat} (hp : x.phase = .faulted)
    (hc : x.cause = some .optical) : x.okSample r fast t v = { x with nonOkRun := 0 } := by
  simp [Channel.okSample, Channel.lineFaulted, Channel.okRuns, Channel.okDetect, hp, hc]

/-- Settles O9: the samples short of their limits, the two samples that end a run, and those of OFF and
FAULTED(OPTICAL). -/
theorem lineRunsEnd : Obligations.LineRunsEnd := by
  intro s c v hs hq hv x broken faulted
  refine ⟨fun line hl hshort => ⟨fun hp => ?_, fun hp => ?_⟩, fun hrun hp => ?_, fun hf hrun => ?_, fun hf hrun => ?_,
    fun hp => ?_, fun hp hc => ?_⟩
  · rw [exec_sampleArrival_nonOk hs hv hl, nonOkArrival_short hshort, putChannel_setChan, settleQuiet_setChan hq]
    rw [brokenBy_isConfirmed]
    simpa [Channel.isConfirmed] using hp
  · rw [exec_sampleArrival_nonOk hs hv hl, nonOkArrival_short hshort]
    have hb := brokenBy_isConfirmed s.inForce.fast (s.chan c)
    exact putChannel_dropsTo hp (by simpa [Channel.isConfirmed] using hb)
  · have hoff : x.phase ≠ .off := by rcases hp with h | h | h | ⟨h, -⟩ <;> simp [h]
    have hline : ¬ (x.phase = .faulted ∧ x.cause = some .line) := by
      rcases hp with h | h | h | ⟨-, h⟩ <;> simp [h]
    have hconf : x.phase ≠ .confirmed := by rcases hp with h | h | h | ⟨h, -⟩ <;> simp [h]
    have htest : x.phase ≠ .testing := by rcases hp with h | h | h | ⟨h, -⟩ <;> simp [h]
    have harr : (s.nonOkArrival c).settleQuiet
        = (s.setChan c (lineFaultOf s.inForce.fast x)).seal (.channelFault c .line none) := by
      rw [nonOkArrival_limit hoff hconf hline hrun]
      dsimp only
      rw [if_neg htest]
      exact settleQuiet_of_quietOk _ (hq.of_eq (by simp) (by simp))
    refine ⟨_, exec_lineFault hs hoff hline hrun, exec_sampleArrival_nonOk hs hv (by simp),
      exec_sampleArrival_nonOk hs hv (by simp), ?_⟩
    rw [harr]
    refine ⟨by simp [lineFaultOf_def, broken, x], fun d hd => by simp [Ne.symm hd], ?_, ?_⟩
    · exact (sealed_seal (s.setChan c (lineFaultOf s.inForce.fast x)) _).congr rfl rfl rfl rfl rfl rfl rfl
    · exact sameBut_seal (sameBut_setChan (SameBut.refl _ _) _ _ (by decide)) _ (by decide) (by decide)
  · exact exec_sample_setChan hs hq hv (by simp [x, hf.1] at *) (okSample_lineFaulted hf.1 hf.2 hrun) rfl
  · have hy := fun w =>
      okSample_recovery (r := s.chanRec c) (fast := s.inForce.fast) (t := s.stamp) (v := w) hf.1 hf.2 hrun
    have hne : (s.chan c).phase ≠ .testing := by rw [hf.1]; simp
    have hn : (s.chan c).isConfirmed = false := by simp [Channel.isConfirmed, show (s.chan c).phase = _ from hf.1]
    have harr : ∀ w, (s.okArrival c w).settleQuiet
        = s.setChan c ({ x with cause := none, okRun := 20000 }.freshWarmup s.inForce.fast) := by
      intro w
      rw [okArrival_of_not_testing hne, hy, putChannel_setChan (by rw [hn]; rfl), settleQuiet_setChan hq]
    refine ⟨_, exec_lineRecovery hs hf.1 hf.2 hrun, ?_, ?_⟩
    · rw [exec_sampleArrival_ok hs hv, harr, harr]
    · rw [harr]
      refine ⟨?_, by simp [Channel.freshWarmup], fun d hd => by simp [Ne.symm hd], by simp [SameBut]⟩
      simp [FreshWarmup, Channel.freshWarmup, warmupLength]
  · rw [exec_sample_setChan hs hq hv (by rw [hp]; simp) (okSample_off hp) rfl, State.setChan_self]
  · exact exec_sample_setChan hs hq hv (by rw [hp]; simp) (okSample_optical hp hc) rfl

/-! ### Confirmations (R22, R50, R56 to R59, R110) -/

/-- Settles O6: the zone's protection state says what the confirmation does there, and an evaluation that is met ends in
one of its three outcomes. -/
theorem confirmationLightsZone : Obligations.ConfirmationLightsZone := by
  intro s c v z h lit now joined arc met
  refine ⟨fun hp hc hb => ?_, exec_confirms_lit h, fun o x => exec_confirms_arc h, fun hp hsent => ?_,
    fun hp hsent => ?_, fun hm => confirms_noSource h hm.1 hm.2.2 hm.2.1,
    fun o x hm => confirms_joins h hm.1 hm.2.2 hm.2.1, fun o hm => confirms_creates h hm.1 hm.2.2 hm.2.1⟩
  · rw [exec_confirms h, okArrival_lights h hp hc, noteLit_idle (by simpa using hb),
      settleQuiet_of_idle (by simpa using hb)]
  · rw [exec_confirms_held h hp]
    simp only [hsent, if_true]
    rfl
  · refine ⟨_, exec_confirms_held h hp, ?_⟩
    simp only [hsent, Bool.false_eq_true, if_false]
    refine ⟨(sealed_seal (now.setZone z joined) _).congr rfl rfl rfl rfl rfl rfl rfl, ?_, fun d hd => ?_, ?_,
      fun y hy => ?_, ?_⟩
    · simp only [State.setZone_chan, seal_chan, State.setChan_chan, if_true]; rfl
    · simp [Ne.symm hd]
    · simp [joined, joinedBy_def]
    · simp [Ne.symm hy]
    · have hnow := sameBut_setZone (sameBut_setChan (SameBut.refl [.channels, .zones, .records, .ports] s) c
        (confirmedBy s.stamp v (s.chan c)) (by decide)) z joined (by decide)
      exact sameBut_setZone (sameBut_seal hnow _ (by decide) (by decide)) _ _ (by decide)

end Sys2Proof.Machine
end

section
/-! PROOF. Zone holds (chapter 6): Hold Zone, Free Zone and the expiry of an entry. -/

namespace Sys2Proof.Machine

open Sys2Proof Sys2Proof.Safety

/-- A completion whose effect leaves the ports alone: the request is answered, and then only a grant follows. -/
theorem complete_effect {s s1 : State} {p : PortId} {r : Request} {a : Answer} {row : RequestRow}
    {body : PortId → Request → State → State × Answer} (h : Serving s p r) (hr : r.row = row)
    (hb : body p r s = (s1, a)) (hp : s1.ports = s.ports) :
    ∃ t, (.next (s.complete row body) : Result) = .next t ∧ Answered s t p r a ∧ SameBut [.ports, .limits] s1 t := by
  obtain ⟨hans, hsame⟩ := complete_spec h hr hb
  exact ⟨_, rfl, hans.of_ports hp, hsame⟩

/-- Settling the quiet timer changes the batch only (R134). -/
theorem settleQuiet_same (s : State) : SameBut [.batch] s s.settleQuiet := by
  rw [settleQuiet_eq]; exact sameBut_setBatch (SameBut.refl _ _) _ (by decide)

theorem row_holdZone {r : Request} (h : r.kind = 0x10#8) : r.row = .holdZone := by simp [Request.row, h]

theorem row_freeZone {r : Request} (h : r.kind = 0x11#8) : r.row = .freeZone := by simp [Request.row, h]

/-! ### Hold Zone (R105 to R109) -/

/-- An entry placed for `m` minutes shows `m` times 60 s left (R116). -/
theorem remainingSeconds_minutes {t : State} {now m : Nat} (hn : t.now = now) (hm : 1 ≤ m) :
    t.remainingSeconds (now + m * 60000000) = m * 60 := by
  unfold State.remainingSeconds
  omega

theorem holdBody_outOfRange (p : PortId) {r : Request} (s : State) (h : 12 ≤ r.byte 0) :
    holdBody p r s = (s, .refuse .item) := by
  simp [holdBody, Nat.not_lt.mpr h]

theorem holdBody_notInUse (p : PortId) {r : Request} {s : State} {z : ZoneId} (h : r.byte 0 = z.val)
    (hu : (s.zoneRec z).inUse = false) : holdBody p r s = (s, .refuse .item) := by
  simp [holdBody, h, hu]

theorem holdBody_places (p : PortId) {r : Request} {s : State} {z : ZoneId} (h : r.byte 0 = z.val)
    (hu : (s.zoneRec z).inUse = true) :
    holdBody p r s =
      let d := r.byte 1 * 256 + r.byte 2
      let m := max 1 (min 480 d)
      let t := s.placeHold z p (s.now + m * 60000000)
      (t.settleQuiet, {
        code := if m = d then .done else .doneClamped
        data := num1 (t.zone z).prot.code ++ num2 (t.remainingSeconds (s.now + m * 60000000)) }) := by
  have hlt : r.byte 0 < 12 := by omega
  have hz : (⟨r.byte 0, hlt⟩ : ZoneId) = z := Fin.ext h
  simp only [holdBody, hlt, dif_pos, hz, hu, if_true]
  rfl

/-- Settles O25. -/
theorem holdZoneHolds : Obligations.HoldZoneHolds := by
  intro s p r hs hk refused
  refine ⟨fun z => hasHold_iff _, fun h => complete_effect hs (row_holdZone hk) (holdBody_outOfRange p s h) rfl,
    fun z hz => ⟨fun hu => complete_effect hs (row_holdZone hk) (holdBody_notInUse p hz hu) rfl, fun hu hok => ?_⟩⟩
  intro d m entered
  obtain ⟨hin, hout, hoz, hch, hsame⟩ := placeHold_spec (p := p) (e := s.now + m * 60000000) (hok z).2
  have hbody : holdBody p r s = ((s.placeHold z p (s.now + m * 60000000)).settleQuiet, _) := holdBody_places p hz hu
  generalize s.placeHold z p (s.now + m * 60000000) = u at *
  obtain ⟨t, hexec, hans, hrest⟩ :=
    complete_effect hs (row_holdZone hk) hbody (by simpa using hsame.ports (by decide))
  have hzone : ∀ y, t.zone y = u.zone y := fun y => (hrest.zone y (by decide)).trans (settleQuiet_zone u y)
  have hholds : (u.zone z).holds = put (s.zone z).holds p (some (s.now + m * 60000000)) := by
    by_cases he : entered
    · rw [hin he]
    · rw [hout he]
  have hcode : (u.zone z).prot.code = if (s.zone z).prot = .arc then 2 else 3 := by
    by_cases he : entered
    · rw [hin he]
      rcases he with h | h <;> simp [h, Prot.code]
    · rw [hout he]
      cases hp : (s.zone z).prot with
      | dark | lit => simp [entered, hp] at he
      | arc | held => rfl
  refine ⟨t, hexec, fun q => ?_, fun he => ?_, fun he => ?_, fun y hy => ?_, fun c => ?_, ?_, ?_, ?_⟩
  · rw [State.holdOf, hzone, hholds, look_put]
    simp only [@eq_comm _ p q, State.holdOf]
  · rw [hzone, hin he]
  · rw [hzone, hout he]
  · rw [hzone, hoz y hy]
  · rw [hrest.chan _ (by decide), settleQuiet_chan, hch]
  · rw [hcode, remainingSeconds_minutes hsame.now (by omega)] at hans
    exact hans
  · rw [hrest.batch (by decide), settleQuiet_batch_settled (hsame.batch (by decide)) hsame.now]
    exact quietSettled_congr rfl rfl fun y => by rw [hzone, settleQuiet_zone]
  · exact SameBut.trans (hsame.mono (by simp))
      (SameBut.trans ((settleQuiet_same u).mono (by simp)) (hrest.mono (by simp)))

/-! ### Free Zone (R111, R113, R25) -/

theorem freeBody_outOfRange (p : PortId) {r : Request} (s : State) (h : 12 ≤ r.byte 0) :
    freeBody p r s = (s, .refuse .item) := by
  simp [freeBody, Nat.not_lt.mpr h]

theorem freeBody_frees (p : PortId) {r : Request} (s : State) {z : ZoneId} (h : r.byte 0 = z.val) :
    freeBody p r s = (s.freeHold z p, { code := .done, data := [] }) := by
  have hlt : r.byte 0 < 12 := by omega
  have hz : (⟨r.byte 0, hlt⟩ : ZoneId) = z := Fin.ext h
  simp only [freeBody, hlt, dif_pos, hz]
  rfl

/-- The state after port `p`'s entry on zone `z` is gone. -/
theorem setHold_same (s : State) (z : ZoneId) (p : PortId) (e : Option Nat) : SameBut [.zones] s (s.setHold z p e) :=
  sameBut_setZone (SameBut.refl _ _) _ _ (by decide)

theorem setHold_zone (s : State) (z : ZoneId) (p : PortId) (e : Option Nat) :
    (s.setHold z p e).zone z = { s.zone z with holds := put (s.zone z).holds p e } := by
  simp [State.setHold]

theorem setHold_onlyZone (s : State) (z : ZoneId) (p : PortId) (e : Option Nat) : OnlyZone s (s.setHold z p e) z :=
  fun y hy => by simp [State.setHold, Ne.symm hy]

theorem setHold_prot (s : State) (z : ZoneId) (p : PortId) (e : Option Nat) (y : ZoneId) :
    ((s.setHold z p e).zone y).prot = (s.zone y).prot :=
  prot_setZone (x := { s.zone z with holds := put (s.zone z).holds p e }) rfl y

/-- Port `p`'s entry on zone `z` is gone between `s` and `u`, and at most a record was sealed. -/
def EntryGone (s u : State) (z : ZoneId) (p : PortId) : Prop :=
  u.zone z = { s.zone z with holds := put (s.zone z).holds p none } ∧ OnlyZone s u z
    ∧ SameBut [.zones, .records, .ports] s u

theorem entryGone_setHold (s : State) (z : ZoneId) (p : PortId) : EntryGone s (s.setHold z p none) z p :=
  ⟨setHold_zone s z p none, setHold_onlyZone s z p none, (setHold_same s z p none).mono (by simp)⟩

theorem entryGone_expireEntry (s : State) (z : ZoneId) (p : PortId) : EntryGone s (s.expireEntry z p) z p :=
  ⟨(seal_zone ..).trans (setHold_zone s z p none), fun y hy => (seal_zone ..).trans (setHold_onlyZone s z p none y hy),
    sameBut_seal ((setHold_same s z p none).mono (by simp)) _ (by decide) (by decide)⟩

/-- What follows an entry's end: the zone leaves HELD where its hold list has ended (R113). -/
def State.listEnds (u : State) (z : ZoneId) : State := if (u.zone z).hasHold then u else u.holdsEnded z

theorem listEnds_def (u : State) (z : ZoneId) :
    u.listEnds z = if (u.zone z).hasHold then u else u.holdsEnded z := rfl

section
variable {s u : State} {z : ZoneId} {p : PortId} (h : EntryGone s u z p)
include h

/-- Another port's entry keeps the zone's hold list from ending. -/
theorem EntryGone.hasHold : (u.zone z).hasHold = true ↔ ∃ q, q ≠ p ∧ s.holdOf z q ≠ none := by
  obtain ⟨hz, -, -⟩ := h
  rw [hasHold_iff, hz]
  refine exists_congr fun q => ?_
  by_cases hq : p = q
  · simp [hq]
  · simp [State.holdOf, hq, Ne.symm hq]

theorem EntryGone.hasHold_false (hno : ∀ q, q ≠ p → s.holdOf z q = none) : (u.zone z).hasHold = false :=
  Bool.eq_false_iff.mpr fun hh => by
    obtain ⟨q, hq, hne⟩ := h.hasHold.mp hh
    exact hne (hno q hq)

theorem EntryGone.prot (y : ZoneId) : (u.zone y).prot = (s.zone y).prot := by
  obtain ⟨hz, hoz, -⟩ := h
  by_cases hy : y = z
  · rw [hy, hz]
  · rw [hoz y hy]

theorem EntryGone.settleQuiet (hq : QuietOk s) : u.settleQuiet = u := by
  have hprot := h.prot
  obtain ⟨-, -, hsame⟩ := h
  exact settleQuiet_of_quietOk _ (hq.of_eq hsame.batch (by simp only [State.anyBright, Zone.isBright, hprot]))

/-- Where another entry remains, or the zone is ARC, nothing follows (R113). -/
theorem listEnds_kept (hk : (∃ q, q ≠ p ∧ s.holdOf z q ≠ none) ∨ (s.zone z).prot = .arc) : u.listEnds z = u := by
  rcases hk with hk | hk
  · exact if_pos (h.hasHold.mpr hk)
  · have hid : u.holdsEnded z = u := by simp [State.holdsEnded, h.prot, hk]
    rw [listEnds_def, hid, ite_self]

section
variable (hno : ∀ q, q ≠ p → s.holdOf z q = none)
include hno

theorem listEnds_holdsEnded : u.listEnds z = u.holdsEnded z :=
  if_neg (by simp [h.hasHold_false hno])

variable (hp : (s.zone z).prot = .held)
include hp

/-- The end of the list with no CONFIRMED channel at the zone (R25, R113). -/
theorem listEnds_dark (hc : ∀ c, (s.chanRec c).watches z = true → (s.chan c).phase ≠ .confirmed) :
    let t := u.listEnds z
    (t.zone z).prot = .dark ∧ (t.zone z).hasHold = false ∧ (t.zone z).confirmed = (s.zone z).confirmed
      ∧ OnlyZone s t z
      ∧ (∀ c, t.chan c =
          if (s.chanRec c).watches z = true ∧ (s.chan c).phase = .pickup then
            { s.chan c with phase := .quiet, early := false, count := 0 }
          else s.chan c)
      ∧ SameBut [.zones, .channels] u t ∧ (QuietOk s → t.settleQuiet = t) := by
  have hhold := h.hasHold_false hno
  have hprot := h.prot z
  rw [listEnds_holdsEnded h hno]
  obtain ⟨hz, hoz, hsame⟩ := h
  have hspec := holdsEnded_spec (hprot.trans hp)
    (fun c => by rw [hsame.chanRec _ (by decide) (by decide), hsame.chan _ (by decide)]; exact hc c)
  simp only [hsame.chanRec _ (by decide) (by decide), hsame.chan _ (by decide)] at hspec
  obtain ⟨hdark, hother, hch, hrest⟩ := hspec
  have honly : OnlyZone s (u.holdsEnded z) z := fun y hy => (hother y hy).trans (hoz y hy)
  refine ⟨by rw [hdark]; rfl, by rw [hdark]; exact hhold, by rw [hdark, hz]; rfl, honly, hch, hrest, fun hq => ?_⟩
  have hbright : ∀ y, ((u.holdsEnded z).zone y).isBright = (s.zone y).isBright := by
    intro y
    by_cases hy : y = z
    · rw [hy, hdark]; simp only [Zone.isBright, Zone.unlit, hp]; rfl
    · rw [honly y hy]
  exact settleQuiet_of_quietOk _ (hq.of_eq ((hrest.batch (by decide)).trans (hsame.batch (by decide)))
    (by simp only [State.anyBright, hbright]))

theorem listEnds_leftHeld (ha : ArcUntouched s z) :
    LeftHeld s (u.listEnds z) z ∧ SameBut [.zones, .channels] u (u.listEnds z) := by
  have hhold := h.hasHold_false hno
  have hprot := h.prot
  rw [listEnds_holdsEnded h hno]
  obtain ⟨hz, hoz, hsame⟩ := h
  obtain ⟨hleft, hrest⟩ := holdsEnded_leftHeld ((hprot z).trans hp) hhold
    (arcUntouched_congr ha (hsame.inForce (by decide) (by decide)) hsame.channels hprot)
  exact ⟨leftHeld_congr hleft (hsame.inForce (by decide) (by decide)).symm (hsame.channels (by decide)).symm
    (fun y hy => (hoz y hy).symm) (by rw [hz]) rfl rfl,
    hrest⟩

end

end

theorem freeHold_none {s : State} {z : ZoneId} {p : PortId} (hn : s.holdOf z p = none) : s.freeHold z p = s := by
  simp [State.freeHold, hn]

/-- Free Zone ends the port's entry, and the quiet timer is settled (R111, R134). -/
theorem freeHold_ends {s : State} {z : ZoneId} {p : PortId} (hn : s.holdOf z p ≠ none) (hq : QuietOk s) :
    s.freeHold z p = ((s.setHold z p none).listEnds z).settleQuiet := by
  obtain ⟨e, he⟩ := Option.ne_none_iff_exists'.mp hn
  simp only [State.freeHold, he, listEnds_def]
  split
  · exact ((entryGone_setHold s z p).settleQuiet hq).symm
  · rfl

/-- Settles O26. -/
theorem freeZoneFrees : Obligations.FreeZoneFrees := by
  intro s p r hs hq hk
  have hrow := row_freeZone hk
  have hgone := fun z => entryGone_setHold s z p
  have hset := fun z => setHold_same s z p none
  refine ⟨fun h => complete_effect hs hrow (freeBody_outOfRange p s h) rfl, fun z hz =>
    ⟨fun hn => ?_, fun hn hk => ?_, fun hn hno hp hc => ?_, fun hn hno hp ha => ?_⟩⟩
  all_goals have hbody := freeBody_frees p s hz
  · rw [freeHold_none hn] at hbody
    exact complete_effect hs hrow hbody rfl
  · rw [freeHold_ends hn hq, listEnds_kept (hgone z) hk, (hgone z).settleQuiet hq] at hbody
    obtain ⟨t, hexec, hans, hrest⟩ := complete_effect hs hrow hbody rfl
    refine ⟨t, hexec, hans, (hrest.zone z (by decide)).trans (setHold_zone ..), fun y hy => ?_, ?_⟩
    · exact (hrest.zone y (by decide)).trans (setHold_onlyZone s z p none y hy)
    · exact SameBut.trans ((hset z).mono (by simp)) (hrest.mono (by simp))
  · obtain ⟨hdark, hhold, hconf, hoz, hch, hsame, hquiet⟩ := listEnds_dark (hgone z) hno hp hc
    rw [freeHold_ends hn hq, hquiet hq] at hbody
    obtain ⟨t, hexec, hans, hrest⟩ :=
      complete_effect hs hrow hbody ((hsame.ports (by decide)).trans ((hset z).ports (by decide)))
    refine ⟨t, hexec, hans, ?_, ?_, ?_, fun y hy => (hrest.zone y (by decide)).trans (hoz y hy),
      fun c => (hrest.chan c (by decide)).trans (hch c), ?_⟩
    · rw [hrest.zone _ (by decide), hdark]
    · rw [hrest.zone _ (by decide), hhold]
    · rw [hrest.zone _ (by decide), hconf]
    · exact SameBut.trans ((hset z).mono (by simp)) (SameBut.trans (hsame.mono (by simp)) (hrest.mono (by simp)))
  · obtain ⟨hleft, hsame⟩ := listEnds_leftHeld (hgone z) hno hp ha
    have hbatch := (hsame.batch (by decide)).trans ((hset z).batch (by decide))
    have hnow := hsame.now.trans (hset z).now
    rw [freeHold_ends hn hq] at hbody
    obtain ⟨t, hexec, hans, hrest⟩ := complete_effect hs hrow hbody
      ((settleQuiet_ports _).trans ((hsame.ports (by decide)).trans ((hset z).ports (by decide))))
    refine ⟨t, hexec, hans, ?_, ?_, ?_⟩
    · exact leftHeld_congr hleft rfl rfl (fun _ _ => rfl) rfl
        ((hrest.channels (by decide)).trans (settleQuiet_channels _))
        ((hrest.zones (by decide)).trans (settleQuiet_zones _))
    · rw [hrest.batch (by decide), settleQuiet_batch_settled hbatch hnow]
      exact quietSettled_congr rfl rfl fun y => by rw [hrest.zone _ (by decide)]
    · exact SameBut.trans ((hset z).mono (by simp)) (SameBut.trans (hsame.mono (by simp))
        (SameBut.trans ((settleQuiet_same _).mono (by simp)) (hrest.mono (by simp))))

/-! ### The expiry of an entry (R112 to R114) -/

/-- A fold over all numbers of which one acts. -/
theorem foldl_ids_one {n : Nat} {f : State → Fin n → State} {s : State} (i : Fin n) (h : ∀ j, j ≠ i → f s j = s)
    (h' : ∀ j, j ≠ i → f (f s i) j = f s i) : (ids n).foldl f s = f s i := by
  obtain ⟨a, b, hab⟩ := List.append_of_mem (List.mem_finRange i)
  have hnodup : (a ++ i :: b).Nodup := hab ▸ List.nodup_finRange n
  obtain ⟨ha, hb⟩ : i ∉ a ∧ i ∉ b := by
    rw [List.nodup_middle, List.nodup_cons, List.mem_append] at hnodup
    tauto
  rw [ids, hab, List.foldl_append, List.foldl_cons, foldl_id a s fun j hj => h j fun e => ha (e ▸ hj)]
  exact foldl_id b _ fun j hj => h' j fun e => hb (e ▸ hj)

theorem expireZone_none {t : State} {e : Nat} {y : ZoneId} (h : ∀ q, t.holdOf y q ≠ some e) : t.expireZone e y = t := by
  have hnil : (ids 3).filter (fun q => t.holdOf y q == some e) = [] :=
    List.filter_eq_nil_iff.mpr fun q _ => by simpa using h q
  simp only [State.expireZone, hnil, List.isEmpty_nil, if_true]

theorem expireZone_one {s : State} {e : Nat} {z : ZoneId} {p : PortId} (h : s.holdOf z p = some e)
    (hone : ∀ q, s.holdOf z q = some e → q = p) : s.expireZone e z = (s.expireEntry z p).listEnds z := by
  have hport : (ids 3).filter (fun q => s.holdOf z q == some e) = [p] := by
    have hiff : ∀ q ∈ ids 3, (s.holdOf z q == some e) = (q == p) := fun q _ => by
      rw [Bool.eq_iff_iff, beq_iff_eq, beq_iff_eq]
      exact ⟨hone q, fun hq => hq ▸ h⟩
    rw [List.filter_congr hiff, List.filter_beq, List.count_eq_one_of_mem (List.nodup_finRange 3) (List.mem_finRange p)]
    rfl
  simp only [State.expireZone, hport, List.isEmpty_cons, Bool.false_eq_true, if_false, List.foldl_cons, List.foldl_nil]
  rfl

/-- The expiry of an entry that is the only one of its time: the entry ends, and the other zones' lists stay (R112). -/
theorem exec_holdExpiry {s : State} {e : Nat} {z : ZoneId} {p : PortId} (hs : s.inService = true)
    (h : s.holdOf z p = some e) (hone : ∀ y q, s.holdOf y q = some e → y = z ∧ q = p) (hdue : e ≤ s.now)
    (hkeep : ∀ y, y ≠ z → (((s.expireEntry z p).listEnds z).zone y).holds = (s.zone y).holds) :
    exec (.holdExpiry z p) s = .next ((s.expireEntry z p).listEnds z).settleQuiet := by
  have hz := expireZone_one h fun q hq => (hone z q hq).2
  have hother : ∀ y, y ≠ z → ∀ q, s.holdOf y q ≠ some e := fun y hy q hq => hy (hone y q hq).1
  have hfold : (ids 12).foldl (fun s z => s.expireZone e z) s = (s.expireEntry z p).listEnds z := by
    rw [foldl_ids_one (f := fun s z => s.expireZone e z) z (fun y hy => expireZone_none (hother y hy)), hz]
    intro y hy
    rw [hz]
    exact expireZone_none fun q => by rw [State.holdOf, hkeep y hy]; exact hother y hy q
  simp only [exec_holdExpiry_eq, execHoldExpiry, h, hs, hdue, decide_true, Bool.and_true, if_true, hfold]

/-- Settles O27. -/
theorem holdExpiryRemovesEntry : Obligations.HoldExpiryRemovesEntry := by
  intro s p z e hs hq he hone
  have hgone := entryGone_expireEntry s z p
  have hsealed : Sealed s (s.expireEntry z p) (.holdExpired z p) :=
    (sealed_seal (s.setHold z p none) _).congr rfl rfl rfl rfl rfl rfl rfl
  refine ⟨fun hlt => ?_, fun hdue hk => ?_, fun hdue hno hp hc => ?_, fun hdue hno hp ha => ?_⟩
  · simp [exec_holdExpiry_eq, execHoldExpiry, he, Nat.not_le.mpr hlt]
  · have hid := listEnds_kept hgone hk
    have hexec := exec_holdExpiry hs he hone hdue
    rw [hid, hgone.settleQuiet hq] at hexec
    obtain ⟨hz, hoz, hsame⟩ := hgone
    exact ⟨_, hexec fun y hy => by rw [hoz y hy], hsealed, hz, hoz, hsame⟩
  · obtain ⟨hdark, hhold, hconf, hoz, hch, hsame, hquiet⟩ := listEnds_dark hgone hno hp hc
    have hexec := exec_holdExpiry hs he hone hdue fun y hy => by rw [hoz y hy]
    rw [hquiet hq] at hexec
    refine ⟨_, hexec, hsealed.congr rfl rfl rfl rfl (hsame.ring (by decide)) (hsame.nextSeq (by decide))
      (hsame.ports (by decide)), hdark, hhold, hconf, hoz, hch, ?_⟩
    obtain ⟨-, -, hfirst⟩ := hgone
    exact SameBut.trans (hfirst.mono (by simp)) (hsame.mono (by simp))
  · obtain ⟨hleft, hsame⟩ := listEnds_leftHeld hgone hno hp ha
    obtain ⟨-, -, hfirst⟩ := hgone
    have hsettle := settleQuiet_same ((s.expireEntry z p).listEnds z)
    refine ⟨_, exec_holdExpiry hs he hone hdue fun y hy => ?_, ?_, ?_, ?_, ?_⟩
    · obtain ⟨-, -, -, -, hother⟩ := hleft
      rw [hother y hy]; split <;> rfl
    · exact hsealed.congr rfl rfl rfl rfl ((hsettle.ring (by decide)).trans (hsame.ring (by decide)))
        ((hsettle.nextSeq (by decide)).trans (hsame.nextSeq (by decide)))
        ((hsettle.ports (by decide)).trans (hsame.ports (by decide)))
    · exact leftHeld_congr hleft rfl rfl (fun _ _ => rfl) rfl (hsettle.channels (by decide)) (hsettle.zones (by decide))
    · exact settleQuiet_batch_settled ((hsame.batch (by decide)).trans (hfirst.batch (by decide)))
        (hsame.now.trans hfirst.now)
    · exact SameBut.trans (hfirst.mono (by simp)) (SameBut.trans (hsame.mono (by simp)) (hsettle.mono (by simp)))

end Sys2Proof.Machine
end

section
/-! PROOF. The test engine (chapter 7): Suspend Test, the ends of a channel's test, the batch's start and resumption. -/

namespace Sys2Proof.Machine

open Sys2Proof Sys2Proof.Safety

/-! ### Suspend Test (R132, R133) -/

theorem row_suspendTest {r : Request} (h : r.kind = 0x21#8) : r.row = .suspendTest := by simp [Request.row, h]

section
variable (p : PortId) (r : Request) (s : State)

theorem suspendBody_idle (h : s.batch.state = .idle) : suspendBody p r s = (s, .refuse .state) := by
  simp [suspendBody, h]

theorem suspendBody_active (h : s.batch.state = .gathering ∨ s.batch.state = .running) :
    suspendBody p r s = (s.suspend .request, { code := .done, data := [3#8] }) := by
  have hans : (s.suspend .request).batchAnswer = { code := .done, data := [3#8] } := by
    rw [State.batchAnswer, suspend_batch]; rfl
  rcases h with h | h <;> simp [suspendBody, h, hans]

theorem suspendBody_suspended (h : s.batch.state = .suspended) :
    suspendBody p r s =
      (s.setBatch { s.batch with cause := some .request, quietTimer := none }, { code := .done, data := [3#8] }) := by
  simp [suspendBody, h, State.batchAnswer, BatchState.code, num1]

end

/-- Settles O32. -/
theorem suspendTestSuspends : Obligations.SuspendTestSuspends := by
  intro s p r he hk refused
  have hrow := row_suspendTest hk
  refine ⟨fun hn => ?_, fun hs hb => complete_effect ⟨hs, he⟩ hrow (suspendBody_idle p r s hb) rfl, fun hs hb => ?_,
    fun hs hb => ?_⟩
  · exact ⟨_, rfl, complete_mode hn he hrow⟩
  · have hsame := suspend_same s .request
    obtain ⟨t, hexec, hans, hrest⟩ :=
      complete_effect ⟨hs, he⟩ hrow (suspendBody_active p r s hb) (hsame.ports (by decide))
    refine ⟨t, hexec, hans, (hrest.batch (by decide)).trans (suspend_batch s .request), fun c hc => ?_,
      fun c hc => ?_, ?_⟩
    · rw [hrest.chan _ (by decide), suspend_chan, if_pos hc]
      exact release_released s.inForce.fast (s.chan c)
    · rw [hrest.chan _ (by decide), suspend_chan, if_neg hc]
    · exact SameBut.trans (hsame.mono (by simp)) (hrest.mono (by simp))
  · obtain ⟨t, hexec, hans, hrest⟩ := complete_effect ⟨hs, he⟩ hrow (suspendBody_suspended p r s hb) rfl
    exact ⟨t, hexec, hans, hrest.batch (by decide), SameBut.trans (sameBut_setBatch (SameBut.refl _ _) _ (by decide))
      (hrest.mono (by simp))⟩

/-! ### The end of a channel's test (R126 to R130) -/

/-- The result of `c` written and the step cleared (R129 steps 4 and 5, R130). -/
def State.testEnded (s : State) (c : ChanId) (r : TestResult) : State :=
  (s.setResult c r).setBatch (s.setResult c r).batch.cleared

theorem testEnded_def (s : State) (c : ChanId) (r : TestResult) :
    s.testEnded c r = (s.setResult c r).setBatch (s.setResult c r).batch.cleared := rfl

/-- The channel `c` released by a verdict, with its last test (R129 steps 1 and 3). -/
def State.verdictReleased (s : State) (c : ChanId) (v : Verdict) (r : Nat) : State :=
  (s.releaseWith c v).setChan c
    { (s.releaseWith c v).chan c with lastTest := some { verdict := v, response := r, time := s.stamp } }

theorem verdictReleased_def (s : State) (c : ChanId) (v : Verdict) (r : Nat) :
    s.verdictReleased c v r = (s.releaseWith c v).setChan c
      { (s.releaseWith c v).chan c with lastTest := some { verdict := v, response := r, time := s.stamp } } := rfl

theorem giveVerdict_eq (s : State) (c : ChanId) (v : Verdict) (r : Nat) :
    s.giveVerdict c v r = ((s.verdictReleased c v r).testEnded c (.verdict v)).takeUp := rfl

theorem channelTaken_eq {s : State} {c : ChanId} (h : s.batch.current = some c) (r : TestResult) :
    s.channelTaken c r = (s.testEnded c r).takeUp := if_pos h

theorem testEnded_same (s : State) (c : ChanId) (r : TestResult) : SameBut [.batch] s (s.testEnded c r) :=
  sameBut_setBatch (sameBut_setBatch (SameBut.refl _ _) _ (by decide)) _ (by decide)

/-- The test of `c` ended with result `r`, as seen from a state `s` with the same batch but for what the step holds. -/
theorem testEnded_batch {s w : State} (hb : stepCleared w.batch = stepCleared s.batch) (c : ChanId) (r : TestResult) :
    (w.testEnded c r).result c = r ∧ (∀ d, d ≠ c → (w.testEnded c r).result d = s.result d)
      ∧ (w.testEnded c r).batch = { stepCleared s.batch with results := (w.testEnded c r).batch.results } := by
  have hres : (stepCleared w.batch).results = (stepCleared s.batch).results := congrArg Batch.results hb
  replace hres : w.batch.results = s.batch.results := hres
  refine ⟨?_, fun d hd => ?_, ?_⟩
  · simp [State.result, testEnded_def, State.setResult, Batch.cleared]
  · simp [State.result, testEnded_def, State.setResult, Batch.cleared, Ne.symm hd, hres]
  · rw [← hb]; rfl

theorem settleQuiet_takeUp_testEnded {w : State} (h : w.batch.state = .running) (c : ChanId) (r : TestResult) :
    (w.testEnded c r).takeUp.settleQuiet = (w.testEnded c r).takeUp :=
  settleQuiet_takeUp (s := w.testEnded c r) h

theorem releaseWith_batch (s : State) (c : ChanId) (v : Verdict) : (s.releaseWith c v).batch = s.batch := by
  unfold State.releaseWith; split <;> simp

theorem verdictReleased_onlyChan (s : State) (c : ChanId) (v : Verdict) (r : Nat) :
    OnlyChan s (s.verdictReleased c v r) c := by
  intro d hd
  rw [verdictReleased_def]
  unfold State.releaseWith
  split <;> simp [Ne.symm hd]

theorem verdictReleased_batch (s : State) (c : ChanId) (v : Verdict) (r : Nat) :
    (s.verdictReleased c v r).batch = s.batch := releaseWith_batch s c v

/-- FAIL and STUCK: the channel is faulted, and its record is sealed (R27, R129). -/
theorem verdictReleased_fault {s : State} {c : ChanId} {v : Verdict} {r : Nat} (h : v = .fail ∨ v = .stuck) :
    (s.verdictReleased c v r).chan c = { s.chan c with
        phase := .faulted, cause := some .optical, early := false, count := 0
        lastTest := some { verdict := v, response := r, time := s.stamp } }
      ∧ Sealed s (s.verdictReleased c v r) (.channelFault c .optical (some v))
      ∧ SameBut [.channels, .records, .ports] s (s.verdictReleased c v r) := by
  have hrel : s.releaseWith c v = (s.setChan c (s.chan c).releaseFaulted).seal (.channelFault c .optical (some v)) :=
    if_pos h
  refine ⟨?_, ?_, ?_⟩
  · simp [verdictReleased_def, hrel, Channel.releaseFaulted]
  · rw [verdictReleased_def, hrel]
    exact (sealed_seal (s.setChan c (s.chan c).releaseFaulted) _).congr rfl rfl rfl rfl rfl rfl rfl
  · rw [verdictReleased_def, hrel]
    have hfaulted := sameBut_setChan (SameBut.refl [.channels, .records, .ports] s) c (s.chan c).releaseFaulted (by decide)
    exact sameBut_setChan (sameBut_seal hfaulted _ (by decide) (by decide)) _ _ (by decide)

/-- The other verdicts: the channel is released (R27, R129). -/
theorem verdictReleased_released {s : State} {c : ChanId} {v : Verdict} {r : Nat} (h : ¬ (v = .fail ∨ v = .stuck)) :
    (s.verdictReleased c v r).chan c = { (s.chan c).release s.inForce.fast with
        lastTest := some { verdict := v, response := r, time := s.stamp } }
      ∧ SameBut [.channels] s (s.verdictReleased c v r) := by
  have hrel : s.releaseWith c v = s.setChan c ((s.chan c).release s.inForce.fast) := if_neg h
  rw [verdictReleased_def, hrel]
  exact ⟨by simp, sameBut_setChan (sameBut_setChan (SameBut.refl _ _) _ _ (by decide)) _ _ (by decide)⟩

theorem verdictReleased_same (s : State) (c : ChanId) (v : Verdict) (r : Nat) :
    SameBut [.channels, .records, .ports] s (s.verdictReleased c v r) := by
  by_cases h : v = .fail ∨ v = .stuck
  · obtain ⟨-, -, hsame⟩ := verdictReleased_fault (s := s) (c := c) (r := r) h
    exact hsame
  · obtain ⟨-, hsame⟩ := verdictReleased_released (s := s) (c := c) (r := r) h
    exact hsame.mono (by simp)

/-! ### The verdict at the second dark sample (R127, R128, Table 7-4) -/

/-- The verdict by Table 7-4. -/
def darkVerdictOf (learn : Bool) (r ref : Nat) : Verdict := if learn = true then learnVerdict r else plainVerdict r ref

theorem darkVerdictOf_def (learn : Bool) (r ref : Nat) :
    darkVerdictOf learn r ref = if learn = true then learnVerdict r else plainVerdict r ref := rfl

theorem plainVerdict_mem (r ref : Nat) : 
    plainVerdict r ref = .pass ∨ plainVerdict r ref = .weak ∨ plainVerdict r ref = .fail := by
  unfold plainVerdict; split
  · simp
  · split <;> simp

theorem darkVerdictOf_ne_stuck (learn : Bool) (r ref : Nat) : darkVerdictOf learn r ref ≠ .stuck := by
  rw [darkVerdictOf_def]
  unfold learnVerdict
  split
  · split <;> simp
  · rcases plainVerdict_mem r ref with h | h | h <;> simp [h]

/-- The settings after a verdict: LEARNED writes the reference, no other verdict touches them (R128). -/
def State.referenceWritten (s : State) (c : ChanId) (r : Nat) (x : Verdict) : State :=
  if x = .learned then s.writeReference c r else s

theorem referenceWritten_def (s : State) (c : ChanId) (r : Nat) (x : Verdict) :
    s.referenceWritten c r x = if x = .learned then s.writeReference c r else s := rfl

theorem darkVerdict_eq (s : State) (c : ChanId) :
    s.darkVerdict c =
      let r := s.testResponse c
      let x := darkVerdictOf s.batch.learn r (s.reference c)
      (s.referenceWritten c r x).giveVerdict c x r := by
  simp only [darkVerdictOf_def, referenceWritten_def]
  unfold State.darkVerdict
  cases s.batch.learn with
  | true => rfl
  | false =>
    rcases plainVerdict_mem (s.testResponse c) (s.reference c) with h | h | h <;> simp [h]

theorem response_cast (emitSum bInt : Nat) : (response emitSum bInt : Int) = max 0 ((emitSum : Int) / 8 - bInt) := by
  unfold response
  omega

theorem plainVerdict_table (r ref : Nat) :
    (plainVerdict r ref = .pass ↔ r * 4 ≥ ref * 3) ∧ (plainVerdict r ref = .weak ↔ r * 4 < ref * 3 ∧ r * 2 ≥ ref)
      ∧ (plainVerdict r ref = .fail ↔ r * 4 < ref * 3 ∧ r * 2 < ref) := by
  unfold plainVerdict
  split_ifs <;> simp <;> omega

theorem learnVerdict_table (r : Nat) : (learnVerdict r = .learned ↔ r ≥ 64) ∧ (learnVerdict r = .fail ↔ r < 64) := by
  unfold learnVerdict
  split_ifs <;> simp <;> omega

/-! ### The samples of the DARKEN step (R126) -/

/-- A sample of the channel under test goes to the test engine (R125, R126). -/
theorem exec_testSample {s : State} {c : ChanId} {v : Nat} (hs : s.inService = true) (ht : (s.chan c).phase = .testing)
    (hv : v ≤ 4095) :
    exec (.sampleArrival c v .ok) s = .next
      ((s.setChan c { s.chan c with nonOkRun := 0 }).testSample c v).settleQuiet := by
  rw [exec_sampleArrival_ok hs hv, okArrival_testing ht]

/-- The state after a dark sample that calls for the verdict: the sample counted and the darken timer stopped. -/
def State.darkCounted (s : State) (c : ChanId) : State :=
  (s.setChan c { s.chan c with nonOkRun := 0 }).setBatch
    { s.batch with darkenCount := s.batch.darkenCount + 1, darkenTimer := none }

theorem darkCounted_def (s : State) (c : ChanId) :
    s.darkCounted c = (s.setChan c { s.chan c with nonOkRun := 0 }).setBatch
      { s.batch with darkenCount := s.batch.darkenCount + 1, darkenTimer := none } := rfl

theorem testSample_darken {s : State} {c : ChanId} {v : Nat} (hc : s.batch.current = some c)
    (hd : s.batch.step = some .darken) :
    (s.setChan c { s.chan c with nonOkRun := 0 }).testSample c v =
      let u := s.setChan c { s.chan c with nonOkRun := 0 }
      if v ≤ threshold (s.chanRec c) (s.chan c) then
        if s.batch.darkenCount + 1 = 2 then (s.darkCounted c).darkVerdict c
        else u.setBatch { s.batch with darkenCount := s.batch.darkenCount + 1 }
      else u.setBatch { s.batch with darkenCount := 0 } := by
  simp [State.testSample, hc, hd, threshold_eq, darkCounted_def]

/-- The same with a learned reference written. -/
def State.secondDark (s : State) (c : ChanId) (r : Nat) (x : Verdict) : State :=
  (s.darkCounted c).referenceWritten c r x

theorem secondDark_def (s : State) (c : ChanId) (r : Nat) (x : Verdict) :
    s.secondDark c r x = (s.darkCounted c).referenceWritten c r x := rfl

section
variable (s : State) (c : ChanId) (r : Nat) (x : Verdict)

theorem referenceWritten_same : SameBut [.sets] s (s.referenceWritten c r x) := by
  rw [referenceWritten_def]
  split
  · exact sameBut_setSets (SameBut.refl _ _) _ (by decide)
  · exact SameBut.refl _ _

theorem referenceWritten_fast : (s.referenceWritten c r x).inForce.fast = s.inForce.fast := by
  rw [referenceWritten_def]
  split
  · have hmode : (s.writeReference c r).mode = s.mode := rfl
    rw [State.inForce, State.inForce, hmode]
    split <;> rfl
  · rfl

theorem secondDark_same : SameBut [.channels, .batch, .sets] s (s.secondDark c r x) :=
  SameBut.trans (sameBut_setBatch (sameBut_setChan (SameBut.refl _ _) _ _ (by decide)) _ (by decide))
    ((referenceWritten_same ..).mono (by simp))

theorem secondDark_chan : (s.secondDark c r x).chan c = { s.chan c with nonOkRun := 0 } := by
  rw [secondDark_def, (referenceWritten_same ..).chan _ (by decide)]; simp [darkCounted_def]

theorem secondDark_onlyChan : OnlyChan s (s.secondDark c r x) c := fun d hd => by
  rw [secondDark_def, (referenceWritten_same ..).chan _ (by decide)]; simp [darkCounted_def, Ne.symm hd]

theorem secondDark_fast : (s.secondDark c r x).inForce.fast = s.inForce.fast := referenceWritten_fast ..

theorem secondDark_batch : (s.secondDark c r x).batch =
    { s.batch with darkenCount := s.batch.darkenCount + 1, darkenTimer := none } :=
  ((referenceWritten_same ..).batch (by decide))

theorem secondDark_sets : (s.secondDark c r x).sets =
    if x = .learned then
      { s.sets with
        working := { s.sets.working with
          channels := put s.sets.working.channels c { look s.sets.working.channels c with ref := r } }
        dirty := true
        writtenSince := s.sets.writtenSince || decide (s.sets.store = .writing) }
    else s.sets := by
  rw [secondDark_def, referenceWritten_def]
  split
  · simp only [State.writeReference, SettingsUnit.touched, State.setSets_sets]
    rfl
  · rfl

end

/-- The second dark sample in a row gives the verdict of Table 7-4 (R126). -/
theorem exec_secondDark {s : State} {c : ChanId} {v : Nat} (hs : s.inService = true) (hc : s.batch.current = some c)
    (hr : s.batch.state = .running) (hd : s.batch.step = some .darken) (ht : (s.chan c).phase = .testing)
    (hle : v ≤ threshold (s.chanRec c) (s.chan c)) (hv : v ≤ 4095) (hone : s.batch.darkenCount = 1) :
    let r := s.testResponse c
    let x := darkVerdictOf s.batch.learn r (s.reference c)
    exec (.sampleArrival c v .ok) s =
      .next (((s.secondDark c r x).verdictReleased c x r).testEnded c (.verdict x)).takeUp := by
  intro r x
  have hrun : ((s.secondDark c r x).verdictReleased c x r).batch.state = .running := by
    rw [verdictReleased_batch, secondDark_batch]; exact hr
  have hresp : (s.darkCounted c).testResponse c = r := by
    simp [State.testResponse, darkCounted_def, Channel.bInt, r]
  have hverdict := darkVerdict_eq (s.darkCounted c) c
  rw [hresp] at hverdict
  have hsample : (s.setChan c { s.chan c with nonOkRun := 0 }).testSample c v =
      (((s.secondDark c r x).verdictReleased c x r).testEnded c (.verdict x)).takeUp := by
    rw [testSample_darken hc hd]
    simp only [hle, if_true, hone]
    exact hverdict
  rw [exec_testSample hs ht hv, hsample, settleQuiet_takeUp_testEnded hrun]

/-- The end of the darken timer gives STUCK (R126). -/
theorem exec_stuck {s : State} {c : ChanId} (hs : s.inService = true) (hc : s.batch.current = some c)
    (hr : s.batch.state = .running) (hd : s.batch.step = some .darken) (ht : s.batch.darkenTimer.isSome = true) :
    exec .darkenTimerExpiry s =
      .next (((s.setBatch { s.batch with darkenTimer := none }).verdictReleased c .stuck (s.testResponse c)).testEnded c
        (.verdict .stuck)).takeUp := by
  rw [← settleQuiet_takeUp_testEnded ((verdictReleased_batch ..).symm ▸ hr)]
  simp only [exec_darkenTimerExpiry_eq, execDarkenTimerExpiry, hc, hs, hd, ht, beq_self_eq_true, Bool.and_self,
    if_true, State.stuckVerdict, giveVerdict_eq]
  rfl

/-- The 200th non-OK sample of a run takes the channel under test to FAULTED(LINE), and the test ends (R7, R130). -/
theorem nonOkArrival_underTest {s : State} {c : ChanId} (hc : s.batch.current = some c) (hr : s.batch.state = .running)
    (ht : (s.chan c).phase = .testing) (hrun : (s.chan c).nonOkRun = 199) :
    (s.nonOkArrival c).settleQuiet =
      (((s.setChan c (lineFaultOf s.inForce.fast (s.chan c))).seal (.channelFault c .line none)).testEnded c
        .skippedLine).takeUp := by
  rw [nonOkArrival_limit (by simp [ht]) (by simp [ht]) (by simp [ht]) hrun, if_pos ht,
    channelTaken_eq (by simpa using hc),
    settleQuiet_takeUp_testEnded (by simpa using hr)]

/-- A released channel under a verdict: in QUIET, or in a fresh WARMUP that clears the fault cause (R27, R129). -/
theorem released_lastTest {fast : Bool} {x : Channel} (last : Option LastTest) :
    (x.cause ≠ some .optical → { x.release fast with lastTest := last } =
        { x with phase := .quiet, early := false, count := 0, lastTest := last })
      ∧ (x.cause = some .optical → FreshWarmup fast { x with lastTest := last } { x.release fast with lastTest := last }
        ∧ ({ x.release fast with lastTest := last } : Channel).cause = none) := by
  unfold Channel.release
  refine ⟨fun h => by rw [if_neg h]; rfl, fun h => ?_⟩
  rw [if_pos h]
  simp [FreshWarmup, Channel.freshWarmup, warmupLength]

/-- The test of `c` ended with result `r` between `s` and `u` (R129, R130). -/
def TestEnded (s u : State) (c : ChanId) (r : TestResult) : Prop :=
  u.result c = r ∧ (∀ d, d ≠ c → u.result d = s.result d)
    ∧ u.batch = { stepCleared s.batch with results := u.batch.results }

section
variable {s : State} {c : ChanId} (hs : s.inService = true) (hc : s.batch.current = some c)
  (hr : s.batch.state = .running)
include hs hc hr

theorem darkenTimerExpiry_stuck (hd : s.batch.step = some .darken) (ht : s.batch.darkenTimer.isSome = true) :
    ∃ u t, exec .darkenTimerExpiry s = .next t ∧ TakenUp u t
      ∧ u.chan c = { s.chan c with
          phase := .faulted, cause := some .optical, early := false, count := 0
          lastTest := some { verdict := .stuck, response := s.testResponse c, time := s.stamp } }
      ∧ OnlyChan s u c ∧ Sealed s u (.channelFault c .optical (some .stuck)) ∧ TestEnded s u c (.verdict .stuck)
      ∧ SameBut [.channels, .batch, .records, .ports] s u := by
  have hexec := exec_stuck hs hc hr hd ht
  have hfirst := sameBut_setBatch (SameBut.refl [.batch] s) { s.batch with darkenTimer := none } (by decide)
  have hbatch : stepCleared (s.setBatch { s.batch with darkenTimer := none }).batch = stepCleared s.batch := rfl
  have hchan : (s.setBatch { s.batch with darkenTimer := none }).chan = s.chan := rfl
  generalize s.setBatch { s.batch with darkenTimer := none } = w at *
  obtain ⟨hch, hsealed, hsame⟩ :=
    verdictReleased_fault (s := w) (c := c) (v := .stuck) (r := s.testResponse c) (.inr rfl)
  have honly := verdictReleased_onlyChan w c .stuck (s.testResponse c)
  rw [← verdictReleased_batch w c .stuck (s.testResponse c)] at hbatch
  generalize w.verdictReleased c .stuck (s.testResponse c) = x at *
  have hend := testEnded_same x c (.verdict .stuck)
  refine ⟨_, _, hexec, takeUp_spec _, ?_, fun d hd => ?_, ?_, testEnded_batch hbatch c _, ?_⟩
  · rw [hend.chan _ (by decide), hch, hfirst.stamp (by decide), hchan]
  · rw [hend.chan _ (by decide), honly d hd, hchan]
  · exact hsealed.congr (hfirst.ring (by decide)).symm (hfirst.nextSeq (by decide)).symm
      (hfirst.time (by decide)).symm (hfirst.ports (by decide)).symm (hend.ring (by decide)) (hend.nextSeq (by decide))
      (hend.ports (by decide))
  · exact SameBut.trans (hfirst.mono (by simp)) (SameBut.trans (hsame.mono (by simp)) (hend.mono (by simp)))

theorem sampleArrival_secondDark {v : Nat} (hd : s.batch.step = some .darken) (ht : (s.chan c).phase = .testing)
    (hle : v ≤ threshold (s.chanRec c) (s.chan c)) (hv : v ≤ 4095) (hone : s.batch.darkenCount = 1) :
    let r := s.testResponse c
    let x := darkVerdictOf s.batch.learn r (s.reference c)
    let last := fun v : Verdict => some { verdict := v, response := r, time := s.stamp : LastTest }
    ∃ u t, exec (.sampleArrival c v .ok) s = .next t ∧ TakenUp u t ∧ TestEnded s u c (.verdict x)
      ∧ (x = .fail →
          u.chan c = { s.chan c with
            phase := .faulted, cause := some .optical, early := false, count := 0, nonOkRun := 0
            lastTest := last .fail }
          ∧ Sealed s u (.channelFault c .optical (some .fail)))
      ∧ (x ≠ .fail → (s.chan c).cause ≠ some .optical →
          u.chan c = { s.chan c with phase := .quiet, early := false, count := 0, nonOkRun := 0, lastTest := last x })
      ∧ (x ≠ .fail → (s.chan c).cause = some .optical →
          FreshWarmup s.inForce.fast { s.chan c with lastTest := last x } (u.chan c) ∧ (u.chan c).cause = none)
      ∧ (x ≠ .fail → SameBut [.channels, .batch, .sets] s u)
      ∧ u.sets =
          (if x = .learned then
            { s.sets with
              working := { s.sets.working with
                channels := put s.sets.working.channels c { look s.sets.working.channels c with ref := r } }
              dirty := true
              writtenSince := s.sets.writtenSince || decide (s.sets.store = .writing) }
          else s.sets)
      ∧ OnlyChan s u c ∧ SameBut [.channels, .batch, .records, .ports, .sets] s u := by
  intro r x last
  have hexec := exec_secondDark hs hc hr hd ht hle hv hone
  have hstuck : x ≠ .stuck := darkVerdictOf_ne_stuck s.batch.learn r (s.reference c)
  have hfirst := secondDark_same s c r x
  have hchan := secondDark_chan s c r x
  have honly := secondDark_onlyChan s c r x
  have hsets := secondDark_sets s c r x
  have hfast := secondDark_fast s c r x
  have hbatch : stepCleared (s.secondDark c r x).batch = stepCleared s.batch := by rw [secondDark_batch]; rfl
  change exec _ s = .next (((s.secondDark c r x).verdictReleased c x r).testEnded c (.verdict x)).takeUp at hexec
  generalize s.secondDark c r x = w at *
  have hrel := verdictReleased_same w c x r
  have hrelonly := verdictReleased_onlyChan w c x r
  have hfault := verdictReleased_fault (s := w) (c := c) (v := x) (r := r)
  have hreleased := fun hne : x ≠ .fail =>
    verdictReleased_released (s := w) (c := c) (r := r) (v := x) (not_or.mpr ⟨hne, hstuck⟩)
  rw [← verdictReleased_batch w c x r] at hbatch
  simp only [hchan, hfirst.stamp (by decide), hfast] at hreleased hfault
  generalize w.verdictReleased c x r = y at *
  have hend := testEnded_same y c (.verdict x)
  refine ⟨_, _, hexec, takeUp_spec _, testEnded_batch hbatch c _, fun hfail => ?_, fun hne hcause => ?_,
    fun hne hcause => ?_, fun hne => ?_, ((hend.sets (by decide)).trans (hrel.sets (by decide))).trans hsets,
      fun d hd => ?_, ?_⟩
  · obtain ⟨hch, hsealed, -⟩ := hfault (.inl hfail)
    rw [hfail] at hsealed hch
    exact ⟨(hend.chan c (by decide)).trans hch, hsealed.congr (hfirst.ring (by decide)).symm
      (hfirst.nextSeq (by decide)).symm (hfirst.time (by decide)).symm
      (hfirst.ports (by decide)).symm (hend.ring (by decide)) (hend.nextSeq (by decide)) (hend.ports (by decide))⟩
  · obtain ⟨hch, -⟩ := hreleased hne
    obtain ⟨hquiet, -⟩ := released_lastTest (fast := s.inForce.fast) (x := { s.chan c with nonOkRun := 0 }) (last x)
    exact (hend.chan c (by decide)).trans (hch.trans (hquiet hcause))
  · obtain ⟨hch, -⟩ := hreleased hne
    obtain ⟨-, hwarm⟩ := released_lastTest (fast := s.inForce.fast) (x := { s.chan c with nonOkRun := 0 }) (last x)
    rw [hend.chan _ (by decide), hch]
    exact hwarm hcause
  · obtain ⟨-, hsame⟩ := hreleased hne
    exact SameBut.trans (hfirst.mono (by simp)) (SameBut.trans (hsame.mono (by simp)) (hend.mono (by simp)))
  · rw [hend.chan _ (by decide), hrelonly d hd, honly d hd]
  · exact SameBut.trans (hfirst.mono (by simp)) (SameBut.trans (hrel.mono (by simp)) (hend.mono (by simp)))

theorem lineFault_underTest (ht : (s.chan c).phase = .testing) (hrun : (s.chan c).nonOkRun = 199) :
    ∃ u t, exec (.lineFault c) s = .next t ∧ (∀ v, v ≤ 4095 → exec (.sampleArrival c v .openLoop) s = .next t)
      ∧ TakenUp u t
      ∧ u.chan c = { s.chan c with
          phase := .faulted, cause := some .line, early := false, count := 0, nonOkRun := 0, okRun := 0 }
      ∧ OnlyChan s u c ∧ Sealed s u (.channelFault c .line none) ∧ TestEnded s u c .skippedLine
      ∧ SameBut [.channels, .batch, .records, .ports] s u := by
  have hfault : lineFaultOf s.inForce.fast (s.chan c) = { s.chan c with
      phase := .faulted, cause := some .line, early := false, count := 0, nonOkRun := 0, okRun := 0 } := by
    simp [lineFaultOf_def, brokenBy, ht]
  have harr := nonOkArrival_underTest hc hr ht hrun
  rw [hfault] at harr
  have hexec := exec_lineFault hs (by simp [ht]) (by simp [ht]) hrun
  have hsample := fun v hv => exec_sampleArrival_nonOk (c := c) (v := v) (line := .openLoop) hs hv (by simp)
  rw [harr] at hexec hsample
  generalize hx : ({ s.chan c with
      phase := .faulted, cause := some .line, early := false, count := 0, nonOkRun := 0
      okRun := 0 } : Channel) = x at *
  have hend := testEnded_same ((s.setChan c x).seal (.channelFault c .line none)) c .skippedLine
  refine ⟨_, _, hexec, hsample, takeUp_spec _, ?_, fun d hd => ?_, ?_, testEnded_batch (by simp) c _, ?_⟩
  · rw [hend.chan _ (by decide)]; simp
  · rw [hend.chan _ (by decide)]; simp [Ne.symm hd]
  · exact (sealed_seal (s.setChan c x) _).congr rfl rfl rfl rfl rfl rfl rfl
  · exact SameBut.trans (sameBut_seal (sameBut_setChan (SameBut.refl _ _) _ _ (by decide)) _ (by decide) (by decide))
      (hend.mono (by simp))

/-- A dark sample that calls for no verdict, and one above the threshold, change the dark count (R126). -/
theorem sampleArrival_darken {v : Nat} (hd : s.batch.step = some .darken) (ht : (s.chan c).phase = .testing)
    (hv : v ≤ 4095) :
    (v ≤ threshold (s.chanRec c) (s.chan c) → s.batch.darkenCount = 0 →
        exec (.sampleArrival c v .ok) s =
          .next ((s.setChan c { s.chan c with nonOkRun := 0 }).setBatch { s.batch with darkenCount := 1 }))
      ∧ (threshold (s.chanRec c) (s.chan c) < v →
        exec (.sampleArrival c v .ok) s =
          .next ((s.setChan c { s.chan c with nonOkRun := 0 }).setBatch { s.batch with darkenCount := 0 })) := by
  refine ⟨fun hle hz => ?_, fun hlt => ?_⟩
  · rw [exec_testSample hs ht hv, testSample_darken hc hd]
    simp only [hle, if_true, hz]
    rw [if_neg (by decide), settleQuiet_of_running (by simpa using hr)]
  · rw [exec_testSample hs ht hv, testSample_darken hc hd]
    simp only [Nat.not_le.mpr hlt, if_false]
    rw [settleQuiet_of_running (by simpa using hr)]

end

/-- Settles O31. -/
theorem testEndsWithVerdict : Obligations.TestEndsWithVerdict := by
  refine ⟨fun s c hs hc hr => ?_, fun r ref emitSum bInt => ?_⟩
  · intro r ref last ended
    exact ⟨darkenTimerExpiry_stuck hs hc hr, fun v => sampleArrival_darken hs hc hr,
      fun v => sampleArrival_secondDark (v := v) hs hc hr, lineFault_underTest hs hc hr⟩
  · obtain ⟨hpass, hweak, hfail⟩ := plainVerdict_table r ref
    exact ⟨response_cast emitSum bInt, hpass, hweak, hfail, learnVerdict_table r⟩

end Sys2Proof.Machine
end

section
/-! PROOF. The test engine (chapter 7): the batch's start, its suspension by light and its resumption. -/

namespace Sys2Proof.Machine

open Sys2Proof Sys2Proof.Safety

/-- Under a batch suspended by light a bright board stops the quiet timer (R134). -/
theorem settleQuiet_bright {s : State} (hs : s.batch.state = .suspended) (hc : s.batch.cause = some .light)
    (hb : s.anyBright = true) : s.settleQuiet = s.setBatch { s.batch with quietTimer := none } := by
  simp [State.settleQuiet, hs, hc, hb]

theorem anyBright_of_zone {s : State} {z : ZoneId} (h : (s.zone z).prot = .lit ∨ (s.zone z).prot = .arc) :
    s.anyBright = true := (anyBright_iff s).mpr ⟨z, h⟩

/-- The quiet timer is stopped but under a batch suspended by light (R134). -/
theorem quietTimer_none {s : State} (h : QuietOk s)
    (hn : ¬ (s.batch.state = .suspended ∧ s.batch.cause = some .light)) : s.batch.quietTimer = none := by
  refine Option.not_isSome_iff_eq_none.mp fun hsome => hn ?_
  obtain ⟨hs, hc, -⟩ := h.mp hsome
  exact ⟨hs, hc⟩

/-! ### The gathering window's end and the quiet timer's end (R120, R121, R134, R136) -/

/-- A RUNNING batch takes up the next channel that passes its checks (R121, R124). -/
theorem takeUp_running {s : State} {c : ChanId} {b : Batch} (h : NextUp s c) (hres : b.results = s.batch.results)
    (hr : b.state = .running) :
    (s.setBatch b).takeUp = (s.setChan c (inTesting (s.chan c))).setBatch (testing b c s.now) := by
  rw [takeUp_next (nextUp_setBatch h b hres), testing, ← hr]
  rfl

section
variable {s : State} (hs : s.inService = true)
include hs

theorem exec_windowExpiry (hg : s.batch.state = .gathering) (hout : s.ranOut s.batch.windowExpiry = true) :
    exec .gatheringWindowExpiry s = .next s.windowEnded.settleQuiet := by
  simp [exec_gatheringWindowExpiry_eq, execGatheringWindowExpiry, hs, hg, hout]

theorem exec_windowExpiry_bright (hq : QuietOk s) (hg : s.batch.state = .gathering)
    (hout : s.ranOut s.batch.windowExpiry = true) (hb : s.anyBright = true) :
    exec .gatheringWindowExpiry s = .next (s.setBatch { s.batch with
      state := .suspended, cause := some .light, gatherStart := none, windowExpiry := none, windowLimit := none }) := by
  have hnone : s.batch.quietTimer = none := quietTimer_none hq (by simp [hg])
  rw [exec_windowExpiry hs hg hout]
  simp only [State.windowEnded, hb, if_true]
  rw [settleQuiet_bright]
  · simp [hnone]
  · rfl
  · rfl
  · exact hb

theorem exec_windowExpiry_dark (hg : s.batch.state = .gathering) (hout : s.ranOut s.batch.windowExpiry = true)
    (hb : s.anyBright = false) :
    exec .gatheringWindowExpiry s = .next (s.setBatch { s.batch with
      state := .running, gatherStart := none, windowExpiry := none, windowLimit := none }).takeUp := by
  rw [exec_windowExpiry hs hg hout]
  simp only [State.windowEnded, hb, Bool.false_eq_true, if_false]
  rw [settleQuiet_takeUp rfl]

theorem exec_quietTimerExpiry (hsusp : s.batch.state = .suspended) (ht : s.batch.quietTimer.isSome = true) :
    exec .quietTimerExpiry s =
      .next (s.setBatch { s.batch with state := .running, cause := none, quietTimer := none }).takeUp := by
  simp only [exec_quietTimerExpiry_eq, execQuietTimerExpiry, hs, hsusp, ht, beq_self_eq_true, Bool.and_self, if_true,
    State.resume]
  rw [settleQuiet_takeUp rfl]

/-- The test of the next channel, its emitter on (R124). -/
theorem teLine_takenUp (c : ChanId) (x : Channel) (b : Batch) :
    ((s.setChan c x).setBatch (testing b c s.now)).teLine c = true := by
  simp [State.teLine, testing, hs]

end

/-! ### Suspension by light (R131, R133) -/

/-- A suspension by light on a bright board, settled (R133, R134). -/
theorem settleQuiet_suspend {s t : State} (hb : t.batch = (s.suspend .light).batch) (hbright : t.anyBright = true) :
    t.settleQuiet = t.setBatch (suspendedByLight s.batch) := by
  rw [suspend_batch] at hb
  rw [settleQuiet_bright (by rw [hb]) (by rw [hb]) hbright, hb]
  rfl

theorem suspend_released {s : State} {k : SuspendCause} {c : ChanId} (h : s.batch.current = some c) :
    Released s.inForce.fast (s.chan c) ((s.suspend k).chan c) := by
  rw [suspend_chan, if_pos h]
  exact release_released _ _

theorem suspend_chan_other {s : State} {k : SuspendCause} {c : ChanId} (h : s.batch.current ≠ some c) :
    (s.suspend k).chan c = s.chan c := by
  rw [suspend_chan, if_neg h]

theorem noteArc_active {s : State} (h : s.batch.state = .gathering ∨ s.batch.state = .running) :
    s.noteArc = s.suspend .light := by
  rcases h with h | h <;> simp [State.noteArc, h]

theorem isTestZone_iff (s : State) (z : ZoneId) :
    s.isTestZone z = true ↔ ∃ d, s.batch.current = some d ∧ (s.chanRec d).watches z = true := by
  unfold State.isTestZone
  cases s.batch.current <;> simp

theorem noteLit_suspends {s : State} {z : ZoneId} (h : LitSuspends s z) : s.noteLit z = s.suspend .light := by
  rcases h with h | ⟨h, hn⟩
  · simp [State.noteLit, h]
  · have hno : s.isTestZone z = false := Bool.eq_false_iff.mpr (mt (isTestZone_iff s z).mp hn)
    simp [State.noteLit, h, hno]

theorem noteLit_keeps {s : State} {z : ZoneId} (h : ¬ LitSuspends s z) : s.noteLit z = s := by
  unfold State.noteLit
  cases hb : s.batch.state with
  | idle | suspended => rfl
  | gathering => exact absurd (.inl hb) h
  | running =>
    refine if_pos ((isTestZone_iff s z).mpr ?_)
    by_contra hn
    exact h (.inr ⟨hb, hn⟩)

/-- The state with breaker `b`'s filtered current ASSERTED (R42). -/
def State.currentOn (s : State) (b : BreakerId) : State :=
  s.setInput b { s.input b with filterTimer := none, current := true }

theorem currentOn_def (s : State) (b : BreakerId) :
    s.currentOn b = s.setInput b { s.input b with filterTimer := none, current := true } := rfl

section
variable (s : State) (b : BreakerId)

theorem currentOn_same : SameBut [.inputs] s (s.currentOn b) := by simp [SameBut, currentOn_def]

theorem currentOn_tripSet (m : Marks 12) : (s.currentOn b).tripSet m = s.tripSet m := by
  refine List.filter_congr fun x _ => ?_
  simp only [State.isOpen, currentOn_def, State.setInput_input]
  split
  · rename_i h; rw [h]
  · rfl

end

/-- A current that asserts at a breaker of the trip set meets the zone's condition (R54). -/
theorem currentOn_currentCondition {s : State} {b : BreakerId} {z : ZoneId} (hb : b ∈ s.tripSet (s.island z))
    (hcc : (s.breakerRec b).ccUsed = true) : (s.currentOn b).currentCondition z = true := by
  have htrip : b ∈ (s.currentOn b).tripSet ((s.currentOn b).island z) := by rw [currentOn_tripSet]; exact hb
  have hany : (((s.currentOn b).tripSet ((s.currentOn b).island z)).filter
      (fun x => ((s.currentOn b).breakerRec x).ccUsed)).any (fun x => ((s.currentOn b).input x).current) = true :=
    List.any_eq_true.mpr ⟨b, List.mem_filter.mpr ⟨htrip, hcc⟩, by simp [currentOn_def]⟩
  simp only [State.currentCondition, hany, Bool.or_true]

/-- A DRIVING breaker with its current ASSERTED has not opened (R64). -/
theorem tripReport_currentOn {s : State} {b : BreakerId} (hp : (s.trip b).phase = .driving)
    (hcc : (s.breakerRec b).ccUsed = true) (hcur : (s.input b).current = true) : s.tripReport b = s := by
  simp [State.tripReport, hp, State.hasOpened, hcc, hcur]

theorem exec_currentAsserts {s : State} {b : BreakerId} (hs : s.inService = true)
    (ht : (s.input b).filterTimer.isSome = true) (hl : (s.input b).curLine = true) (hc : (s.input b).current = false) :
    exec (.filteredCurrentChange b) s = .next (((s.currentOn b).currentAsserted b).tripReport b).settleQuiet := by
  simp [exec_filteredCurrentChange_eq, execFilteredCurrentChange, hs, ht, State.currentSettled, hl, hc, currentOn_def]

/-- A current that asserts at the one LIT zone, with no order active: an order is created there (R55, R58), and the test
engine is told (R131). -/
theorem currentAsserted_creates {s : State} {b : BreakerId} {z : ZoneId} (hs : s.inService = true)
    (hz : (s.zone z).prot = .lit) (hone : ∀ y, y ≠ z → (s.zone y).prot ≠ .lit) (hno : ∀ o, s.order o = none)
    (hb : b ∈ s.tripSet (s.island z)) (hcc : (s.breakerRec b).ccUsed = true)
    (hidle : ∀ x, x ∈ s.tripSet (s.island z) → (s.trip x).phase = .idle) :
    let t := ((s.currentOn b).currentAsserted b).tripReport b
    t.zone z = { s.zone z with prot := .arc, alarmTimer := none, orderSlot := some 0 } ∧ OnlyZone s t z
      ∧ Created s t z 0 (s.tripSet (s.island z))
      ∧ SameBut [.zones, .orders, .trips, .lockout] (s.currentOn b).noteArc t := by
  have hsame := currentOn_same s b
  have hcond := currentOn_currentCondition hb hcc
  have htrip := currentOn_tripSet s b (s.island z)
  have hcur : ((s.currentOn b).input b).current = true := by simp [currentOn_def]
  have hisl : (s.currentOn b).island z = s.island z := rfl
  generalize s.currentOn b = u at *
  obtain ⟨hzone, honly, hcreated, hrest⟩ :=
    evaluate_creates_noting (s := u) (z := z) (o := 0) (by rw [hsame.zone _ (by decide), hz]) hcond
    ((hsame.inService (by decide)).trans hs) (by rw [hisl, htrip]; exact List.ne_nil_of_mem hb)
    (fun q w hw => by rw [hsame.order _ (by decide), hno] at hw; cases hw) (by rw [hsame.order _ (by decide), hno])
    (fun q hq => absurd hq (by simp))
    (fun x hx => by rw [hisl, htrip] at hx; rw [hsame.trip _ (by decide)]; exact hidle x hx)
    (fun q w x hw => by rw [hsame.order _ (by decide), hno] at hw; cases hw)
  rw [hisl, htrip] at hcreated
  have hother : ∀ y, y ≠ z → ((u.evaluate z).zone y).prot ≠ .lit := fun y hy => by
    rw [honly y hy, hsame.zone _ (by decide)]; exact hone y hy
  have hev : u.currentAsserted b = u.evaluate z :=
    evaluateWhere_one _ z (by rw [hisl, htrip]; simpa using hb)
      (fun y hy => by rw [hsame.zone _ (by decide)]; exact hone y hy) hother
  have hnote := noteArc_same u
  have hdriving : ((u.evaluate z).trip b).phase = .driving := by
    obtain ⟨-, -, hdemanded, -⟩ := hcreated
    rw [(hdemanded b hb).1]; rfl
  rw [hev, tripReport_currentOn hdriving]
  · refine ⟨by rw [hzone, hsame.zone _ (by decide)], fun y hy => by rw [honly y hy, hsame.zone _ (by decide)],
      created_congr hcreated hsame, hrest⟩
  · rw [hrest.breakerRec _ (by decide) (by decide), hnote.breakerRec _ (by decide) (by decide),
      hsame.breakerRec _ (by decide) (by decide), hcc]
  · rw [hrest.input _ (by decide), hnote.input _ (by decide), hcur]

/-- The same under an active batch: it is suspended by light (R131). -/
theorem filteredCurrentChange_suspends {s : State} {b : BreakerId} {z : ZoneId} (hs : s.inService = true)
    (ht : (s.input b).filterTimer.isSome = true) (hl : (s.input b).curLine = true) (hc : (s.input b).current = false)
    (hz : (s.zone z).prot = .lit) (hone : ∀ y, y ≠ z → (s.zone y).prot ≠ .lit) (hno : ∀ o, s.order o = none)
    (hb : b ∈ s.tripSet (s.island z)) (hcc : (s.breakerRec b).ccUsed = true)
    (hidle : ∀ x, x ∈ s.tripSet (s.island z) → (s.trip x).phase = .idle)
    (hact : s.batch.state = .gathering ∨ s.batch.state = .running) :
    ∃ t, exec (.filteredCurrentChange b) s = .next t
      ∧ t.batch = suspendedByLight s.batch
      ∧ t.zone z = { s.zone z with prot := .arc, alarmTimer := none, orderSlot := some 0 } ∧ OnlyZone s t z
      ∧ (∀ d, s.batch.current = some d → Released s.inForce.fast (s.chan d) (t.chan d))
      ∧ (∀ d, s.batch.current ≠ some d → t.chan d = s.chan d)
      ∧ Created s t z 0 (s.tripSet (s.island z))
      ∧ SameBut [.channels, .inputs, .zones, .orders, .trips, .lockout, .batch] s t := by
  obtain ⟨hzone, honly, hcreated, hrest⟩ := currentAsserted_creates hs hz hone hno hb hcc hidle
  have hexec := exec_currentAsserts hs ht hl hc
  generalize ((s.currentOn b).currentAsserted b).tripReport b = t at *
  have hnote : (s.currentOn b).noteArc = (s.currentOn b).suspend .light := noteArc_active hact
  rw [hnote] at hrest
  have hsusp := suspend_same (s.currentOn b) .light
  have hbatch : t.batch = (s.suspend .light).batch := by rw [hrest.batch (by decide), suspend_batch, suspend_batch]; rfl
  have hbright : t.anyBright = true := anyBright_of_zone (z := z) (.inr (by rw [hzone]))
  have hchan : ∀ d, t.chan d = (s.suspend .light).chan d := fun d => by
    rw [hrest.chan _ (by decide), suspend_chan, suspend_chan]; rfl
  rw [settleQuiet_suspend hbatch hbright] at hexec
  refine ⟨_, hexec, rfl, hzone, honly, fun d hd => ?_, fun d hd => ?_, hcreated, ?_⟩
  · rw [State.setBatch_chan, hchan]; exact suspend_released hd
  · rw [State.setBatch_chan, hchan, suspend_chan_other hd]
  · exact SameBut.trans ((currentOn_same s b).mono (by simp)) (SameBut.trans (hsusp.mono (by simp))
      (sameBut_setBatch (hrest.mono (by simp)) _ (by decide)))

section
variable {s : State} {c : ChanId} {v : Nat} {z : ZoneId} (h : Confirms s c v z) (hp : (s.zone z).prot = .dark)
  (hc : s.currentCondition z = false)
include h hp hc

/-- A confirmation at a DARK zone whose condition is not met: the zone is LIT, and the test engine is told (R50, R131). -/
theorem exec_lights : exec (.sampleArrival c v .ok) s = .next ((lighted s c v z).noteLit z).settleQuiet := by
  rw [exec_confirms h, okArrival_lights h hp hc]; rfl

theorem sampleArrival_lights_running (hr : s.batch.state = .running) (hn : ¬ LitSuspends s z) :
    exec (.sampleArrival c v .ok) s = .next (lighted s c v z) := by
  rw [exec_lights h hp hc, noteLit_keeps (s := lighted s c v z) hn,
    settleQuiet_of_running (s := lighted s c v z) hr]

theorem sampleArrival_lights_suspended (hsusp : s.batch.state = .suspended) :
    exec (.sampleArrival c v .ok) s = .next ((lighted s c v z).setBatch { s.batch with quietTimer := none }) := by
  have hbatch : (lighted s c v z).batch = s.batch := (lighted_same s c v z).batch (by decide)
  have hbright : (lighted s c v z).anyBright = true := anyBright_of_zone (z := z) (.inl (by rw [lighted_zone]; rfl))
  have hn : ¬ LitSuspends (lighted s c v z) z := by simp [LitSuspends, hbatch, hsusp]
  obtain ⟨-, hq, -⟩ := id h
  rw [exec_lights h hp hc, noteLit_keeps hn]
  by_cases hl : s.batch.cause = some .light
  · rw [settleQuiet_bright (by rw [hbatch, hsusp]) (by rw [hbatch, hl]) hbright, hbatch]
  · have hnone : s.batch.quietTimer = none := quietTimer_none hq (by simp [hl])
    rw [settleQuiet_of_not _ (by simp [hbatch, hl]), setBatch_self]
    rw [hbatch, ← hnone]

theorem sampleArrival_lights_suspends (hl : LitSuspends s z) (hcur : s.batch.current ≠ some c) :
    ∃ t, exec (.sampleArrival c v .ok) s = .next t
      ∧ t.batch = suspendedByLight s.batch
      ∧ t.zone z = litBy c s.stamp s.now (s.zone z) ∧ OnlyZone s t z
      ∧ t.chan c = confirmedBy s.stamp v (s.chan c)
      ∧ (∀ d, s.batch.current = some d → Released s.inForce.fast (s.chan d) (t.chan d))
      ∧ (∀ d, d ≠ c → s.batch.current ≠ some d → t.chan d = s.chan d)
      ∧ SameBut [.channels, .zones, .batch] s t := by
  have hexec := exec_lights h hp hc
  have hsame := lighted_same s c v z
  have hzone := lighted_zone s c v z
  have hozone := lighted_onlyZone s c v z
  have hchan := lighted_chan s c v z
  have hochan := lighted_onlyChan s c v z
  rw [noteLit_suspends (s := lighted s c v z) hl] at hexec
  generalize lighted s c v z = u at *
  have hsusp := suspend_same u .light
  have hbright : (u.suspend .light).anyBright = true :=
    anyBright_of_zone (z := z) (.inl (by rw [hsusp.zone _ (by decide), hzone]; rfl))
  rw [settleQuiet_suspend rfl hbright, hsame.batch (by decide)] at hexec
  refine ⟨_, hexec, rfl, (hsusp.zone z (by decide)).trans hzone,
    fun y hy => (hsusp.zone y (by decide)).trans (hozone y hy), ?_, fun d hd => ?_,
    fun d hd hn => ?_, ?_⟩
  · rw [State.setBatch_chan, suspend_chan_other (by rw [hsame.batch (by decide)]; exact hcur), hchan]
  · have hne : d ≠ c := fun e => hcur (e ▸ hd)
    have hrel := suspend_released (s := u) (k := .light) (c := d) (by rw [hsame.batch (by decide)]; exact hd)
    rwa [hsame.inForce (by decide) (by decide), hochan d hne] at hrel
  · rw [State.setBatch_chan, suspend_chan_other (by rw [hsame.batch (by decide)]; exact hn), hochan d hd]
  · exact SameBut.trans (hsame.mono (by simp)) (sameBut_setBatch (hsusp.mono (by simp)) _ (by decide))

end

/-- Settles O29. -/
theorem batchStartsAndResumes : Obligations.BatchStartsAndResumes := by
  intro s hs
  refine ⟨anyBright_iff s, exec_windowExpiry_bright hs, fun hout => ?_, fun c hg hout hb hn => ?_, fun hg hout hb => ?_,
    fun c hsusp ht hn => ?_, fun hsusp ht => ?_, fun b z ht hl hc hz _ => filteredCurrentChange_suspends hs ht hl hc hz,
    fun c v z h hp hc => ⟨sampleArrival_lights_running h hp hc, sampleArrival_lights_suspended h hp hc,
      sampleArrival_lights_suspends h hp hc⟩⟩
  · simp [exec_gatheringWindowExpiry_eq, execGatheringWindowExpiry, hout]
  · refine ⟨_, (exec_windowExpiry_dark hs hg hout hb).trans (congrArg Host.Outcome.next (takeUp_running hn rfl rfl)),
      rfl,
      teLine_takenUp hs ..⟩
  · exact ⟨_, exec_windowExpiry_dark hs hg hout hb, takeUp_spec _⟩
  · refine ⟨_, (exec_quietTimerExpiry hs hsusp ht).trans (congrArg Host.Outcome.next (takeUp_running hn rfl rfl)), rfl,
      teLine_takenUp hs ..⟩
  · exact ⟨_, exec_quietTimerExpiry hs hsusp ht, takeUp_spec _⟩

end Sys2Proof.Machine
end

section
/-! PROOF. Write Item of a channel record (section 10.2). -/

namespace Sys2Proof.Machine

open Sys2Proof Sys2Proof.Safety

theorem row_writeChannel {r : Request} (h : r.kind = 0x02#8) (h0 : r.byte 0 = 1) : r.row = .writeChannel := by
  simp [Request.row, h, h0, writeRow]

theorem clamped_eq (x : ChannelRecord) : x.clamped = { x with
    ta := max 64 (min 4000 x.ta), g := max 8 (min 64 x.g), m := min 1023 x.m, k := max 4 (min 12 x.k)
    n := max 1 (min 8 x.n), ref := min 4095 x.ref } := by
  simp [ChannelRecord.clamped, clampTo]

/-! ### The checks (R176, R177) -/

section
variable (p : PortId) {r : Request} {s : State}

theorem writeChannelBody_outOfRange (h : 24 ≤ r.byte 1) : writeChannelBody p r s = (s, .refuse .item) := by
  simp [writeChannelBody, Nat.not_lt.mpr h]

theorem writeChannelBody_badField (h : r.byte 1 < 24) (hr : r.channelRecord = none) :
    writeChannelBody p r s = (s, .refuse .value) := by
  simp [writeChannelBody, h, hr]

variable {c : ChanId} {x : ChannelRecord} (hc : r.byte 1 = c.val) (hr : r.channelRecord = some x)
include hc hr

theorem writeChannelBody_checks :
    writeChannelBody p r s =
      if channelStructureOk x = false then (s, .refuse .value)
      else if s.holdsMet ((look s.sets.working.channels c).zones ++ x.zones) then
        (s.writeChannel c x.clamped, {
          code := if x.clamped = x then .done else .doneClamped
          data := encodeChannel (look (s.writeChannel c x.clamped).sets.working.channels c) })
      else (s, .refuse .notHeld) := by
  have hlt : r.byte 1 < 24 := by omega
  have hid : (⟨r.byte 1, hlt⟩ : ChanId) = c := Fin.ext hc
  simp only [writeChannelBody, hlt, dif_pos, hid, hr, Bool.not_eq_true', writeAnswer, beq_iff_eq]

end

/-! ### The record replaced (R178) -/

theorem defaultChannels_inUse : ∀ c, (look backstopDefaults.channels c).inUse = true := by decide

/-- The settings unit after an accepted write of channel `c`'s record. -/
def State.channelWritten (s : State) (c : ChanId) (r : ChannelRecord) : SettingsUnit :=
  { s.sets with
    working := { s.sets.working with channels := put s.sets.working.channels c r }
    dirty := true
    writtenSince := s.sets.writtenSince || decide (s.sets.store = .writing) }

theorem channelWritten_working (s : State) (c : ChanId) (r : ChannelRecord) :
    (s.channelWritten c r).working = { s.sets.working with channels := put s.sets.working.channels c r } := rfl

section
variable (s : State) (c : ChanId) (r : ChannelRecord)

theorem putChannelRecord_same : SameBut [.sets] s (s.putChannelRecord c r) :=
  sameBut_setSets (SameBut.refl _ _) _ (by decide)

theorem putChannelRecord_touched : (s.putChannelRecord c r).sets.touched = s.channelWritten c r := rfl

theorem putChannelRecord_fast : (s.putChannelRecord c r).inForce.fast = s.inForce.fast := by
  have hmode : (s.putChannelRecord c r).mode = s.mode := rfl
  rw [State.inForce, State.inForce, hmode]
  split <;> rfl

/-- In-use after the write: of the written record, and in BACKSTOP of the defaults in force. -/
theorem putChannelRecord_inUse :
    ((s.putChannelRecord c r).chanRec c).inUse = true ↔ r.inUse = true ∨ s.mode = .backstop := by
  have hmode : (s.putChannelRecord c r).mode = s.mode := rfl
  rw [State.chanRec, State.inForce, hmode]
  split
  · rename_i h
    simp only [h, or_true, iff_true]
    exact defaultChannels_inUse c
  · rename_i h
    simp [State.putChannelRecord, h]

end

/-! ### The channel restarted (R3) -/

/-- `y` is the channel `x` restarted by a write: in a fresh WARMUP where it is in use, else OFF. -/
def Restarted (inUse fast : Bool) (x y : Channel) : Prop :=
  y.cause = none ∧ (inUse = true → FreshWarmup fast x y)
    ∧ (inUse = false → y.phase = .off ∧ y.early = false ∧ y.count = 0 ∧ y.nonOkRun = 0 ∧ y.okRun = 0 ∧ y.bfp = 0
        ∧ y.glare = false ∧ y.pickupTime = none ∧ y.peak = 0 ∧ y.lastTest = x.lastTest)

theorem restart_restarted (inUse fast : Bool) (x : Channel) : Restarted inUse fast x (x.restart inUse fast) := by
  unfold Channel.restart
  cases inUse with
  | false => exact ⟨rfl, by simp, by simp⟩
  | true => exact ⟨rfl, by simp [FreshWarmup, Channel.freshWarmup, warmupLength], by simp⟩

theorem restart_isConfirmed (inUse fast : Bool) (x : Channel) : (x.restart inUse fast).isConfirmed = false := by
  unfold Channel.restart
  cases inUse <;> rfl

/-- A channel that is no longer CONFIRMED leaves the sets of the HELD zones it watched (R22, R51). -/
theorem putChannel_held {u : State} {c : ChanId} {zones : List ZoneId} {y : Channel} (hy : y.isConfirmed = false)
    (h : (u.chan c).phase = .confirmed → ∀ z, z ∈ zones → (u.zone z).prot = .held) :
    let t := u.putChannel c zones y
    t.chan c = y ∧ OnlyChan u t c
      ∧ (∀ z, t.zone z = if (u.chan c).phase = .confirmed ∧ z ∈ zones then
          { u.zone z with confirmed := (u.zone z).confirmed.drop c } else u.zone z)
      ∧ SameBut [.channels, .zones] u t := by
  by_cases hp : (u.chan c).phase = .confirmed
  · have hput : u.putChannel c zones y = zones.foldl (fun s z => s.dropReport c z) (u.setChan c y) := by
      simp [State.putChannel, Channel.isConfirmed, hp, show (y.phase == .confirmed) = false from hy]
    obtain ⟨hzone, hsame⟩ := dropReports_rest c zones (u.setChan c y) fun z hz => .inl (h hp z hz)
    intro t
    simp only [t, hput, hp, true_and]
    refine ⟨(hsame.chan c (by decide)).trans (by simp),
      fun d hd => (hsame.chan d (by decide)).trans (by simp [Ne.symm hd]), hzone, ?_⟩
    exact SameBut.trans (sameBut_setChan (SameBut.refl _ _) _ _ (by decide)) (hsame.mono (by simp))
  · have hput : u.putChannel c zones y = u.setChan c y := putChannel_setChan (by
      rw [hy]; simpa [Channel.isConfirmed] using hp)
    intro t
    simp only [t, hput, hp, false_and, if_false]
    exact ⟨by simp, fun d hd => by simp [Ne.symm hd], fun z => by simp,
      sameBut_setChan (SameBut.refl _ _) _ _ (by decide)⟩

/-! ### The write accepted -/

section
variable {s : State} {c : ChanId} {r : ChannelRecord} (hq : QuietOk s)

/-- The channel after the write's restart. -/
def State.restartedChan (s : State) (c : ChanId) (r : ChannelRecord) : Channel :=
  (s.chan c).restart ((s.putChannelRecord c r).chanRec c).inUse (s.putChannelRecord c r).inForce.fast

theorem restartedChan_isConfirmed (s : State) (c : ChanId) (r : ChannelRecord) :
    (s.restartedChan c r).isConfirmed = false := restart_isConfirmed ..

theorem restartedChan_restarted :
    Restarted ((s.putChannelRecord c r).chanRec c).inUse s.inForce.fast (s.chan c) (s.restartedChan c r) := by
  rw [← putChannelRecord_fast s c r]
  exact restart_restarted ..

include hq

/-- An accepted write at a channel that is not under test (R3, R178). -/
theorem writeChannel_idle (ht : (s.chan c).phase ≠ .testing)
    (hheld : (s.chan c).phase = .confirmed → ∀ z, z ∈ (s.chanRec c).zones → (s.zone z).prot = .held) :
    let t := s.writeChannel c r
    t.sets = s.channelWritten c r ∧ t.chan c = s.restartedChan c r ∧ OnlyChan s t c
      ∧ (∀ z, t.zone z = if (s.chan c).phase = .confirmed ∧ (s.chanRec c).watches z = true then
          { s.zone z with confirmed := (s.zone z).confirmed.drop c } else s.zone z)
      ∧ SameBut [.channels, .zones, .sets] s t := by
  have hrest : (s.putChannelRecord c r).restartChannel c (s.chanRec c).zones =
      (s.putChannelRecord c r).putChannel c (s.chanRec c).zones (s.restartedChan c r) := if_neg ht
  obtain ⟨hch, honly, hzone, hsame⟩ := putChannel_held (u := s.putChannelRecord c r) (c := c)
    (zones := (s.chanRec c).zones) (y := s.restartedChan c r) (restart_isConfirmed ..) hheld
  have hfirst := putChannelRecord_same s c r
  have htouched := putChannelRecord_touched s c r
  rw [← hsame.sets (by decide)] at htouched
  have hzone' : ∀ z, _ := fun z => (hzone z).trans (by rw [hfirst.zone _ (by decide), hfirst.chan _ (by decide)])
  simp only [mem_zones] at hzone'
  intro t
  have ht : t = (((s.putChannelRecord c r).putChannel c (s.chanRec c).zones (s.restartedChan c r)).setSets
      (s.channelWritten c r)).settleQuiet := by rw [← htouched, ← hrest]; rfl
  generalize (s.putChannelRecord c r).putChannel c (s.chanRec c).zones (s.restartedChan c r) = w at *
  have hprot : ∀ z, (w.zone z).prot = (s.zone z).prot := fun z => by
    rw [hzone']; split <;> rfl
  have hquiet : (w.setSets (s.channelWritten c r)).settleQuiet = w.setSets (s.channelWritten c r) :=
    settleQuiet_of_quietOk _ (hq.of_eq ((hsame.batch (by decide)).trans (hfirst.batch (by decide)))
      (by simp only [State.anyBright, Zone.isBright, State.setSets_zone, hprot]))
  rw [ht, hquiet]
  refine ⟨rfl, hch, fun d hd => (honly d hd).trans (hfirst.chan d (by decide)), hzone', ?_⟩
  exact SameBut.trans (hfirst.mono (by simp)) (sameBut_setSets (hsame.mono (by simp)) _ (by decide))

end

/-- Taking up a channel leaves the ports alone. -/
theorem takeUp_ports (s : State) : s.takeUp.ports = s.ports := by
  obtain ⟨-, hnone, hfirst⟩ := takeUp_spec s
  rcases takeUp_or s with h | ⟨c, hp, hn, hl⟩
  · obtain ⟨-, hsame⟩ := hnone h
    exact hsame.ports (by decide)
  · obtain ⟨-, -, -, -, hsame⟩ := hfirst c hp hn hl
    exact hsame.ports (by decide)

/-- The channel under test is restarted, and its test ends WITHDRAWN (R130). -/
theorem writeChannel_underTest {s : State} {c : ChanId} {r : ChannelRecord} (ht : (s.chan c).phase = .testing)
    (hc : s.batch.current = some c) (hrun : s.batch.state = .running) :
    ∃ u v, s.writeChannel c r = v ∧ TakenUp u v ∧ u.sets = s.channelWritten c r ∧ v.sets = s.channelWritten c r
      ∧ u.chan c = s.restartedChan c r ∧ OnlyChan s u c ∧ TestEnded s u c .withdrawn
      ∧ SameBut [.channels, .batch, .sets] s u ∧ v.ports = s.ports := by
  have hfirst := putChannelRecord_same s c r
  have htouched := putChannelRecord_touched s c r
  have hput : (s.putChannelRecord c r).putChannel c (s.chanRec c).zones (s.restartedChan c r) =
      (s.putChannelRecord c r).setChan c (s.restartedChan c r) :=
    putChannel_setChan (by
      rw [restartedChan_isConfirmed, hfirst.chan _ (by decide)]; simp [Channel.isConfirmed, ht])
  have hrest : (s.putChannelRecord c r).restartChannel c (s.chanRec c).zones =
      (((s.putChannelRecord c r).setChan c (s.restartedChan c r)).testEnded c .withdrawn).takeUp := by
    rw [← channelTaken_eq (by rw [State.setChan_batch, hfirst.batch (by decide)]; exact hc), ← hput]
    exact if_pos ht
  have hsame := sameBut_setChan (hfirst.mono (qs := [.sets, .channels]) (by simp)) c (s.restartedChan c r) (by decide)
  have hw : ((s.putChannelRecord c r).setChan c (s.restartedChan c r)).sets = (s.putChannelRecord c r).sets := rfl
  have hch : ((s.putChannelRecord c r).setChan c (s.restartedChan c r)).chan c = s.restartedChan c r := by simp
  have honly : OnlyChan s ((s.putChannelRecord c r).setChan c (s.restartedChan c r)) c := fun d hd => by
    simp [Ne.symm hd, hfirst.chan _ (by decide)]
  have hv : s.writeChannel c r = (((s.putChannelRecord c r).restartChannel c (s.chanRec c).zones).setSets
    (((s.putChannelRecord c r).restartChannel c (s.chanRec c).zones).sets.touched)).settleQuiet := rfl
  rw [hrest] at hv
  generalize (s.putChannelRecord c r).setChan c (s.restartedChan c r) = w at *
  have hend := testEnded_same w c .withdrawn
  have hbatch : stepCleared w.batch = stepCleared s.batch := by rw [hsame.batch (by decide)]
  have hsets : (w.testEnded c .withdrawn).sets = (s.putChannelRecord c r).sets := (hend.sets (by decide)).trans hw
  have hstate : (w.testEnded c .withdrawn).batch.state = .running := by
    obtain ⟨-, -, hb⟩ := testEnded_batch hbatch c .withdrawn
    rw [hb]; exact hrun
  have hsettle : ((w.testEnded c .withdrawn).takeUp.setSets (s.channelWritten c r)).settleQuiet = _ :=
    settleQuiet_of_not _ fun k => takeUp_state hstate k.1
  rw [takeUp_sets, hsets, htouched, hsettle] at hv
  refine ⟨(w.testEnded c .withdrawn).setSets (s.channelWritten c r), _, hv, takenUp_setSets (takeUp_spec _) ?_, rfl,
    rfl, hch, fun d hd => honly d hd, testEnded_batch hbatch c .withdrawn, ?_, ?_⟩
  · rw [hsets]; rfl
  · exact sameBut_setSets (SameBut.trans (hsame.mono (by simp)) (hend.mono (by simp))) _ (by decide)
  · exact (takeUp_ports _).trans ((hend.ports (by decide)).trans (hsame.ports (by decide)))

/-- What the restart means by the record written and the mode (R3, R178). -/
theorem restartedChan_effect {s t : State} {c : ChanId} {r : ChannelRecord} (h : t.chan c = s.restartedChan c r) :
    (t.chan c).cause = none
      ∧ (r.inUse = true ∨ s.mode = .backstop → FreshWarmup s.inForce.fast (s.chan c) (t.chan c))
      ∧ (r.inUse = false → s.mode = .protecting →
          (t.chan c).phase = .off ∧ (t.chan c).early = false ∧ (t.chan c).count = 0 ∧ (t.chan c).nonOkRun = 0
            ∧ (t.chan c).okRun = 0 ∧ (t.chan c).bfp = 0 ∧ (t.chan c).glare = false ∧ (t.chan c).pickupTime = none
            ∧ (t.chan c).peak = 0 ∧ (t.chan c).lastTest = (s.chan c).lastTest) := by
  have hiff := putChannelRecord_inUse s c r
  obtain ⟨hcause, hwarm, hoff⟩ := restartedChan_restarted (s := s) (c := c) (r := r)
  rw [h]
  refine ⟨hcause, fun hu => hwarm (hiff.mpr hu), fun hu hm => hoff (Bool.eq_false_iff.mpr fun hin => ?_)⟩
  rcases hiff.mp hin with k | k
  · rw [hu] at k; cases k
  · rw [hm] at k; cases k

/-- Settles O45. -/
theorem writeChannelRestartsChannel : Obligations.WriteChannelRestartsChannel := by
  intro s p r hs hq hk h0 refused badField
  have hrow := row_writeChannel hk h0
  have hnone : r.channelRecord = none ↔ badField := channelRecord_none r
  refine ⟨fun h => complete_effect hs hrow (writeChannelBody_outOfRange p h) rfl,
    fun h hb => complete_effect hs hrow (writeChannelBody_badField p h (hnone.mpr hb)) rfl,
    fun hb => Option.ne_none_iff_exists'.mp (mt hnone.mp hb), fun c x hc hx => ?_⟩
  intro old stored
  have hbody := writeChannelBody_checks p (s := s) hc hx
  have hmode : s.mode = .protecting ∨ s.mode = .backstop := by
    obtain ⟨hin, -⟩ := hs; simpa [State.inService] using hin
  refine ⟨mem_channelZones x, fun heq => ?_, fun hne hp hno => ?_, fun hne hheld hback => ?_⟩
  · rw [if_pos (by simpa [channelStructureOk] using heq)] at hbody
    exact complete_effect hs hrow hbody rfl
  · have hmet : ¬ s.holdsMet (old.zones ++ x.zones) = true := fun h => by
      obtain ⟨z, hz, hn⟩ := hno
      exact hn ((holdsMet_iff hs.1 _).mp h hp z hz)
    rw [if_neg (by simpa [channelStructureOk] using hne), if_neg hmet] at hbody
    exact complete_effect hs hrow hbody rfl
  · rw [if_neg (by simpa [channelStructureOk] using hne), if_pos ((holdsMet_iff hs.1 _).mpr hheld),
      clamped_eq] at hbody
    change _ = (s.writeChannel c stored, _) at hbody
    intro answer written restarted
    have hzones : (s.chan c).phase = .confirmed → ∀ z, z ∈ (s.chanRec c).zones → (s.zone z).prot = .held := by
      intro hconf z hz
      rcases hmode with hm | hm
      · have hrec : s.chanRec c = old := by simp [State.chanRec, State.inForce, hm, old]
        exact hheld hm z (List.mem_append_left _ (hrec ▸ hz))
      · exact absurd hconf (hback hm)
    have hlook : ∀ t : State, t.sets = s.channelWritten c stored → look t.sets.working.channels c = stored := by
      intro t ht; rw [ht]; rw [channelWritten_working, look_put, if_pos rfl]
    refine ⟨fun ht => ?_, fun ht hcur hrun => ?_⟩
    · obtain ⟨hsets, hch, honly, hzone, hsame⟩ := writeChannel_idle (r := stored) hq ht hzones
      rw [hlook _ hsets] at hbody
      obtain ⟨t, hexec, hans, hrest⟩ := complete_effect hs hrow hbody (hsame.ports (by decide))
      refine ⟨t, hexec, hans, (hrest.sets (by decide)).trans hsets,
        ⟨fun d hd => (hrest.chan d (by decide)).trans (honly d hd), ?_⟩,
        fun z => (hrest.zone z (by decide)).trans (hzone z),
        SameBut.trans (hsame.mono (by simp)) (hrest.mono (by simp))⟩
      exact restartedChan_effect (r := stored) ((hrest.chan c (by decide)).trans hch)
    · obtain ⟨u, v, hv, htaken, husets, hvsets, hch, honly, ⟨hres, hother, hbatch⟩, hsame, hports⟩ :=
        writeChannel_underTest (r := stored) ht hcur hrun
      rw [hv, hlook v hvsets] at hbody
      obtain ⟨t, hexec, hans, hrest⟩ := complete_effect hs hrow hbody hports
      exact ⟨u, v, t, hexec, husets, ⟨honly, restartedChan_effect (r := stored) hch⟩, hres, hother, hbatch, hsame,
        htaken, hans.of_ports hports.symm, hrest⟩

end Sys2Proof.Machine
end

section
/-! PROOF. The end of RESET and of LOADING (section 10.4). -/

namespace Sys2Proof.Machine

open Sys2Proof Sys2Proof.Safety

/-! ### The settings load and the lockout load (R101, R182, R183) -/

section
variable (s : State)

theorem loadSettings_same : SameBut [.mode, .sets] s s.loadSettings := by
  unfold State.loadSettings
  split <;> simp [SameBut]

theorem loadSettings_valid (h : s.sets.image.valid = true) :
    s.loadSettings.mode = .protecting ∧ s.loadSettings.sets.working = s.sets.image.settings
      ∧ s.loadSettings.sets.generation = s.sets.image.generation ∧ s.loadSettings.sets.dirty = false := by
  simp [State.loadSettings, h, SettingsUnit.loaded, SettingsUnit.atReset]

theorem loadSettings_invalid (h : s.sets.image.valid = false) :
    s.loadSettings.mode = .backstop ∧ s.loadSettings.sets.working = backstopDefaults
      ∧ s.loadSettings.sets.generation = 0 ∧ s.loadSettings.sets.dirty = true := by
  simp [State.loadSettings, h, SettingsUnit.defaulted, SettingsUnit.atReset]

/-- The settings store after either load. -/
theorem loadSettings_store :
    s.loadSettings.sets.store = .idle ∧ s.loadSettings.sets.snapshot = none ∧ s.loadSettings.sets.timer = none
      ∧ s.loadSettings.sets.failed = false ∧ s.loadSettings.sets.writtenSince = false
      ∧ s.loadSettings.sets.image = s.sets.image := by
  unfold State.loadSettings
  split <;> simp [SettingsUnit.loaded, SettingsUnit.defaulted, SettingsUnit.atReset]

theorem loadLockouts_same : SameBut [.lockout] s s.loadLockouts := by
  unfold State.loadLockouts State.startUpdate
  split <;> simp [SameBut]

theorem loadLockouts_valid (h : s.lockout.word.valid = true) :
    s.loadLockouts.lockout.marks = s.lockout.word.marks ∧ s.loadLockouts.lockout.store = .idle
      ∧ s.loadLockouts.lockout.snapshot = none ∧ s.loadLockouts.lockout.word = s.lockout.word := by
  simp [State.loadLockouts, h, Lockout.atReset]

theorem loadLockouts_invalid (h : s.lockout.word.valid = false) :
    (∀ b, s.loadLockouts.locked b = true) ∧ s.loadLockouts.lockout.store = .updating
      ∧ s.loadLockouts.lockout.snapshot = some s.loadLockouts.lockout.marks
      ∧ s.loadLockouts.lockout.timer = some (s.now + 60000) ∧ s.loadLockouts.lockout.word.valid = false := by
  have hload : s.loadLockouts = (s.setLockout (Lockout.atReset s.lockout.word)).startUpdate := if_neg (by simp [h])
  rw [hload]
  refine ⟨fun b => ?_, rfl, rfl, rfl, rfl⟩
  simp only [State.locked, State.startUpdate, State.setLockout, Lockout.atReset]
  revert b; decide

theorem loadLockouts_fault : s.loadLockouts.lockout.fault = false ∧ s.loadLockouts.lockout.abandonedAt = none := by
  unfold State.loadLockouts State.startUpdate
  split <;> simp [Lockout.atReset]

/-! ### The start values (Tables 1-2 and 10-5) -/

theorem startBlocks_same :
    SameBut [.channels, .inputs, .zones, .orders, .trips, .ut, .batch, .sup, .limits] s s.startBlocks := by
  simp [SameBut, State.startBlocks]

theorem startBlocks_zone (z : ZoneId) : s.startBlocks.zone z = Zone.atReset := look_replicate _ _

theorem startBlocks_order (o : SlotId) : s.startBlocks.order o = none := look_replicate _ _

theorem startBlocks_trip (b : BreakerId) : s.startBlocks.trip b = Trip.atReset := look_replicate _ _

theorem startBlocks_utLine (u : UtId) : s.startBlocks.utLine u = UtLine.atReset := look_replicate _ _

theorem startBlocks_execLimit : s.startBlocks.execLimit = s.execLimit := by unfold State.startBlocks; rfl

theorem startBlocks_locked (b : BreakerId) : s.startBlocks.locked b = s.locked b := by
  simp [State.locked]

end

theorem valid_iff (w : LockoutWord) : w.valid = true ↔ w.marker = true ∧ w.complement = ~~~ w.marks := by
  simp [LockoutWord.valid]

/-! ### The BACKSTOP defaults (Table 10-6, Table 9-2a) -/

theorem backstopDefaults_channel (c : ChanId) : look backstopDefaults.channels c = defaultChannel := look_replicate _ _

theorem backstopDefaults_zone : ∀ z,
    look backstopDefaults.zones z = { inUse := decide (z = 0), lightOnly := false } := by
  decide

theorem backstopDefaults_link (l : LinkId) : look backstopDefaults.links l = none := look_replicate _ _

theorem backstopDefaults_breaker : ∀ b, look backstopDefaults.breakers b =
    defaultBreaker (if h : b.val < 4 then some ⟨b.val, h⟩ else none) := by
  decide

theorem backstopDefaults_port : ∀ p, look backstopDefaults.ports p =
    if p = 2 then { priority := 3, ceiling := 0 } else { priority := 2, ceiling := 4 } := by
  decide

/-- Settles O51: the three parts of the end of LOADING, each with its frame. -/
theorem loadingEndsInServiceMode : Obligations.LoadingEndsInServiceMode := by
  refine ⟨fun s => ⟨fun hp hm => ?_, fun hm => ?_⟩, valid_iff,
    fun s => ⟨rfl, fun _ => rfl, fun _ => rfl, fun _ => rfl, fun _ => rfl⟩,
    backstopDefaults_channel, backstopDefaults_zone, backstopDefaults_link, backstopDefaults_breaker,
    backstopDefaults_port, rfl⟩
  · simp [exec_resetEnd_eq, execResetEnd, hp, hm, State.after, loadTime, ms]
  · have hexec : exec .loadingEnd s = .next s.loadSettings.loadLockouts.startBlocks := if_pos hm
    have hload := loadSettings_same s
    have hvalid := loadSettings_valid s
    have hinvalid := loadSettings_invalid s
    have hstore := loadSettings_store s
    generalize s.loadSettings = u at *
    have hlock := loadLockouts_same u
    have hmarks := loadLockouts_valid u
    have hall := loadLockouts_invalid u
    have hfault := loadLockouts_fault u
    rw [hload.lockout (by decide)] at hmarks hall
    rw [hload.now] at hall
    generalize u.loadLockouts = w at *
    have hstart := startBlocks_same w
    rw [← hlock.mode (by decide), ← hlock.sets (by decide), ← hstart.mode (by decide),
      ← hstart.sets (by decide)] at hvalid hinvalid
    rw [← hlock.sets (by decide), ← hstart.sets (by decide)] at hstore
    obtain ⟨hidle, hsnapshot, htimer, hfailed, hwritten, himage⟩ := hstore
    obtain ⟨hnofault, habandoned⟩ := hfault
    refine ⟨_, hexec, hvalid, hinvalid, hidle, hsnapshot, htimer, hfailed, hwritten, himage, ?_, fun h => ?_, ?_, ?_,
      fun c => ?_, startBlocks_zone w, startBlocks_order w, startBlocks_trip w, startBlocks_utLine w,
      startBlocks_batch w, startBlocks_sup w, fun b => ?_, startBlocks_loadLimit w, ?_, ?_⟩
    · rwa [startBlocks_lockout]
    · obtain ⟨hlocked, hrest⟩ := hall h
      rw [startBlocks_lockout]
      exact ⟨fun b => (startBlocks_locked w b).trans (hlocked b), hrest⟩
    · rwa [startBlocks_lockout]
    · rwa [startBlocks_lockout]
    · rw [startBlocks_chan, State.chanRec, State.chanRec, startBlocks_inForce]
      rfl
    · rw [startBlocks_input, State.startInputs, State.breakerRec, State.breakerRec, startBlocks_inForce,
        hlock.input _ (by decide),
        hload.input _ (by decide), State.after, State.after, State.after, hlock.now, hload.now]
      rfl
    · rw [startBlocks_execLimit, hlock.execLimit (by decide), hload.execLimit (by decide)]
    · exact SameBut.trans (hload.mono (by simp)) (SameBut.trans (hlock.mono (by simp)) (hstart.mono (by simp)))

end Sys2Proof.Machine
end

section
/-! PROOF. Every well-formed command gives a next state (log 19): a command has no effect, or one of two, or is one of the
two whose operand the model checks. -/

namespace Sys2Proof.Machine

open Sys2Proof

/-! ### The results that are a next state -/

theorem next_of_ite {p : Prop} [Decidable p] (a b : State) :
    ∃ t, (if p then .next a else .next b : Result) = .next t := by
  by_cases h : p
  · exact ⟨a, if_pos h⟩
  · exact ⟨b, if_neg h⟩

/-! ### The commands that first look whether their timer or store runs -/

section
variable (s : State)

theorem execLockoutUpdateCompletion_next : ∃ t, execLockoutUpdateCompletion s = .next t := by
  unfold execLockoutUpdateCompletion
  split
  case h_1 => exact ⟨_, rfl⟩
  case h_2 => exact next_of_ite _ _

theorem execCommitCompletion_next : ∃ t, execCommitCompletion s = .next t := by
  unfold execCommitCompletion
  split <;> exact ⟨_, rfl⟩

theorem execHoldExpiry_next (z : ZoneId) (p : PortId) : ∃ t, execHoldExpiry z p s = .next t := by
  unfold execHoldExpiry
  split
  case h_1 => exact ⟨_, rfl⟩
  case h_2 => exact next_of_ite _ _

theorem execDarkenTimerExpiry_next : ∃ t, execDarkenTimerExpiry s = .next t := by
  unfold execDarkenTimerExpiry
  split
  case h_1 => exact ⟨_, rfl⟩
  case h_2 => exact next_of_ite _ _

theorem execSyncPulse_next : ∃ t, execSyncPulse s = .next t := by
  unfold execSyncPulse
  dsimp only
  repeat' split
  all_goals exact ⟨_, rfl⟩

/-! ### The two commands whose operand can be one that does not exist -/

theorem execSampleArrival_next (c : ChanId) {v : Nat} (line : LineStatus) (hv : v ≤ 4095) :
    ∃ t, execSampleArrival c v line s = .next t := by
  rw [execSampleArrival.eq_def, if_neg (Nat.not_lt.mpr hv)]
  cases line with
  | ok | openLoop | short => exact next_of_ite _ _

theorem execSampleArrival_fault (c : ChanId) {v : Nat} (line : LineStatus) (hv : 4095 < v) :
    execSampleArrival c v line s = .fault .sampleOutOfRange :=
  if_pos hv

theorem execTransactionEnd_next (p : PortId) (bytes : List Byte) {extraBits : Nat} (hx : extraBits < 8) :
    ∃ t, execTransactionEnd p bytes extraBits s = .next t := by
  rw [execTransactionEnd, if_neg (by omega)]
  split <;> exact ⟨_, rfl⟩

theorem execTransactionEnd_fault (p : PortId) (bytes : List Byte) {extraBits : Nat} (hx : 8 ≤ extraBits) :
    execTransactionEnd p bytes extraBits s = .fault .partialByteOutOfRange :=
  if_pos hx

end

/-! ### The commands together -/

theorem exec_next_of_wellFormed (c : Instr) (s : State) (h : c.wellFormed = true) : ∃ t, exec c s = .next t := by
  cases c with
  | sampleArrival c v line => exact execSampleArrival_next s c line (of_decide_eq_true h)
  | transactionEnd p bytes extraBits => exact execTransactionEnd_next s p bytes (of_decide_eq_true h)
  | lockoutUpdateCompletion => exact execLockoutUpdateCompletion_next s
  | commitCompletion => exact execCommitCompletion_next s
  | holdExpiry z p => exact execHoldExpiry_next s z p
  | darkenTimerExpiry => exact execDarkenTimerExpiry_next s
  | syncPulse => exact execSyncPulse_next s
  | holdZone | freeZone | releaseLockout | testChannels | suspendTest | resumeTest | readItem | writeChannelRecord
  | writeZoneRecord | writeLinkSlot | writeBreakerRecord | writePortRecord | writeGlobalRecord | fetchRecord | peekOrder
  | commitSettings | setSeconds | unknownRequest | powerOnReset | lossOfPower => exact ⟨_, rfl⟩
  | lineFault | lineRecovery | contactLineChange | positionChange | positionFaultTimerExpiry | currentLineChange
  | filteredCurrentChange | lightAlarmTimerExpiry | closeTimerExpiry | bfTimerExpiry | minimumPulseTimerExpiry
  | pulseCeilingTimerExpiry | utMinimumTimerExpiry | lockoutUpdateTimerExpiry | commitTimerExpiry | rollover
  | freewheelTimerExpiry | gatheringWindowExpiry | settleTimerExpiry | quietTimerExpiry | transactionStart | resetN
  | resetEnd | loadingEnd | tripSupplyReading => exact next_of_ite _ _

theorem exec_fault_of_not_wellFormed (c : Instr) (s : State) (h : c.wellFormed = false) : ∃ f, exec c s = .fault f := by
  cases c with
  | sampleArrival c v line =>
    exact ⟨_, execSampleArrival_fault s c line (Nat.not_le.mp (of_decide_eq_false h))⟩
  | transactionEnd p bytes extraBits =>
    exact ⟨_, execTransactionEnd_fault s p bytes (Nat.not_lt.mp (of_decide_eq_false h))⟩
  | _ => cases h

/-- Settles O3: by the shape of each command's definition. -/
theorem wellFormedCommandsComplete : Obligations.WellFormedCommandsComplete := fun c s =>
  ⟨exec_next_of_wellFormed c s, exec_fault_of_not_wellFormed c s⟩

end Sys2Proof.Machine
end

section
/-! PROOF. Every step keeps the links of the working settings (R31): only the writes of zone records and link slots, the load
and the resets replace them. -/

namespace Sys2Proof.Machine

open Sys2Proof Sys2Proof.Safety

/-! ### The settings that are replaced -/

theorem linksOk_congr {w v : Settings} (hl : v.links = w.links) (hz : v.zones = w.zones) (h : LinksOk w) : LinksOk v := by
  unfold LinksOk at *; rw [hl, hz]; exact h

/-- A zone record that passes R30's check: a zone that a filled link names stays in use. -/
theorem linksOk_putZone {w : Settings} {z : ZoneId} {x : ZoneRecord} (hx : zoneStructureOk w z x = true) (h : LinksOk w) :
    LinksOk { w with zones := put w.zones z x } := by
  have hused : ∀ i a b y, look w.links i = some (a, b) → y = a ∨ y = b → (look w.zones y).inUse = true →
      (look (put w.zones z x) y).inUse = true := by
    intro i a b y hi hy hu
    rw [look_put]
    split
    · rename_i hzy
      refine ((zoneStructureOk_iff w z x).mp hx).resolve_right (not_not_intro (.inl ⟨i, a, b, hi, ?_⟩))
      rw [hzy]; exact hy.imp Eq.symm Eq.symm
    · exact hu
  intro i a b hi
  obtain ⟨hne, ha, hb, hother⟩ := h i a b hi
  exact ⟨hne, hused i a b a hi (.inl rfl) ha, hused i a b b hi (.inr rfl) hb, hother⟩

/-- A link slot that passes R32's check. -/
theorem linksOk_putLink {w : Settings} {l : LinkId} {x : Option (ZoneId × ZoneId)} (hx : linkStructureOk w l x = true)
    (h : LinksOk w) : LinksOk { w with links := put w.links l x } := by
  have hnew := (linkStructureOk_iff w l x).mp hx
  intro i a b hi
  simp only [look_put] at hi ⊢
  by_cases hli : l = i
  · subst hli
    rw [if_pos rfl] at hi
    obtain ⟨hne, ha, hb, hother⟩ := hnew a b hi
    refine ⟨hne, ha, hb, fun j hj => ?_⟩
    rw [if_neg (Ne.symm hj)]; exact hother j hj
  · rw [if_neg hli] at hi
    obtain ⟨hne, ha, hb, hother⟩ := h i a b hi
    refine ⟨hne, ha, hb, fun j hj => ?_⟩
    split
    · refine ⟨fun hxa => ?_, fun hxb => ?_⟩
      · obtain ⟨-, -, -, hnone⟩ := hnew a b hxa
        exact (hnone i (Ne.symm hli)).1 hi
      · obtain ⟨-, -, -, hnone⟩ := hnew b a hxb
        exact (hnone i (Ne.symm hli)).2 hi
    · exact hother j hj

theorem linksOk_defaults : LinksOk backstopDefaults := fun i a b h => by
  rw [backstopDefaults_link] at h; cases h

/-! ### What a command gives -/

/-- A next state that the result gives meets `P`. -/
def Gives (P : State → Prop) (r : Result) : Prop := ∀ t, r = .next t → P t

section
variable {P : State → Prop} {a b : State}

theorem gives_next : Gives P (.next a) ↔ P a := by simp [Gives]

theorem gives_fault (f : Fault) : Gives P (.fault f) := fun t h => by cases h

theorem gives_ite {p : Prop} [Decidable p] {r q : Result} (hr : Gives P r) (hq : Gives P q) :
    Gives P (if p then r else q) := by
  split
  · exact hr
  · exact hq

end

/-! ### The updates of the blocks -/

/-- The links of the working settings stand as R31 says. -/
def LinksHold (s : State) : Prop := LinksOk s.sets.working

theorem linksHold_iff (s : State) : LinksHold s ↔ LinksOk s.sets.working := Iff.rfl

theorem LinksHold.of_sets {s t : State} (h : LinksHold s) (ht : t.sets = s.sets) : LinksHold t := by
  rw [linksHold_iff, ht]; exact h

theorem LinksHold.of_maps {s t : State} (h : LinksHold s) (hl : t.sets.working.links = s.sets.working.links)
    (hz : t.sets.working.zones = s.sets.working.zones) : LinksHold t := linksOk_congr hl hz h

theorem linksHold_stable : Stable LinksHold where
  setChan _ _ _ h := h
  setZone _ _ _ h := h
  setOrder _ _ _ h := h
  setTrip _ _ _ h := h
  setUt _ _ _ h := h
  setBatch _ _ h := h
  setLockout _ _ h := h
  sealed s b h := h.of_sets (seal_sets s b)

/-! Resets and the load of the settings (R181, R183). -/

theorem linksHold_enterReset (s : State) : LinksHold s.enterReset := linksOk_defaults

theorem linksHold_loadSettings (s : State) : LinksHold s.loadSettings := by
  unfold State.loadSettings
  split
  · rename_i hvalid
    simp only [StoredImage.valid, Bool.and_eq_true] at hvalid
    obtain ⟨-, hbuildable⟩ := hvalid
    obtain ⟨-, hlinks, -⟩ := (buildable_iff _).mp hbuildable
    exact hlinks
  · exact linksOk_defaults

namespace LinksHold

variable {s : State} (h : LinksHold s)
include h

/-! A verdict LEARNED writes a channel record (R128). -/

theorem darkVerdict (c : ChanId) : LinksHold (s.darkVerdict c) := by
  rw [darkVerdict_eq]
  refine linksHold_stable.giveVerdict c _ _ ?_
  rw [referenceWritten_def]
  split
  · exact h.of_maps rfl rfl
  · exact h

theorem testSample (c : ChanId) (v : Nat) : LinksHold (s.testSample c v) := by
  have hset : ∀ b, LinksHold (s.setBatch b) := fun _ => h
  unfold State.testSample
  dsimp only
  split
  · split
    · split
      · exact h
      · split <;> exact hset _
    · split
      · split
        · exact LinksHold.darkVerdict (hset _) c
        · exact hset _
      · exact hset _
    · exact h
  · exact h

theorem okArrival (c : ChanId) (v : Nat) : LinksHold (s.okArrival c v) := by
  unfold State.okArrival; dsimp only; split
  · exact LinksHold.testSample (s := s.setChan c (s.chan c).okRuns) h c v
  · exact linksHold_stable.putChannel c _ _ h

/-! The writes of section 10.2. -/

theorem markWritten : LinksHold s.markWritten := linksHold_stable.settleQuiet (h.of_maps rfl rfl)

theorem inProtecting {f : State → State} (hf : LinksHold (f s)) : LinksHold (s.inProtecting f) := by
  unfold State.inProtecting; split
  · exact hf
  · exact h

theorem writeChannel (c : ChanId) (r : ChannelRecord) : LinksHold (s.writeChannel c r) :=
  markWritten (linksHold_stable.restartChannel c _ (h.of_maps rfl rfl))

theorem writeZone {z : ZoneId} {x : ZoneRecord} (hx : zoneStructureOk s.sets.working z x = true) :
    LinksHold (s.writeZone z x) := by
  have hput : LinksHold (s.putZoneRecord z x) := linksOk_putZone hx h
  refine markWritten (inProtecting hput (linksHold_stable.mapWritten ?_))
  split
  · exact linksHold_stable.zoneEntersUse z hput
  · exact hput

theorem writeLink {l : LinkId} {x : Option (ZoneId × ZoneId)} (hx : linkStructureOk s.sets.working l x = true) :
    LinksHold (s.writeLink l x) := by
  have hput : LinksHold (s.putLink l x) := linksOk_putLink hx h
  exact markWritten (inProtecting hput (linksHold_stable.mapWritten hput))

theorem writeBreaker (b : BreakerId) (x : BreakerRecord) : LinksHold (s.writeBreaker b x) := by
  have hput : LinksHold (s.putBreakerRecord b x) := h.of_maps rfl rfl
  refine markWritten (inProtecting hput (linksHold_stable.mapWritten (hput.of_sets ?_)))
  exact (superviseBreaker_same ..).sets (by decide)

theorem writePort (p : PortId) (x : PortRecord) : LinksHold (s.writePort p x) := markWritten (h.of_maps rfl rfl)

theorem writeFast (f : Bool) : LinksHold (s.writeFast f) := markWritten (h.of_maps rfl rfl)

/-! ### Requests -/

theorem complete {row : RequestRow} {body : PortId → Request → State → State × Answer}
    (hb : ∀ p r, LinksHold (body p r s).1) : LinksHold (s.complete row body) := by
  have hdone : ∀ (u : State) p r a, LinksHold u → LinksHold (u.answer p r a).grantNext := fun u p r a hu =>
    hu.of_sets ((answer_grantNext u p r a).2.sets (by decide))
  unfold State.complete
  split
  · exact h
  · rename_i p r _
    split
    · cases s.inService with
      | false => exact hdone _ _ _ _ h
      | true => exact hdone _ _ _ _ (hb p r)
    · exact h

theorem writeZoneBody (p : PortId) (r : Request) : LinksHold (writeZoneBody p r s).1 := by
  unfold Machine.writeZoneBody
  split
  · dsimp only; split
    · exact h
    · rename_i x _
      split
      · exact h
      · rename_i hok
        split
        · exact writeZone h (by simpa using hok)
        · exact h
  · exact h

theorem writeLinkBody (p : PortId) (r : Request) : LinksHold (writeLinkBody p r s).1 := by
  unfold Machine.writeLinkBody
  split
  · dsimp only; split
    · exact h
    · rename_i x _
      split
      · exact h
      · rename_i hok
        split
        · exact writeLink h (by simpa using hok)
        · exact h
  · exact h

/-- Every request's checks and effect keep the links. -/
theorem command (row : RequestRow) : Gives LinksHold (exec row.command s) := by
  have st := linksHold_stable
  cases row <;> refine gives_next.mpr (complete h fun p r => ?_)
  case readItem =>
    unfold readItemBody
    split
    · exact h
    · dsimp only; split <;> exact h
  case writeChannel =>
    unfold writeChannelBody
    split
    · dsimp only; split
      · exact h
      · split
        · exact h
        · split
          · exact writeChannel h _ _
          · exact h
    · exact h
  case writeZone => exact writeZoneBody h p r
  case writeLink => exact writeLinkBody h p r
  case writeBreaker =>
    unfold writeBreakerBody
    split
    · dsimp only; split
      · exact h
      · split
        · exact h
        · split
          · exact writeBreaker h _ _
          · exact h
    · exact h
  case writePort =>
    unfold writePortBody
    split
    · exact writePort h _ _
    · exact h
  case writeGlobal =>
    unfold writeGlobalBody
    split
    · split
      · exact h
      · exact writeFast h _
    · exact h
  case holdZone =>
    unfold holdBody
    split
    · dsimp only; split
      · exact st.settleQuiet (st.placeHold _ _ _ h)
      · exact h
    · exact h
  case freeZone =>
    unfold freeBody
    split
    · exact st.freeHold _ _ h
    · exact h
  case releaseLockout =>
    have hreleased : ∀ b, LinksHold (s.releaseBreaker b) := fun b =>
      h.of_sets ((releaseBreaker_same s b).sets (by decide))
    unfold releaseBody
    split
    · dsimp only
      split_ifs
      case pos | pos | pos | neg => exact h
      exact hreleased _
    · exact h
  case testChannels =>
    unfold testChannelsBody
    dsimp only
    split
    · exact h
    · split
      · exact h
      · split <;> exact h
      all_goals exact h
  case suspendTest =>
    unfold suspendBody
    split
    · exact h
    · exact st.suspend _ h
    · exact st.suspend _ h
    · exact h
  case resumeTest =>
    unfold resumeBody
    split
    · exact h
    · exact h
    · exact h
    · split
      · dsimp only; split
        · exact h
        · exact st.settleQuiet (st.resume h)
      · exact h
  case fetchRecord =>
    unfold fetchBody
    split
    · exact h
    · split
      · exact h
      · split <;> exact h
  case peekOrder =>
    unfold peekBody
    split
    · exact h
    · split <;> exact h
  case commitSettings => unfold commitBody; split <;> exact h
  case setSeconds => exact h
  case unknown => exact h

/-! ### Every command -/

theorem ite {f : State} {p : Prop} [Decidable p] (hf : LinksHold f) : Gives LinksHold (if p then .next f else .next s) :=
  gives_ite (gives_next.mpr hf) (gives_next.mpr h)

/-- Samples (R5 to R9). -/
theorem sampleArrival (c : ChanId) (v : Nat) (line : LineStatus) : Gives LinksHold (execSampleArrival c v line s) := by
  have hbroken := linksHold_stable.settleQuiet (linksHold_stable.nonOkArrival c h)
  refine gives_ite (gives_fault _) (gives_ite ?_ (gives_next.mpr h))
  cases line with
  | ok => exact gives_next.mpr (linksHold_stable.settleQuiet (okArrival h c v))
  | openLoop | short => exact gives_next.mpr hbroken

/-- The filter timer's end with its reports (R42, R55, R64 to R67). -/
theorem currentSettled (b : BreakerId) : LinksHold (s.currentSettled b) := by
  have hset : ∀ i, LinksHold (s.setInput b i) := fun _ => h
  unfold State.currentSettled; dsimp only
  split
  · exact hset _
  · split
    · exact linksHold_stable.tripReport b (linksHold_stable.currentAsserted b (hset _))
    · exact linksHold_stable.tripReport b (hset _)

/-- The stability timer's end with its reports (R37). -/
theorem positionSettled (b : BreakerId) : LinksHold (s.positionSettled b) := by
  have hset : ∀ i, LinksHold (s.setInput b i) := fun _ => h
  have hreport : ∀ i old new, LinksHold ((s.setInput b i).positionReport b old new) := fun i old new => by
    have htrip := linksHold_stable.tripReport b (hset i)
    unfold State.positionReport; dsimp only
    split
    · exact linksHold_stable.leftOpen b htrip
    · exact htrip
  unfold State.positionSettled; dsimp only
  split
  · exact hset _
  · unfold State.movePosition
    rw [State.setInput_setInput]
    exact hreport _ _ _

/-- The ends of a lockout word update (R99, R100). -/
theorem updateEnded : LinksHold s.updateEnded := by
  unfold State.updateEnded; dsimp only; split <;> exact h

theorem stepTime : LinksHold s.stepTime := by
  refine h.of_sets ?_
  unfold State.stepTime; dsimp only
  rw [seal_sets]; rfl

theorem syncPulse : Gives LinksHold (execSyncPulse s) := by
  have htime : ∀ x, Gives LinksHold (.next (s.setTime x)) := fun _ => gives_next.mpr h
  refine gives_ite ?_ (gives_next.mpr h)
  exact gives_ite (htime _) (gives_ite (htime _) (gives_ite (gives_next.mpr (stepTime h)) (htime _)))

/-- Transactions touch the ports and the end of an execution (R159 to R165). -/
theorem transactionStart (p : PortId) : Gives LinksHold (execTransactionStart p s) := by
  have hport : ∀ {u : State} x, LinksHold u → LinksHold (u.setPort p x) := fun _ h => h
  have hstatus : ∀ u : State, LinksHold u → LinksHold (u.fixStatus p) := fun u hu => by
    unfold State.fixStatus; dsimp only
    split
    · exact hport _ (hport _ hu)
    · exact hport _ hu
  refine gives_ite (gives_next.mpr h) (gives_next.mpr ?_)
  dsimp only
  split
  · exact h
  · unfold State.fixFrame
    split
    · exact h
    all_goals exact hstatus _ h

theorem transactionEnd (p : PortId) (bytes : List Byte) (extraBits : Nat) :
    Gives LinksHold (execTransactionEnd p bytes extraBits s) := by
  have hport : ∀ {u : State} x, LinksHold u → LinksHold (u.setPort p x) := fun _ h => h
  have htake : ∀ (u : State) r, LinksHold u → LinksHold (u.takeRequest p r) := fun u r hu => by
    unfold State.takeRequest; dsimp only
    split
    · exact hu.of_sets ((grantTo_same _ p).sets (by decide))
    · exact hu
  refine gives_ite (gives_fault _) ?_
  split
  · exact gives_next.mpr h
  · refine gives_next.mpr ?_
    have hend := fun f x => hport (if lengthOk bytes extraBits then Port.delivered x f else x) h
    unfold State.endTransaction State.examine
    dsimp only
    split
    · split
      · exact hend _ _
      · split
        · exact htake _ _ (hend _ _)
        all_goals exact hport _ (hend _ _)
    · exact hport _ (hend _ _)

/-- Every command keeps the links. -/
theorem exec (c : Instr) : Gives LinksHold (exec c s) := by
  have st := linksHold_stable
  cases c with
  | sampleArrival c v line => exact sampleArrival h c v line
  | lineFault c => exact ite h (st.settleQuiet (st.nonOkArrival c h))
  | lineRecovery c => exact ite h (st.settleQuiet (okArrival h c 0))
  | contactLineChange b bpc bpo => exact gives_ite (gives_next.mpr h) (gives_next.mpr h)
  | positionChange b => exact ite h (st.settleQuiet (positionSettled h b))
  | positionFaultTimerExpiry b => exact ite h h
  | currentLineChange b level => exact gives_ite (gives_next.mpr h) (gives_next.mpr h)
  | filteredCurrentChange b => exact ite h (st.settleQuiet (currentSettled h b))
  | lightAlarmTimerExpiry z => exact ite h (st.lightAlarm z h)
  | closeTimerExpiry o => exact ite h (st.settleQuiet (st.closeOrder o h))
  | bfTimerExpiry b => exact ite h (st.settleQuiet (st.breakerFailed b h))
  | minimumPulseTimerExpiry b => exact ite h (st.pulseEnded b h)
  | pulseCeilingTimerExpiry b => exact ite h (st.settleQuiet (st.breakerSpent b h))
  | utMinimumTimerExpiry u => exact ite h (st.settleQuiet (st.utMinimumEnded u h))
  | lockoutUpdateCompletion =>
    change Gives _ (execLockoutUpdateCompletion s)
    unfold execLockoutUpdateCompletion
    split
    · exact gives_next.mpr h
    · exact gives_ite (gives_next.mpr h) (gives_next.mpr (updateEnded h))
  | lockoutUpdateTimerExpiry => exact ite h (updateEnded h)
  | holdExpiry z p =>
    change Gives _ (execHoldExpiry z p s)
    unfold execHoldExpiry
    split
    · exact gives_next.mpr h
    · exact ite h (st.settleQuiet (foldl_keeps _ (fun _ z _ hs => st.expireZone _ z hs) _ h))
  | gatheringWindowExpiry => exact ite h (st.settleQuiet (st.windowEnded h))
  | settleTimerExpiry => exact ite h h
  | darkenTimerExpiry =>
    change Gives _ (execDarkenTimerExpiry s)
    unfold execDarkenTimerExpiry
    split
    · exact gives_next.mpr h
    · exact ite h (st.settleQuiet (st.giveVerdict _ _ _ h))
  | quietTimerExpiry => exact ite h (st.settleQuiet (st.resume h))
  | rollover => exact ite h h
  | syncPulse => exact syncPulse h
  | freewheelTimerExpiry => exact ite h h
  | transactionStart p => exact transactionStart h p
  | transactionEnd p bytes extraBits => exact transactionEnd h p bytes extraBits
  | readItem => exact command h .readItem
  | writeChannelRecord => exact command h .writeChannel
  | writeZoneRecord => exact command h .writeZone
  | writeLinkSlot => exact command h .writeLink
  | writeBreakerRecord => exact command h .writeBreaker
  | writePortRecord => exact command h .writePort
  | writeGlobalRecord => exact command h .writeGlobal
  | holdZone => exact command h .holdZone
  | freeZone => exact command h .freeZone
  | releaseLockout => exact command h .releaseLockout
  | testChannels => exact command h .testChannels
  | suspendTest => exact command h .suspendTest
  | resumeTest => exact command h .resumeTest
  | fetchRecord => exact command h .fetchRecord
  | peekOrder => exact command h .peekOrder
  | commitSettings => exact command h .commitSettings
  | setSeconds => exact command h .setSeconds
  | unknownRequest => exact command h .unknown
  | commitCompletion =>
    change Gives _ (execCommitCompletion s)
    unfold execCommitCompletion
    split
    all_goals exact gives_next.mpr h
  | commitTimerExpiry => exact ite h h
  | powerOnReset => exact gives_next.mpr (linksHold_enterReset s)
  | resetN => exact ite h (linksHold_enterReset s)
  | resetEnd => exact ite h h
  | loadingEnd =>
    refine ite h ((linksHold_loadSettings s).of_sets ?_)
    rw [startBlocks_sets, (loadLockouts_same _).sets (by decide)]
  | tripSupplyReading good => exact ite h h
  | lossOfPower => exact gives_next.mpr (linksHold_enterReset s)

end LinksHold

/-- Settles O60: a command that waits, and on an empty queue the command of a due timer or one microsecond. -/
theorem stepKeepsLinks : Obligations.StepKeepsLinks := by
  intro s t hstep hl
  have hs : LinksHold s := hl
  unfold step at hstep
  split at hstep
  · unfold tick at hstep
    split at hstep
    · refine gives_next.mpr (hs.of_sets ?_) t hstep
      unfold State.advance; split <;> rfl
    · exact LinksHold.exec (s := s.tieTaken) hs _ t hstep
  · rename_i c rest _
    exact LinksHold.exec (s := s.setPending rest) hs c t hstep

end Sys2Proof.Machine
end

section
/-! PROOF. The map (section 2.6): islands as least closed sets. -/

namespace Sys2Proof.Machine

open Sys2Proof Sys2Proof.Safety

/-! ### One pass over the links (R43) -/

/-- The zones of a set. -/
def zonesOf (m : Marks 12) : Finset ZoneId := {z | m.has z = true}

theorem mem_zonesOf (m : Marks 12) (z : ZoneId) : z ∈ zonesOf m ↔ m.has z = true := by simp [zonesOf]

theorem zonesOf_injective {m n : Marks 12} (h : zonesOf m = zonesOf n) : m = n :=
  Marks.ext fun i => by
    have := (mem_zonesOf m i).symm.trans (h ▸ mem_zonesOf n i)
    exact Bool.eq_iff_iff.mpr this

/-- Slot contents `l` are a link between `a` and `b`, both in use. -/
def Joins (w : Settings) (l : Option (ZoneId × ZoneId)) (a b : ZoneId) : Prop :=
  l = some (a, b) ∧ (look w.zones a).inUse = true ∧ (look w.zones b).inUse = true

/-- The set `m` is closed under the links of a list: it holds both zones of each, or neither. -/
def ClosedUnder (w : Settings) (ls : List (Option (ZoneId × ZoneId))) (m : Marks 12) : Prop :=
  ∀ l a b, l ∈ ls → Joins w l a b → m.has a = m.has b

/-- One link slot's turn in a pass. -/
def growLink (w : Settings) (m : Marks 12) (l : Option (ZoneId × ZoneId)) : Marks 12 :=
  match l with
  | none => m
  | some (a, b) => if (look w.zones a).inUse && (look w.zones b).inUse && (m.has a || m.has b) then (m.add a).add b else m

theorem growOnce_eq (w : Settings) (m : Marks 12) : growOnce w m = w.links.toList.foldl (growLink w) m := rfl

/-- A turn adds both zones of a link that has one in the set. -/
theorem mem_growLink (w : Settings) (m : Marks 12) (l : Option (ZoneId × ZoneId)) (y : ZoneId) :
    y ∈ zonesOf (growLink w m l) ↔
      y ∈ zonesOf m ∨ ∃ a b, Joins w l a b ∧ (m.has a = true ∨ m.has b = true) ∧ (y = a ∨ y = b) := by
  simp only [mem_zonesOf, Joins]
  rcases l with _ | ⟨a, b⟩
  · simp [growLink]
  · rw [growLink]
    split
    · rename_i h
      simp only [Bool.and_eq_true, Bool.or_eq_true] at h
      obtain ⟨⟨ha, hb⟩, hm⟩ := h
      simp only [Marks.has_add, Bool.or_eq_true, decide_eq_true_eq, Option.some.injEq, Prod.mk.injEq]
      constructor
      · rintro ((h | rfl) | rfl)
        · exact .inl h
        · exact .inr ⟨a, b, ⟨⟨rfl, rfl⟩, ha, hb⟩, hm, .inl rfl⟩
        · exact .inr ⟨a, b, ⟨⟨rfl, rfl⟩, ha, hb⟩, hm, .inr rfl⟩
      · rintro (h | ⟨_, _, ⟨⟨rfl, rfl⟩, -⟩, -, rfl | rfl⟩)
        · exact .inl (.inl h)
        · exact .inl (.inr rfl)
        · exact .inr rfl
    · rename_i h
      simp only [Bool.and_eq_true, Bool.or_eq_true] at h
      refine ⟨.inl, fun k => k.resolve_right ?_⟩
      rintro ⟨_, _, ⟨e, ha, hb⟩, hm, -⟩
      cases e
      exact h ⟨⟨ha, hb⟩, hm⟩

theorem subset_growLink (w : Settings) (m : Marks 12) (l : Option (ZoneId × ZoneId)) :
    zonesOf m ⊆ zonesOf (growLink w m l) := fun _ hy => (mem_growLink ..).mpr (.inl hy)

section
variable {w : Settings}

theorem subset_growLinks (ls : List (Option (ZoneId × ZoneId))) (m : Marks 12) :
    zonesOf m ⊆ zonesOf (ls.foldl (growLink w) m) := by
  induction ls generalizing m with
  | nil => exact Finset.Subset.refl _
  | cons l ls ih => exact (subset_growLink w m l).trans (ih _)

/-- A pass stays inside a closed set. -/
theorem growLinks_subset {ls : List (Option (ZoneId × ZoneId))} {m n : Marks 12} (hn : ClosedUnder w ls n)
    (hm : zonesOf m ⊆ zonesOf n) : zonesOf (ls.foldl (growLink w) m) ⊆ zonesOf n := by
  induction ls generalizing m with
  | nil => exact hm
  | cons l ls ih =>
    refine ih (fun k a b hk => hn k a b (List.mem_cons_of_mem _ hk)) fun y hy => ?_
    rcases (mem_growLink ..).mp hy with h | ⟨a, b, hj, hab, hy⟩
    · exact hm h
    · have heq := hn l a b (List.mem_cons_self ..) hj
      have hin : ∀ z, m.has z = true → n.has z = true := fun z hz => by
        simpa only [mem_zonesOf] using hm ((mem_zonesOf m z).mpr hz)
      have ha : n.has a = true := hab.elim (hin a) fun h => heq.trans (hin b h)
      rw [mem_zonesOf]
      rcases hy with rfl | rfl
      · exact ha
      · exact heq.symm.trans ha

/-- After a pass, a link that had one zone in the set has both. -/
theorem growLinks_joins {ls : List (Option (ZoneId × ZoneId))} {l : Option (ZoneId × ZoneId)} {a b : ZoneId} (hl : l ∈ ls)
    (hj : Joins w l a b) {m : Marks 12} (hm : m.has a = true ∨ m.has b = true) :
    a ∈ zonesOf (ls.foldl (growLink w) m) ∧ b ∈ zonesOf (ls.foldl (growLink w) m) := by
  induction ls generalizing m with
  | nil => cases hl
  | cons k ls ih =>
    rcases List.mem_cons.mp hl with rfl | hl
    · exact ⟨subset_growLinks ls _ ((mem_growLink ..).mpr (.inr ⟨a, b, hj, hm, .inl rfl⟩)),
        subset_growLinks ls _ ((mem_growLink ..).mpr (.inr ⟨a, b, hj, hm, .inr rfl⟩))⟩
    · refine ih hl (hm.imp (fun h => ?_) fun h => ?_)
      all_goals exact (mem_zonesOf ..).mp (subset_growLink w m k ((mem_zonesOf ..).mpr h))

/-! ### Eleven passes -/

theorem subset_growTimes (n : Nat) (m : Marks 12) : zonesOf m ⊆ zonesOf (growTimes w n m) := by
  induction n generalizing m with
  | zero => exact Finset.Subset.refl _
  | succ n ih => exact (subset_growLinks _ m).trans (ih _)

theorem growTimes_subset {n : Nat} {m k : Marks 12} (hk : ClosedUnder w w.links.toList k) (hm : zonesOf m ⊆ zonesOf k) :
    zonesOf (growTimes w n m) ⊆ zonesOf k := by
  induction n generalizing m with
  | zero => exact hm
  | succ n ih => exact ih (growLinks_subset hk hm)

/-- A set that a pass leaves as it is is closed. -/
theorem closedUnder_of_fixed {m : Marks 12} (h : growOnce w m = m) : ClosedUnder w w.links.toList m := by
  intro l a b hl hj
  have hboth : m.has a = true ∨ m.has b = true → m.has a = true ∧ m.has b = true := fun hm => by
    have := growLinks_joins hl hj hm
    rwa [← growOnce_eq, h, mem_zonesOf, mem_zonesOf] at this
  exact Bool.eq_iff_iff.mpr ⟨fun ha => (hboth (.inl ha)).2, fun hb => (hboth (.inr hb)).1⟩

theorem growTimes_of_fixed {m : Marks 12} (h : growOnce w m = m) (n : Nat) : growTimes w n m = m := by
  induction n with
  | zero => rfl
  | succ n ih => rw [growTimes, h, ih]

/-- Each pass of a series adds a zone, until one leaves the set as it is. -/
theorem growTimes_fixed_or_card (n : Nat) (m : Marks 12) :
    growOnce w (growTimes w n m) = growTimes w n m ∨ n + (zonesOf m).card ≤ (zonesOf (growTimes w n m)).card := by
  induction n generalizing m with
  | zero => exact .inr (by simp [growTimes])
  | succ n ih =>
    by_cases h : growOnce w m = m
    · exact .inl (by rw [growTimes_of_fixed h, h])
    · refine (ih (growOnce w m)).imp id fun hcard => ?_
      have hlt : (zonesOf m).card < (zonesOf (growOnce w m)).card :=
        Finset.card_lt_card ⟨subset_growLinks _ m, fun hsub =>
          h (zonesOf_injective (hsub.antisymm (subset_growLinks _ m)))⟩
      rw [growTimes]; omega

/-- Eleven passes from one zone give a closed set: after them all twelve zones are in it, or a pass has added none. -/
theorem closedUnder_growTimes (z : ZoneId) : ClosedUnder w w.links.toList (growTimes w 11 (Marks.add 0 z)) := by
  rcases growTimes_fixed_or_card (w := w) 11 (Marks.add 0 z) with h | hcard
  · exact closedUnder_of_fixed h
  · have hz : z ∈ zonesOf (Marks.add 0 z) := by simp [mem_zonesOf, Marks.has_add]
    have hpos := Finset.card_pos.mpr ⟨z, hz⟩
    have hall : zonesOf (growTimes w 11 (Marks.add 0 z)) = Finset.univ :=
      (Finset.card_eq_iff_eq_univ _).mp (le_antisymm (Finset.card_le_univ _) (by rw [Fintype.card_fin]; omega))
    have hin : ∀ y, (growTimes w 11 (Marks.add 0 z)).has y = true := fun y => by
      rw [← mem_zonesOf, hall]; exact Finset.mem_univ y
    intro l a b _ _
    rw [hin, hin]

/-! ### The island -/

theorem closedUnder_links (m : Marks 12) :
    ClosedUnder w w.links.toList m ↔
      ∀ l a b, look w.links l = some (a, b) → (look w.zones a).inUse = true → (look w.zones b).inUse = true →
        m.has a = m.has b := by
  constructor
  · intro h l a b hl ha hb
    refine h (look w.links l) a b ?_ ⟨hl, ha, hb⟩
    rw [Vector.mem_toList_iff]; exact Vector.getElem_mem _
  · rintro h l a b hl ⟨rfl, ha, hb⟩
    rw [Vector.mem_toList_iff] at hl
    obtain ⟨i, hi, he⟩ := Vector.getElem_of_mem hl
    exact h ⟨i, hi⟩ a b he ha hb

variable {z : ZoneId}

theorem islandIn_unused (h : (look w.zones z).inUse = false) : islandIn w z = 0 := by simp [islandIn, h]

variable (h : (look w.zones z).inUse = true)
include h

theorem islandIn_eq : islandIn w z = growTimes w 11 (Marks.add 0 z) := by simp [islandIn, h]

theorem islandIn_has : (islandIn w z).has z = true := by
  rw [islandIn_eq h, ← mem_zonesOf]
  exact subset_growTimes 11 _ (by simp [mem_zonesOf, Marks.has_add])

theorem closedUnder_islandIn : ClosedUnder w w.links.toList (islandIn w z) := by
  rw [islandIn_eq h]; exact closedUnder_growTimes z

/-- The island lies in every closed set that holds the zone. -/
theorem islandIn_least {m : Marks 12} (hz : m.has z = true) (hm : ClosedUnder w w.links.toList m) {y : ZoneId}
    (hy : (islandIn w z).has y = true) : m.has y = true := by
  rw [islandIn_eq h, ← mem_zonesOf] at hy
  rw [← mem_zonesOf]
  refine growTimes_subset hm (fun x hx => ?_) hy
  have : z = x := by simpa [mem_zonesOf, Marks.has_add] using hx
  rw [mem_zonesOf, ← this]; exact hz

end

/-- Settles O10. -/
theorem islandIsLeastClosedSet : Obligations.IslandIsLeastClosedSet := by
  refine ⟨fun w z => ⟨islandIn_unused, fun h => ⟨islandIn_has h, ?_, fun m hz hm y hy => ?_⟩⟩, fun s m => ?_⟩
  · exact (closedUnder_links _).mp (closedUnder_islandIn h)
  · exact islandIn_least h hz ((closedUnder_links m).mpr hm) hy
  · exact ⟨mem_boundary s m, mem_tripSet s m, fun x => mem_missing s x m, boundary_pairwise s m, tripSet_pairwise s m,
      fun x => missing_pairwise s x m, fun z => ⟨rfl, currentCondition_iff s z⟩⟩

end Sys2Proof.Machine
end

section
/-! PROOF. Write Item of zone records, link slots and breaker records at a board at rest (section 10.2). -/

namespace Sys2Proof.Machine

open Sys2Proof Sys2Proof.Safety

theorem row_writeZone {r : Request} (h : r.kind = 0x02#8) (h0 : r.byte 0 = 2) : r.row = .writeZone := by
  simp [Request.row, h, h0, writeRow]

theorem row_writeLink {r : Request} (h : r.kind = 0x02#8) (h0 : r.byte 0 = 3) : r.row = .writeLink := by
  simp [Request.row, h, h0, writeRow]

theorem row_writeBreaker {r : Request} (h : r.kind = 0x02#8) (h0 : r.byte 0 = 4) : r.row = .writeBreaker := by
  simp [Request.row, h, h0, writeRow]

/-! ### The checks (R176, R177) -/

section
variable (p : PortId) {r : Request} {s : State}

theorem writeZoneBody_outOfRange (h : 12 ≤ r.byte 1) : writeZoneBody p r s = (s, .refuse .item) := by
  simp [writeZoneBody, Nat.not_lt.mpr h]

theorem writeZoneBody_badField (h : r.byte 1 < 12) (hr : r.zoneRecord = none) :
    writeZoneBody p r s = (s, .refuse .value) := by
  simp [writeZoneBody, h, hr]

theorem writeZoneBody_checks {z : ZoneId} {x : ZoneRecord} (hz : r.byte 1 = z.val) (hr : r.zoneRecord = some x) :
    writeZoneBody p r s =
      if zoneStructureOk s.sets.working z x = false then (s, .refuse .value)
      else if (look s.sets.working.zones z).inUse = false ∨ s.holdsMet [z] = true then
        (s.writeZone z x, { code := .done, data := encodeZone (look (s.writeZone z x).sets.working.zones z) })
      else (s, .refuse .notHeld) := by
  have hlt : r.byte 1 < 12 := by omega
  have hid : (⟨r.byte 1, hlt⟩ : ZoneId) = z := Fin.ext hz
  simp only [writeZoneBody, hlt, dif_pos, hid, hr, Bool.not_eq_true', Bool.or_eq_true, writeAnswer, if_true]

theorem writeLinkBody_outOfRange (h : 16 ≤ r.byte 1) : writeLinkBody p r s = (s, .refuse .item) := by
  simp [writeLinkBody, Nat.not_lt.mpr h]

theorem writeLinkBody_badField (h : r.byte 1 < 16) (hr : r.linkSlot = none) :
    writeLinkBody p r s = (s, .refuse .value) := by
  simp [writeLinkBody, h, hr]

theorem writeLinkBody_checks {l : LinkId} {x : Option (ZoneId × ZoneId)} (hl : r.byte 1 = l.val)
    (hr : r.linkSlot = some x) :
    writeLinkBody p r s =
      if linkStructureOk s.sets.working l x = false then (s, .refuse .value)
      else if s.holdsMet (linkZones (look s.sets.working.links l) ++ linkZones x) = true then
        (s.writeLink l x, { code := .done, data := encodeLink (look (s.writeLink l x).sets.working.links l) })
      else (s, .refuse .notHeld) := by
  have hlt : r.byte 1 < 16 := by omega
  have hid : (⟨r.byte 1, hlt⟩ : LinkId) = l := Fin.ext hl
  simp only [writeLinkBody, hlt, dif_pos, hid, hr, Bool.not_eq_true', writeAnswer, if_true]

theorem writeBreakerBody_outOfRange (h : 8 ≤ r.byte 1) : writeBreakerBody p r s = (s, .refuse .item) := by
  simp [writeBreakerBody, Nat.not_lt.mpr h]

theorem writeBreakerBody_badField (h : r.byte 1 < 8) (hr : r.breakerRecord = none) :
    writeBreakerBody p r s = (s, .refuse .value) := by
  simp [writeBreakerBody, h, hr]

theorem writeBreakerBody_checks {b : BreakerId} {x : BreakerRecord} (hb : r.byte 1 = b.val)
    (hr : r.breakerRecord = some x) :
    writeBreakerBody p r s =
      if breakerStructureOk s.sets.working x = false then (s, .refuse .value)
      else if s.holdsMet ((look s.sets.working.breakers b).sideZones ++ x.sideZones) = true then
        (s.writeBreaker b x.clamped, {
          code := if x.clamped = x then .done else .doneClamped
          data := encodeBreaker (look (s.writeBreaker b x.clamped).sets.working.breakers b) })
      else (s, .refuse .notHeld) := by
  have hlt : r.byte 1 < 8 := by omega
  have hid : (⟨r.byte 1, hlt⟩ : BreakerId) = b := Fin.ext hb
  simp only [writeBreakerBody, hlt, dif_pos, hid, hr, Bool.not_eq_true', writeAnswer, beq_iff_eq]

end

/-- The zones of a link slot's pair. -/
theorem mem_linkZones (l : Option (ZoneId × ZoneId)) (z : ZoneId) :
    z ∈ linkZones l ↔ ∃ a b, l = some (a, b) ∧ (z = a ∨ z = b) := by
  rcases l with _ | ⟨a, b⟩
  · simp [linkZones]
  · simp only [linkZones, List.mem_cons, List.not_mem_nil, or_false, Option.some.injEq, Prod.mk.injEq]
    exact ⟨fun h => ⟨a, b, ⟨rfl, rfl⟩, h⟩, by rintro ⟨_, _, ⟨rfl, rfl⟩, h⟩; exact h⟩

/-- The hold condition of a link slot's write: both zones of the old and of the written pair are HELD (R177). -/
theorem linkZones_held (s : State) (l x : Option (ZoneId × ZoneId)) :
    (∀ z, z ∈ linkZones l ++ linkZones x → (s.zone z).prot = .held) ↔
      ∀ a b, l = some (a, b) ∨ x = some (a, b) → (s.zone a).prot = .held ∧ (s.zone b).prot = .held := by
  simp only [List.mem_append, mem_linkZones]
  constructor
  · rintro h a b (hl | hx)
    · exact ⟨h a (.inl ⟨a, b, hl, .inl rfl⟩), h b (.inl ⟨a, b, hl, .inr rfl⟩)⟩
    · exact ⟨h a (.inr ⟨a, b, hx, .inl rfl⟩), h b (.inr ⟨a, b, hx, .inr rfl⟩)⟩
  · rintro h z (⟨a, b, hl, rfl | rfl⟩ | ⟨a, b, hx, rfl | rfl⟩)
    · exact (h _ b (.inl hl)).1
    · exact (h a _ (.inl hl)).2
    · exact (h _ b (.inr hx)).1
    · exact (h a _ (.inr hx)).2

/-! ### The settings after an accepted write (R178 steps 1 and 3) -/

/-- The settings unit after a write that makes the working settings `v`. -/
def State.workingWritten (s : State) (v : Settings) : SettingsUnit :=
  { s.sets with
    working := v, dirty := true, writtenSince := s.sets.writtenSince || decide (s.sets.store = .writing) }

/-- A write is marked, and where the quiet timer is settled nothing else follows (R134, R178). -/
theorem markWritten_quiet {s u : State} (v : Settings) (hq : QuietOk u)
    (hu : u.sets = { s.sets with working := v }) : u.markWritten = u.setSets (s.workingWritten v) := by
  have htouched : u.sets.touched = s.workingWritten v := by rw [hu]; rfl
  unfold State.markWritten
  rw [htouched]
  exact settleQuiet_of_quietOk _ hq

/-- At a board at rest a write to the map finds nothing to do (R178). -/
theorem inProtecting_mapWritten {s : State} (h : AtRest s) : s.inProtecting State.mapWritten = s := by
  unfold State.inProtecting
  split
  · exact mapWritten_of_atRest h
  · rfl

/-- A completion whose effect is on the settings alone. -/
theorem complete_setSets {s : State} {p : PortId} {r : Request} {a : Answer} {row : RequestRow} {v : SettingsUnit}
    {body : PortId → Request → State → State × Answer} (h : Serving s p r) (hr : r.row = row)
    (hb : body p r s = (s.setSets v, a)) :
    ∃ t, (.next (s.complete row body) : Result) = .next t ∧ Answered s t p r a ∧ t.sets = v
      ∧ SameBut [.sets, .ports, .limits] s t := by
  obtain ⟨t, hexec, hans, hsame⟩ := complete_effect h hr hb rfl
  exact ⟨t, hexec, hans, hsame.sets (by decide),
    SameBut.trans (sameBut_setSets (SameBut.refl _ _) v (by decide)) (hsame.mono (by simp))⟩

theorem protecting_zoneRec {s : State} (h : s.mode = .protecting) (z : ZoneId) :
    s.zoneRec z = look s.sets.working.zones z := by simp [State.zoneRec, State.inForce, h]

theorem protecting_breakerRec {s : State} (h : s.mode = .protecting) (b : BreakerId) :
    s.breakerRec b = look s.sets.working.breakers b := by simp [State.breakerRec, State.inForce, h]

theorem writeLink_atRest {s : State} (hq : QuietOk s) (hr : AtRest s) (l : LinkId) (x : Option (ZoneId × ZoneId)) :
    s.writeLink l x =
      s.setSets (s.workingWritten { s.sets.working with links := put s.sets.working.links l x }) := by
  unfold State.writeLink
  rw [inProtecting_mapWritten (s := s.putLink l x) hr]
  exact markWritten_quiet (s := s) (u := s.putLink l x) _ hq rfl

/-! ### A zone record written (R30, R49, R57) -/

/-- In PROTECTING the write puts zone `z` into use, which is DARK with light in its set (R49). -/
def ZoneLights (s : State) (z : ZoneId) (x : ZoneRecord) : Prop :=
  s.mode = .protecting ∧ (look s.sets.working.zones z).inUse = false ∧ x.inUse = true ∧ (s.zone z).prot = .dark
    ∧ (s.zone z).confirmed ≠ 0

/-- The settings unit after an accepted write of zone `z`'s record. -/
def State.zoneWritten (s : State) (z : ZoneId) (x : ZoneRecord) : SettingsUnit :=
  s.workingWritten { s.sets.working with zones := put s.sets.working.zones z x }

/-- Zone `z` entering LIT (R50). -/
def State.zoneLit (s : State) (z : ZoneId) : Zone :=
  { s.zone z with
    prot := .lit, litSince := some s.stamp, alarmSent := false, noSourceSent := false
    alarmTimer := some (s.now + 2000000), orderSlot := none }

/-- Zone `z` put into use and LIT by the write, with its NO_SOURCE record sealed (R49, R57). -/
def State.zoneLighted (s : State) (z : ZoneId) (x : ZoneRecord) : State :=
  (((s.putZoneRecord z x).setZone z (s.zoneLit z)).seal (.noSource z (s.zoneOrigin z) (s.zone z).confirmed)).setZone z
    { s.zoneLit z with noSourceSent := true }

section
variable (s : State) (z : ZoneId) (x : ZoneRecord)

theorem zoneWritten_zone : look (s.zoneWritten z x).working.zones z = x := (look_put ..).trans (if_pos rfl)

theorem zoneLighted_def : s.zoneLighted z x =
    (((s.putZoneRecord z x).setZone z (s.zoneLit z)).seal (.noSource z (s.zoneOrigin z) (s.zone z).confirmed)).setZone z
      { s.zoneLit z with noSourceSent := true } := rfl

theorem zoneLighted_zone (y : ZoneId) :
    (s.zoneLighted z x).zone y = if z = y then { s.zoneLit z with noSourceSent := true } else s.zone y := by
  rw [zoneLighted_def, State.setZone_zone, seal_zone, State.setZone_zone]
  split <;> rfl

theorem zoneLighted_same : SameBut [.zones, .records, .sets, .ports] s (s.zoneLighted z x) := by
  have hput : SameBut [.sets] s (s.putZoneRecord z x) := sameBut_setSets (SameBut.refl _ _) _ (by decide)
  exact sameBut_setZone (sameBut_seal (sameBut_setZone (hput.mono (by simp)) _ _ (by decide)) _ (by decide) (by decide)) _ _
    (by decide)

theorem zoneLighted_sealed :
    Sealed s (s.zoneLighted z x) (.noSource z (s.zoneOrigin z) (s.zone z).confirmed) :=
  (sealed_seal ((s.putZoneRecord z x).setZone z (s.zoneLit z)) _).congr rfl rfl rfl rfl rfl rfl rfl

theorem zoneLighted_sets : (s.zoneLighted z x).sets = (s.putZoneRecord z x).sets := by
  rw [zoneLighted_def, State.setZone_sets, seal_sets, State.setZone_sets]

theorem zoneLighted_tripSet :
    (s.zoneLighted z x).tripSet ((s.zoneLighted z x).island z) =
      (s.setSets (s.zoneWritten z x)).tripSet ((s.setSets (s.zoneWritten z x)).island z) := by
  have hsame := zoneLighted_same s z x
  have hforce : (s.zoneLighted z x).inForce = (s.setSets (s.zoneWritten z x)).inForce := by
    rw [State.inForce, State.inForce, hsame.mode (by decide), zoneLighted_sets]; rfl
  rw [island_congr hforce, tripSet_congr hforce (hsame.inputs (by decide))]

end

section
variable {s : State} {z : ZoneId} {x : ZoneRecord}

/-- A write that lights no zone. -/
theorem writeZone_atRest (hq : QuietOk s) (hr : AtRest s) (hl : ¬ ZoneLights s z x) :
    s.writeZone z x = s.setSets (s.zoneWritten z x) := by
  have hput : (s.putZoneRecord z x).inProtecting (fun t =>
      (if !(s.zoneRec z).inUse && x.inUse then t.zoneEntersUse z else t).mapWritten) = s.putZoneRecord z x := by
    unfold State.inProtecting
    dsimp only
    split
    · rename_i hm
      have hdark : (if !(s.zoneRec z).inUse && x.inUse then (s.putZoneRecord z x).zoneEntersUse z
          else s.putZoneRecord z x) = s.putZoneRecord z x := by
        split
        · rename_i hu
          rw [protecting_zoneRec (s := s) hm, Bool.and_eq_true, Bool.not_eq_true'] at hu
          exact if_neg fun ⟨hd, hc⟩ => hl ⟨hm, hu.1, hu.2, hd, hc⟩
        · rfl
      rw [hdark]
      exact mapWritten_of_atRest (s := s.putZoneRecord z x) hr
    · rfl
  unfold State.writeZone
  rw [hput]
  exact markWritten_quiet (s := s) (u := s.putZoneRecord z x) _ hq rfl

/-- A board whose one LIT zone has an empty trip set and has sent its NO_SOURCE record: a write to the map finds nothing
more to do (R57, R178). -/
theorem mapWritten_sent {u : State} {z : ZoneId} (ho : ∀ o, u.order o = none)
    (hz : ∀ y, y ≠ z → (u.zone y).prot ≠ .lit) (ht : u.tripSet (u.island z) = []) (hs : (u.zone z).noSourceSent = true) :
    u.mapWritten = u := by
  have hev : u.evaluate z = u := by
    unfold State.evaluate
    split
    · split
      · rw [ht]; simp [State.noSource, hs]
      · rfl
    · rfl
  have hfold : (ids 12).foldl (fun s o => s.demandMissing o) u = u :=
    foldl_id _ _ fun o _ => by simp [State.demandMissing, ho o]
  unfold State.mapWritten
  rw [hfold, evaluateWhere_one _ z rfl hz (by rw [hev]; exact hz), hev]

/-- A write that lights its zone, whose trip set is empty. -/
theorem writeZone_lights (hr : AtRest s) (hl : ZoneLights s z x) (hb : s.batch.state = .idle)
    (ht : (s.setSets (s.zoneWritten z x)).tripSet ((s.setSets (s.zoneWritten z x)).island z) = []) :
    s.writeZone z x = (s.zoneLighted z x).setSets (s.zoneWritten z x) := by
  obtain ⟨hm, hold, hnew, hdark, hlight⟩ := hl
  obtain ⟨horders, hunlit⟩ := hr
  have hsame := zoneLighted_same s z x
  set v := (s.putZoneRecord z x).setZone z (s.zoneLit z) with hv
  have hlit : (s.putZoneRecord z x).enterLit z = v := noteLit_idle (s := v) hb
  have hzone : v.zone z = s.zoneLit z := by simp [hv]
  have hempty : v.tripSet (v.island z) = [] := ht
  have hseal : v.evaluate z = s.zoneLighted z x := by
    rw [evaluate_noSource (by rw [hzone]; rfl)
      ((currentCondition_iff v z).mpr (.inr (.inl (by rw [hempty]; simp)))) hempty (by rw [hzone]; rfl), hzone]
    have horigin : v.zoneOrigin z = s.zoneOrigin z := by rw [State.zoneOrigin, hzone]; rfl
    rw [horigin]; rfl
  have hmap : (s.zoneLighted z x).mapWritten = s.zoneLighted z x := by
    refine mapWritten_sent (z := z) (fun o => by rw [hsame.order _ (by decide)]; exact horders o) (fun y hy => ?_)
      (by rw [zoneLighted_tripSet]; exact ht) (by rw [zoneLighted_zone, if_pos rfl])
    rw [zoneLighted_zone, if_neg (Ne.symm hy)]; exact hunlit y
  have henters : (s.putZoneRecord z x).zoneEntersUse z = s.zoneLighted z x := by
    rw [← hseal, ← hlit]; exact if_pos ⟨hdark, hlight⟩
  have hprot : (s.putZoneRecord z x).inProtecting (fun t =>
      (if !(s.zoneRec z).inUse && x.inUse then t.zoneEntersUse z else t).mapWritten) = s.zoneLighted z x := by
    unfold State.inProtecting
    dsimp only
    rw [if_pos (show (s.putZoneRecord z x).mode = .protecting from hm), protecting_zoneRec hm, hold, hnew]
    simp only [Bool.not_false, Bool.and_self, if_true]
    rw [henters, hmap]
  have htouched : (s.zoneLighted z x).sets.touched = s.zoneWritten z x := by rw [zoneLighted_sets]; rfl
  unfold State.writeZone State.markWritten
  rw [hprot, htouched]
  exact settleQuiet_of_not _ fun h => by
    rw [State.setSets_batch, hsame.batch (by decide), hb] at h; cases h.1

end

/-- Settles O46: the checks in the order of Table 10-3, and an accepted write by whether it lights a zone. -/
theorem writeZoneAndLinkChangeMap : Obligations.WriteZoneAndLinkChangeMap := by
  intro s p r hs hq hrest hk w changed refusedZone refusedLink badZone badLink
  have hzoneNone : r.zoneRecord = none ↔ badZone := zoneRecord_none r
  have hlinkNone : r.linkSlot = none ↔ badLink := linkSlot_none r
  refine ⟨fun h0 => ?_, fun h0 => ?_, fun z x h0 hz hx => ?_, fun l x h0 hl hx => ?_⟩
  · have hrow := row_writeZone hk h0
    exact ⟨fun h => complete_effect hs hrow (writeZoneBody_outOfRange p h) rfl,
      fun h hb => complete_effect hs hrow (writeZoneBody_badField p h (hzoneNone.mpr hb)) rfl,
      fun hb => Option.ne_none_iff_exists'.mp (mt hzoneNone.mp hb)⟩
  · have hrow := row_writeLink hk h0
    exact ⟨fun h => complete_effect hs hrow (writeLinkBody_outOfRange p h) rfl,
      fun h hb => complete_effect hs hrow (writeLinkBody_badField p h (hlinkNone.mpr hb)) rfl,
      fun hb => Option.ne_none_iff_exists'.mp (mt hlinkNone.mp hb)⟩
  · have hrow := row_writeZone hk h0
    have hbody := writeZoneBody_checks p (s := s) hz hx
    have hok := zoneStructureOk_iff w z x
    have hheld : s.holdsMet [z] = true ↔ (s.mode = .protecting → (s.zone z).prot = .held) := by
      rw [holdsMet_iff hs.1]; simp
    intro named lit
    refine ⟨fun hout hn => ?_, fun hst hm hu hnot => ?_, fun hst hh hl => ?_, fun hl hb ht => ?_⟩
    · have hbad : zoneStructureOk w z x = false := Bool.eq_false_iff.mpr fun h =>
        (hok.mp h).elim (by simp [hout]) fun k => k hn
      rw [if_pos hbad] at hbody
      exact complete_effect hs hrow hbody rfl
    · rw [if_neg (by rw [hok.mpr hst]; simp), if_neg] at hbody
      · exact complete_effect hs hrow hbody rfl
      · rintro (h | h)
        · rw [hu] at h; cases h
        · exact hnot (hheld.mp h hm)
    · rw [if_neg (by rw [hok.mpr hst]; simp), if_pos, writeZone_atRest hq hrest hl, State.setSets_sets,
        zoneWritten_zone] at hbody
      · exact complete_setSets hs hrow hbody
      · by_cases hu : (look s.sets.working.zones z).inUse = true
        · exact .inr (hheld.mpr fun hm => hh hm hu)
        · exact .inl (Bool.eq_false_iff.mpr hu)
    · obtain ⟨-, hold, hnew, -⟩ := id hl
      rw [if_neg (by rw [hok.mpr (.inl hnew)]; simp), if_pos (.inl hold), writeZone_lights hrest hl hb ht,
        State.setSets_sets, zoneWritten_zone] at hbody
      obtain ⟨hans, hsame⟩ := complete_spec hs hrow hbody
      have hlit := zoneLighted_same s z x
      refine ⟨_, (s.zoneLighted z x).setSets (s.zoneWritten z x), rfl,
        (zoneLighted_sealed s z x).congr rfl rfl rfl rfl rfl rfl rfl, hsame.ring (by decide),
        hsame.nextSeq (by decide), hans, hsame.sets (by decide), fun y hy => ?_, ?_, ?_⟩
      · rw [hsame.zone _ (by decide), State.setSets_zone, zoneLighted_zone, if_neg (Ne.symm hy)]
      · rw [hsame.zone _ (by decide), State.setSets_zone, zoneLighted_zone, if_pos rfl]; rfl
      · exact SameBut.trans (sameBut_setSets (hlit.mono (by simp)) _ (by decide)) (hsame.mono (by simp))
  · have hrow := row_writeLink hk h0
    have hbody := writeLinkBody_checks p (s := s) hl hx
    have hok := linkStructureOk_iff w l x
    have hheld : s.holdsMet (linkZones (look w.links l) ++ linkZones x) = true ↔ _ :=
      (holdsMet_iff hs.1 _).trans (imp_congr_right fun _ => linkZones_held s (look w.links l) x)
    intro ok held
    refine ⟨fun hst => ?_, fun hst hm hno => ?_, fun hst hh => ?_⟩
    · rw [if_pos (Bool.eq_false_iff.mpr (mt hok.mp hst))] at hbody
      exact complete_effect hs hrow hbody rfl
    · rw [if_neg (by rw [hok.mpr hst]; simp), if_neg fun h => hno (hheld.mp h hm)] at hbody
      exact complete_effect hs hrow hbody rfl
    · rw [if_neg (by rw [hok.mpr hst]; simp), if_pos (hheld.mpr hh), writeLink_atRest hq hrest] at hbody
      have hlook : look (put s.sets.working.links l x) l = x := (look_put ..).trans (if_pos rfl)
      change _ = (_, (⟨_, encodeLink (look (put s.sets.working.links l x) l)⟩ : Answer)) at hbody
      rw [hlook] at hbody
      exact complete_setSets hs hrow hbody

/-! ### A breaker record written (R33, R35) -/

/-- A breaker's inputs after its in-use field has gone from `old` to `new` (R35). -/
def State.supervised (s : State) (b : BreakerId) (old new : Bool) : Inputs :=
  if old = false ∧ new = true ∧ (s.input b).position = .unknown then
    { s.input b with unknownTimer := some (s.now + 1000000) }
  else if old = true ∧ new = false then { s.input b with unknownTimer := none, positionFault := false }
  else s.input b

theorem superviseBreaker_eq (s : State) (b : BreakerId) (old new : Bool) :
    s.superviseBreaker b old new = s.setInput b (s.supervised b old new) := by
  unfold State.superviseBreaker State.supervised
  cases old <;> cases new
  case false.true =>
    by_cases h : (s.input b).position = .unknown <;> simp [h, State.after, unknownTime, ms]
  all_goals simp

/-- The settings unit after an accepted write of breaker `b`'s record. -/
def State.breakerWritten (s : State) (b : BreakerId) (x : BreakerRecord) : SettingsUnit :=
  s.workingWritten { s.sets.working with breakers := put s.sets.working.breakers b x }

theorem breakerWritten_breaker (s : State) (b : BreakerId) (x : BreakerRecord) :
    look (s.breakerWritten b x).working.breakers b = x := (look_put ..).trans (if_pos rfl)

/-- The inputs of breaker `b` after an accepted write: in BACKSTOP the settings in force are unchanged (R178). -/
def State.inputWritten (s : State) (b : BreakerId) (x : BreakerRecord) : Inputs :=
  if s.mode = .protecting then s.supervised b (look s.sets.working.breakers b).inUse x.inUse else s.input b

theorem writeBreaker_atRest {s : State} (hq : QuietOk s) (hr : AtRest s) (b : BreakerId) (x : BreakerRecord) :
    s.writeBreaker b x = (s.setInput b (s.inputWritten b x)).setSets (s.breakerWritten b x) := by
  have hput : (s.putBreakerRecord b x).inProtecting (fun t =>
      (t.superviseBreaker b (s.breakerRec b).inUse x.inUse).mapWritten)
        = (s.putBreakerRecord b x).setInput b (s.inputWritten b x) := by
    unfold State.inProtecting State.inputWritten
    dsimp only
    split
    · rename_i hm
      rw [superviseBreaker_eq, protecting_breakerRec (s := s) hm, if_pos (show s.mode = .protecting from hm)]
      exact mapWritten_of_atRest (s := (s.putBreakerRecord b x).setInput b _) hr
    · rename_i hm
      rw [if_neg (show ¬ s.mode = .protecting from hm)]
      exact (State.setInput_self (s.putBreakerRecord b x) b).symm
  unfold State.writeBreaker
  rw [hput]
  exact markWritten_quiet (s := s) (u := (s.putBreakerRecord b x).setInput b (s.inputWritten b x)) _ hq rfl

theorem inputWritten_eq (s : State) (b : BreakerId) (x : BreakerRecord) :
    s.inputWritten b x =
      if s.mode = .protecting ∧ (look s.sets.working.breakers b).inUse = false ∧ x.inUse = true
          ∧ (s.input b).position = .unknown then
        { s.input b with unknownTimer := some (s.now + 1000000) }
      else if s.mode = .protecting ∧ (look s.sets.working.breakers b).inUse = true ∧ x.inUse = false then
        { s.input b with unknownTimer := none, positionFault := false }
      else s.input b := by
  by_cases hm : s.mode = .protecting <;> simp [State.inputWritten, State.supervised, hm]

/-- Settles O47: the checks in the order of Table 10-3, then the record replaced and the breaker supervised. -/
theorem writeBreakerSupervises : Obligations.WriteBreakerSupervises := by
  intro s p r hs hq hrest hk h0 refused badField
  have hrow := row_writeBreaker hk h0
  have hnone : r.breakerRecord = none ↔ badField := breakerRecord_none r
  refine ⟨fun h => complete_effect hs hrow (writeBreakerBody_outOfRange p h) rfl,
    fun h hb => complete_effect hs hrow (writeBreakerBody_badField p h (hnone.mpr hb)) rfl,
    fun hb => Option.ne_none_iff_exists'.mp (mt hnone.mp hb), fun b x hb hx => ?_⟩
  intro w old ok held
  have hbody := writeBreakerBody_checks p (s := s) hb hx
  have hok := breakerStructureOk_iff w x
  have hheld : s.holdsMet (old.sideZones ++ x.sideZones) = true ↔ (s.mode = .protecting → held) := holdsMet_iff hs.1 _
  refine ⟨mem_sideZones x, fun hst => ?_, fun hst hm hno => ?_, fun hst hh => ?_⟩
  · rw [if_pos (Bool.eq_false_iff.mpr (mt hok.mp hst))] at hbody
    exact complete_effect hs hrow hbody rfl
  · rw [if_neg (by rw [hok.mpr hst]; simp), if_neg fun h => hno (hheld.mp h hm)] at hbody
    exact complete_effect hs hrow hbody rfl
  · rw [if_neg (by rw [hok.mpr hst]; simp), if_pos (hheld.mpr hh), writeBreaker_atRest hq hrest, State.setSets_sets,
      breakerWritten_breaker, if_congr (breaker_clamped_iff x) rfl rfl] at hbody
    have hsame : SameBut [.inputs, .sets] s
        ((s.setInput b (s.inputWritten b x.clamped)).setSets (s.breakerWritten b x.clamped)) :=
      sameBut_setSets (by simp [SameBut]) _ (by decide)
    obtain ⟨t, hexec, hans, hafter⟩ := complete_effect hs hrow hbody rfl
    refine ⟨t, hexec, hans, hafter.sets (by decide), ?_, fun a ha => ?_,
      SameBut.trans (hsame.mono (by simp)) (hafter.mono (by simp))⟩
    · rw [hafter.input _ (by decide), State.setSets_input, State.setInput_input, if_pos rfl]
      exact inputWritten_eq s b x.clamped
    · rw [hafter.input _ (by decide), State.setSets_input, State.setInput_input, if_neg (Ne.symm ha)]

end Sys2Proof.Machine
end

section
/-! PROOF. The map's inputs (sections 2.4, 2.5): the contact and current lines, their timers, and what the filtered current
and the position do at the breaker's trip state. -/

namespace Sys2Proof.Machine

open Sys2Proof Sys2Proof.Safety

/-! ### The meaning of the map's commands -/

section
variable (s : State) (b : BreakerId)

theorem exec_contactLineChange_eq (bpc bpo : Bool) :
    exec (.contactLineChange b bpc bpo) s = execContactLineChange b bpc bpo s := rfl

theorem exec_currentLineChange_eq (level : Bool) :
    exec (.currentLineChange b level) s = execCurrentLineChange b level s := rfl

theorem exec_positionFaultTimerExpiry_eq :
    exec (.positionFaultTimerExpiry b) s = execPositionFaultTimerExpiry b s := rfl

theorem exec_positionChange_eq : exec (.positionChange b) s = execPositionChange b s := rfl

end

/-! ### Reports at the trip supervision unit (R64 to R67) -/

/-- The opened condition (R64). -/
theorem hasOpened_iff (s : State) (b : BreakerId) :
    s.hasOpened b = true ↔
      (s.input b).position = .opened ∧ ((s.breakerRec b).ccUsed = true → (s.input b).current = false) := by
  simp only [State.hasOpened, State.isOpen, Bool.and_eq_true, beq_iff_eq, Bool.or_eq_true, Bool.not_eq_true']
  cases (s.breakerRec b).ccUsed <;> simp

/-- A breaker that does not hold its minimum pulse and is not found opened hears no report. -/
theorem tripReport_quiet {s : State} {b : BreakerId} (hh : (s.trip b).phase ≠ .holding)
    (ho : (s.trip b).phase = .driving ∨ (s.trip b).phase = .failed → s.hasOpened b = false) : s.tripReport b = s := by
  unfold State.tripReport
  cases hp : (s.trip b).phase with
  | idle | openDone | spent => rfl
  | holding => exact absurd hp hh
  | driving => simp [ho (.inl hp)]
  | failed => simp [ho (.inr hp)]

/-- A HOLDING breaker that is no longer opened returns to DRIVING (R66). -/
theorem tripReport_returns {s : State} {b : BreakerId} (hh : (s.trip b).phase = .holding) (ho : s.hasOpened b = false) :
    s.tripReport b = s.returnToDriving b := by
  simp [State.tripReport, hh, ho]

section
variable (s : State) (b : BreakerId)

/-- The return to DRIVING touches the trip record and the orders of the demand set. -/
theorem returnToDriving_same : SameBut [.trips, .orders] s (s.returnToDriving b) :=
  SameBut.trans (t := s.setTrip b _) (by simp [SameBut]) ((clearOutcomes_same _ b).mono (by simp))

theorem returnToDriving_trip : (s.returnToDriving b).trip b =
    { s.trip b with phase := .driving, bfTimer := some (s.now + (s.breakerRec b).bfTime * 1000) } := by
  rw [State.returnToDriving, (clearOutcomes_same _ b).trip _ (by decide), State.setTrip_trip, if_pos rfl]
  rfl

theorem returnToDriving_onlyTrip : OnlyTrip s (s.returnToDriving b) b := fun a ha => by
  rw [State.returnToDriving, (clearOutcomes_same _ b).trip _ (by decide), State.setTrip_trip, if_neg (Ne.symm ha)]

theorem returnToDriving_order (o : SlotId) : (s.returnToDriving b).order o =
    if (s.trip b).demands.has o = true then (s.order o).map (clearedOf b) else s.order o := by
  rw [State.returnToDriving, clearOutcomes_spec, State.setTrip_trip, if_pos rfl, State.setTrip_order]

end

/-! ### Lines and timers (R36, R37, R39, R41) -/

section
variable {s : State} {b : BreakerId}

/-- A change of one breaker's inputs is no event for the quiet timer (R134). -/
theorem settleQuiet_setInput (hq : QuietOk s) (b : BreakerId) (i : Inputs) :
    (s.setInput b i).settleQuiet = s.setInput b i := settleQuiet_of_quietOk _ hq

/-- Where the batch and the zones stand as under a settled quiet timer, nothing is to settle (R134). -/
theorem settleQuiet_of_same {ps : List Part} {t : State} (hq : QuietOk s) (h : SameBut ps s t)
    (hb : Part.batch ∉ ps := by decide) (hz : Part.zones ∉ ps := by decide) : t.settleQuiet = t :=
  settleQuiet_of_quietOk _ (hq.of_eq (h.batch hb) (h.anyBright hz))

variable (hs : s.inService = true)
include hs

theorem exec_contactLineChange {bpc bpo : Bool} (h : ¬ ((s.input b).bpc = bpc ∧ (s.input b).bpo = bpo)) :
    exec (.contactLineChange b bpc bpo) s =
      .next (s.setInput b { s.input b with bpc := bpc, bpo := bpo, stability := some (s.now + 3000) }) := by
  rw [exec_contactLineChange_eq, execContactLineChange, if_neg h, hs]
  rfl

theorem exec_currentLineChange {level : Bool} (h : (s.input b).curLine ≠ level) :
    exec (.currentLineChange b level) s =
      .next (s.setInput b { s.input b with
        curLine := level
        filterTimer := if level = (s.input b).current then none else some (s.now + 100) }) := by
  rw [exec_currentLineChange_eq, execCurrentLineChange, if_neg h, hs]
  rfl

theorem exec_positionFaultTimerExpiry (h : (s.input b).unknownTimer.isSome = true) :
    exec (.positionFaultTimerExpiry b) s =
      .next (s.setInput b { s.input b with unknownTimer := none, positionFault := true }) := by
  rw [exec_positionFaultTimerExpiry_eq, execPositionFaultTimerExpiry, hs, h]
  rfl

end

/-! ### The filter timer's end (R42) -/

/-- The inputs of breaker `b` with the filtered current at the line's level. -/
def State.currentTaken (s : State) (b : BreakerId) : Inputs :=
  { s.input b with filterTimer := none, current := (s.input b).curLine }

section
variable {s : State} {b : BreakerId}

/-- A current that asserts with no zone LIT is no event for the arc decision unit (R55). -/
theorem currentAsserted_unlit {u : State} (h : ∀ z, (u.zone z).prot ≠ .lit) : u.currentAsserted b = u :=
  evaluateWhere_dark _ h

/-- The reports of a filtered current's change: an assertion to the arc decision unit first (R42). -/
theorem currentSettled_eq (s : State) (b : BreakerId) : s.currentSettled b =
    if (s.input b).curLine = (s.input b).current then s.setInput b (s.currentTaken b)
    else if (s.input b).curLine then ((s.setInput b (s.currentTaken b)).currentAsserted b).tripReport b
    else (s.setInput b (s.currentTaken b)).tripReport b := rfl

theorem currentSettled_quiet (hh : (s.trip b).phase ≠ .holding)
    (ho : (s.trip b).phase = .driving ∨ (s.trip b).phase = .failed →
      (s.input b).position ≠ .opened ∨ ((s.breakerRec b).ccUsed = true ∧ (s.input b).curLine = true))
    (hunlit : (s.input b).curLine = true → ∀ z, (s.zone z).prot ≠ .lit) :
    s.currentSettled b = s.setInput b (s.currentTaken b) := by
  have hreport : (s.setInput b (s.currentTaken b)).tripReport b = s.setInput b (s.currentTaken b) := by
    refine tripReport_quiet (by simpa using hh) fun hp => Bool.eq_false_iff.mpr fun hop => ?_
    obtain ⟨hpos, hcur⟩ := (hasOpened_iff _ _).mp hop
    simp only [State.setInput_input, if_true, State.setInput_breakerRec, State.currentTaken] at hpos hcur
    rcases ho (by simpa using hp) with hne | ⟨hcc, hline⟩
    · exact hne hpos
    · rw [hcur hcc] at hline; cases hline
  rw [currentSettled_eq]
  split
  · rfl
  · split
    · rename_i hline
      rw [currentAsserted_unlit (u := s.setInput b (s.currentTaken b)) (hunlit hline), hreport]
    · exact hreport

/-- A current ASSERTED again at a HOLDING breaker (R66). -/
theorem currentSettled_returns (hline : (s.input b).curLine = true) (hcur : (s.input b).current = false)
    (hunlit : ∀ z, (s.zone z).prot ≠ .lit) (hh : (s.trip b).phase = .holding) (hcc : (s.breakerRec b).ccUsed = true) :
    s.currentSettled b = (s.setInput b (s.currentTaken b)).returnToDriving b := by
  have hop : (s.setInput b (s.currentTaken b)).hasOpened b = false := Bool.eq_false_iff.mpr fun hop => by
    have := ((hasOpened_iff _ _).mp hop).2 (by simpa using hcc)
    simp [State.currentTaken, hline] at this
  rw [currentSettled_eq, if_neg (by rw [hline, hcur]; simp), if_pos hline,
    currentAsserted_unlit (u := s.setInput b (s.currentTaken b)) hunlit]
  exact tripReport_returns (by simpa using hh) hop

theorem exec_filteredCurrentChange (hs : s.inService = true) (ht : (s.input b).filterTimer.isSome = true) :
    exec (.filteredCurrentChange b) s = .next (s.currentSettled b).settleQuiet := by
  simp [exec_filteredCurrentChange_eq, execFilteredCurrentChange, hs, ht]

/-- A HOLDING breaker whose inputs became `i` has returned to DRIVING (R63, R66). -/
theorem returned_effect (s : State) (b : BreakerId) (i : Inputs) :
    let t := (s.setInput b i).returnToDriving b
    t.input b = i ∧ (∀ a, a ≠ b → t.input a = s.input a)
      ∧ t.trip b = { s.trip b with
          phase := .driving, bfTimer := some (s.now + (s.breakerRec b).bfTime * 1000) } ∧ OnlyTrip s t b
      ∧ (∀ o, t.order o = if (s.trip b).demands.has o then (s.order o).map (clearedOf b) else s.order o)
      ∧ SameBut [.inputs, .trips, .orders] s t := by
  have hsame := returnToDriving_same (s.setInput b i) b
  have hput : SameBut [.inputs] s (s.setInput b i) := by simp [SameBut]
  refine ⟨(hsame.input b (by decide)).trans (by simp), fun a ha => (hsame.input a (by decide)).trans (by simp [Ne.symm ha]),
    returnToDriving_trip (s.setInput b i) b, returnToDriving_onlyTrip (s.setInput b i) b,
    returnToDriving_order (s.setInput b i) b, SameBut.trans (hput.mono (by simp)) (hsame.mono (by simp))⟩

end

/-- Settles O11. -/
theorem inputLinesAndTimers : Obligations.InputLinesAndTimers := by
  intro s b hs taken unlit
  refine ⟨fun _ _ => exec_contactLineChange hs, fun _ => exec_currentLineChange hs, exec_positionFaultTimerExpiry hs,
    fun hq ht hh ho hunlit => ?_, fun hq ht hline hcur hunlit hh hcc => ?_⟩
  · rw [exec_filteredCurrentChange hs ht, currentSettled_quiet hh ho hunlit, settleQuiet_setInput hq]
    rfl
  · have heffect := returned_effect s b (s.currentTaken b)
    refine ⟨_, ?_, heffect⟩
    rw [exec_filteredCurrentChange hs ht, currentSettled_returns hline hcur hunlit hh hcc]
    obtain ⟨-, -, -, -, -, hsame⟩ := heffect
    rw [settleQuiet_of_same hq hsame]

/-! ### The stability timer's end (R37, R39, R40) -/

/-- The raw position, by the contact pair (Table 2-4). -/
theorem rawPosition_iff (bpc bpo : Bool) :
    (rawPosition bpc bpo = .closed ↔ bpc = true ∧ bpo = false)
      ∧ (rawPosition bpc bpo = .opened ↔ bpc = false ∧ bpo = true)
      ∧ (rawPosition bpc bpo = .unknown ↔ bpc = bpo) := by
  cases bpc <;> cases bpo <;> simp [rawPosition]

/-- The raw position of breaker `b`. -/
def State.rawOf (s : State) (b : BreakerId) : Position := rawPosition (s.input b).bpc (s.input b).bpo

/-- The inputs of breaker `b` when its position takes the raw value. -/
def State.moved (s : State) (b : BreakerId) : Inputs :=
  { s.input b with
    stability := none
    position := s.rawOf b
    unknownTimer :=
      if s.rawOf b = .unknown then
        (if (s.breakerRec b).inUse = true then some (s.now + 1000000) else (s.input b).unknownTimer)
      else none
    positionFault := if s.rawOf b = .unknown then (s.input b).positionFault else false
    closedAgainstLockout := (s.input b).closedAgainstLockout || (decide (s.rawOf b = .closed) && s.locked b) }

/-- The state when the position has taken the raw value, before the reports of the change. -/
def State.positionMoved (s : State) (b : BreakerId) : State := s.setInput b (s.moved b)

section
variable (s : State) (b : BreakerId)

theorem moved_position : (s.moved b).position = s.rawOf b := rfl

theorem positionMoved_def : s.positionMoved b = s.setInput b (s.moved b) := rfl

theorem positionMoved_same : SameBut [.inputs] s (s.positionMoved b) := by simp [SameBut, positionMoved_def]

theorem positionMoved_input (a : BreakerId) :
    (s.positionMoved b).input a = if b = a then s.moved b else s.input a := State.setInput_input ..

theorem positionMoved_boundary (m : Marks 12) : (s.positionMoved b).boundary m = s.boundary m := rfl

theorem positionMoved_isOpen (a : BreakerId) :
    (s.positionMoved b).isOpen a = if b = a then s.rawOf b == .opened else s.isOpen a := by
  rw [State.isOpen, positionMoved_input]
  split
  · rfl
  · rfl

/-- The reports of a position change: the trip supervision unit first, and at a leaving of OPEN the arc decision unit
(R37). -/
theorem positionSettled_eq : s.positionSettled b =
    if s.rawOf b = (s.input b).position then s.setInput b { s.input b with stability := none }
    else if (s.input b).position = .opened ∧ s.rawOf b ≠ .opened then ((s.positionMoved b).tripReport b).leftOpen b
    else (s.positionMoved b).tripReport b := by
  have hmove : (s.setInput b { s.input b with stability := none }).movePosition b (s.rawOf b) = s.positionMoved b := by
    unfold State.movePosition
    rw [State.setInput_setInput, State.setInput_input, if_pos rfl]
    rfl
  rw [← hmove]
  rfl

theorem positionSettled_same {s : State} {b : BreakerId} (h : s.rawOf b = (s.input b).position) :
    s.positionSettled b = s.setInput b { s.input b with stability := none } := by
  rw [positionSettled_eq, if_pos h]

theorem positionSettled_changes {s : State} {b : BreakerId} (h : s.rawOf b ≠ (s.input b).position)
    (hl : ¬ ((s.input b).position = .opened ∧ s.rawOf b ≠ .opened)) :
    s.positionSettled b = (s.positionMoved b).tripReport b := by
  rw [positionSettled_eq, if_neg h, if_neg hl]

theorem exec_positionChange {s : State} {b : BreakerId} (hs : s.inService = true)
    (ht : (s.input b).stability.isSome = true) :
    exec (.positionChange b) s = .next (s.positionSettled b).settleQuiet := by
  simp [exec_positionChange_eq, execPositionChange, hs, ht]

end

/-! ### A breaker that leaves OPEN, at the arc decision unit (R55, R68) -/

/-- The order `x` that lists breaker `b`: appended at the order's level where it was not listed (R68). -/
def listedIn (b : BreakerId) (x : Order) : Order :=
  if x.lists b = true then x
  else { x with resolution := none, closeTimer := none, entries := x.entries ++ [openEntry x.level b] }

theorem listedIn_def (b : BreakerId) (x : Order) : listedIn b x =
    if x.lists b = true then x
    else { x with resolution := none, closeTimer := none, entries := x.entries ++ [openEntry x.level b] } := rfl

theorem lists_iff (x : Order) (b : BreakerId) : x.lists b = true ↔ ∃ e, e ∈ x.entries ∧ e.breaker = b := by
  simp [Order.lists]

theorem listedIn_lists (b : BreakerId) (x : Order) : ∃ e, e ∈ (listedIn b x).entries ∧ e.breaker = b := by
  rw [listedIn_def]
  split
  · rename_i h; exact (lists_iff x b).mp h
  · exact ⟨openEntry x.level b, by simp, rfl⟩

theorem listedIn_open {b : BreakerId} {x : Order} (h : ∃ e, e ∈ x.entries ∧ e.breaker ≠ b ∧ e.outcome = none) :
    ∃ e, e ∈ (listedIn b x).entries ∧ e.breaker ≠ b ∧ e.outcome = none := by
  obtain ⟨e, he, hne, ho⟩ := h
  refine ⟨e, ?_, hne, ho⟩
  rw [listedIn_def]
  split
  · exact he
  · exact List.mem_append_left _ he

/-- Clearing an outcome keeps what the order lists and its span. -/
theorem clearedOf_lists (a b : BreakerId) (x : Order) : (clearedOf b x).lists a = x.lists a := by
  unfold clearedOf
  split
  · simp only [Order.lists, List.any_map]
    congr 1
    funext e
    simp only [Function.comp_apply]
    split <;> rfl
  · rfl

theorem clearedOf_span (b : BreakerId) (x : Order) : (clearedOf b x).span = x.span := by
  unfold clearedOf; split <;> rfl

section
variable {u : State} {b : BreakerId} {o : SlotId} {x : Order}

theorem onBoundary_iff (m : Marks 12) :
    b ∈ u.boundary m ↔ (u.breakerRec b).onBoundary m = true := by
  simp [State.boundary, ids, List.mem_finRange]

theorem closeOnto_none (h : u.order o = none) : u.closeOnto b o = u := by simp [State.closeOnto, h]

theorem closeOnto_off (hx : u.order o = some x) (h : b ∉ u.boundary x.span) : u.closeOnto b o = u := by
  rw [onBoundary_iff] at h
  simp [State.closeOnto, hx, h]

theorem closeOnto_on (hx : u.order o = some x) (h : b ∈ u.boundary x.span) :
    u.closeOnto b o = (u.setOrder o (some (listedIn b x))).demandQueue o [b] := by
  rw [onBoundary_iff] at h
  have hlisted : (if x.lists b then x else x.append [b]) = listedIn b x := by
    rw [listedIn_def]; rfl
  simp only [State.closeOnto, hx, h, if_true, hlisted]

/-- A single demand whose escalation appends nothing. -/
theorem demandQueue_once (h : (u.demand o b).2 = []) : u.demandQueue o [b] = (u.demand o b).1 := by
  have hpair : u.demand o b = ((u.demand o b).1, []) := Prod.ext rfl h
  rw [demandQueue_single hpair List.nodup_nil (by simp)]
  rfl

/-- A demand that reaches a DRIVING breaker which the order demands already changes nothing (Table 3-6). -/
theorem closeOnto_driving (hx : u.order o = some x) (hl : x.lists b = true) (hd : (u.trip b).demands.has o = true)
    (hp : (u.trip b).phase = .driving) : u.closeOnto b o = u := by
  by_cases hb : b ∈ u.boundary x.span
  · have hdemand : u.demand o b = (u, []) := by
      have hadd : u.addDemand o b = u := by
        unfold State.addDemand
        rw [Marks.add_of_has _ _ hd]
        exact State.setTrip_self u b
      simp only [State.demand, hadd, hp]
    rw [closeOnto_on hx hb, listedIn_def, if_pos hl, setOrder_of_eq hx, demandQueue_once (by rw [hdemand]), hdemand]
  · exact closeOnto_off hx hb

/-- Where no order's processing acts and no zone is LIT, a leaving of OPEN changes nothing. -/
theorem leftOpen_idle (h : ∀ o, u.closeOnto b o = u) (hunlit : ∀ z, (u.zone z).prot ≠ .lit) : u.leftOpen b = u := by
  have hfold : (if (u.breakerRec b).inUse then (ids 12).foldl (fun s o => s.closeOnto b o) u else u) = u := by
    split
    · exact foldl_id _ _ fun o _ => h o
    · rfl
  unfold State.leftOpen
  dsimp only
  rw [hfold]
  exact evaluateWhere_dark _ hunlit

/-- With one active order, a leaving of OPEN on the boundary of its span is its demand, while no zone is LIT (R68). -/
theorem leftOpen_one (hx : u.order o = some x) (hone : ∀ q, q ≠ o → u.order q = none) (hb : b ∈ u.boundary x.span)
    {t : State} (ht : (u.setOrder o (some (listedIn b x))).demandQueue o [b] = t)
    (hnone : ∀ q, q ≠ o → t.order q = none) (hunlit : ∀ z, (t.zone z).prot ≠ .lit) : u.leftOpen b = t := by
  have hfirst : u.closeOnto b o = t := (closeOnto_on hx hb).trans ht
  have hfold : (ids 12).foldl (fun s o => s.closeOnto b o) u = t := by
    refine (foldl_ids_one o (fun q hq => closeOnto_none (hone q hq)) fun q hq => ?_).trans hfirst
    rw [hfirst]; exact closeOnto_none (hnone q hq)
  obtain ⟨huse, -⟩ := (mem_boundary u x.span b).mp hb
  unfold State.leftOpen
  dsimp only
  rw [if_pos huse, hfold]
  exact evaluateWhere_dark _ hunlit

/-- The demand of one order for a breaker in IDLE: driven, locked, and its outcome cleared (Table 3-6, R63, R91). -/
theorem demandQueue_idle {y : Order} (hs : u.inService = true) (hi : (u.trip b).phase = .idle)
    (hone : ∀ q, q ≠ o → u.order q = none) :
    let t := (u.setOrder o (some y)).demandQueue o [b]
    Demanded u t o [b] ∧ t.order o = some (clearedOf b y) ∧ (∀ q, q ≠ o → t.order q = none)
      ∧ SameBut [.trips, .orders, .lockout] u t := by
  intro t
  have hput : SameBut [.orders] u (u.setOrder o (some y)) := by simp [SameBut]
  have hi' : ((u.setOrder o (some y)).trip b).phase = .idle := hi
  obtain ⟨hnil, htrip, hother, hlocked, -, hsame⟩ := demand_idle_spec (u.setOrder o (some y)) o b hi'
  have hdemand : (u.setOrder o (some y)).demand o b =
      (((((u.setOrder o (some y)).addDemand o b).drive b).lock b).clearOutcomes b, []) := by
    simp [State.demand, State.addDemand, hi]
  have ht : t = ((u.setOrder o (some y)).demand o b).1 := demandQueue_once hnil
  have horder : ∀ q, t.order q = if o = q then some (clearedOf b y) else u.order q := by
    intro q
    rw [ht, hdemand, clearOutcomes_spec]
    simp only [lock_trip, lock_order, State.drive, State.addDemand, State.setTrip_trip, State.setTrip_order,
      State.setOrder_trip, State.setOrder_order, if_true, Marks.has_add]
    by_cases hq : o = q
    · subst hq; simp
    · simp [hq, hone q (Ne.symm hq)]
  rw [← ht] at htrip hother hlocked hsame
  have hall : SameBut [.trips, .orders, .lockout] u t := SameBut.trans (hput.mono (by simp)) hsame
  refine ⟨⟨fun a ha => ?_, fun a ha => ?_⟩, by rw [horder, if_pos rfl],
    fun q hq => by rw [horder, if_neg (Ne.symm hq), hone q hq], hall⟩
  · rw [List.mem_singleton] at ha
    subst ha
    have hdriven : t.trip a = drivenFor u o a := htrip
    exact ⟨hdriven, by rw [hlocked]; simp, by
      rw [State.tripLine, hall.inService (by decide), hs, hdriven]; rfl⟩
  · rw [List.mem_singleton] at ha
    exact ⟨hother a ha, by rw [hlocked]; simp [Ne.symm ha]⟩

end

/-! ### The position change, by the trip state -/

section
variable {s : State} {b : BreakerId}

/-- A breaker that is no longer OPEN, and does not hold its minimum pulse, is not found opened. -/
theorem positionMoved_tripReport (hh : (s.trip b).phase ≠ .holding)
    (ho : (s.trip b).phase = .driving ∨ (s.trip b).phase = .failed → s.rawOf b ≠ .opened) :
    (s.positionMoved b).tripReport b = s.positionMoved b := by
  refine tripReport_quiet hh fun hp => Bool.eq_false_iff.mpr fun hop => ho hp ?_
  obtain ⟨hpos, -⟩ := (hasOpened_iff _ _).mp hop
  rwa [positionMoved_input, if_pos rfl, moved_position] at hpos

variable (hleaves : (s.input b).position = .opened ∧ s.rawOf b ≠ .opened)
include hleaves

theorem positionSettled_leaves : s.positionSettled b = ((s.positionMoved b).tripReport b).leftOpen b := by
  rw [positionSettled_eq, if_neg fun h => hleaves.2 (h.trans hleaves.1), if_pos hleaves]

/-- The trip supervision unit hears nothing of a leaving of OPEN but at a HOLDING breaker. -/
theorem positionSettled_leftOpen (hh : (s.trip b).phase ≠ .holding) :
    s.positionSettled b = (s.positionMoved b).leftOpen b := by
  rw [positionSettled_leaves hleaves, positionMoved_tripReport hh fun _ => hleaves.2]

/-- A HOLDING breaker leaves OPEN: it returns to DRIVING, and the orders that it stands in demand it already (R66). -/
theorem positionSettled_returns (hh : (s.trip b).phase = .holding) (hunlit : ∀ z, (s.zone z).prot ≠ .lit)
    (hlisted : ∀ o x, s.order o = some x → b ∈ s.boundary x.span → (s.trip b).demands.has o = true ∧ x.lists b = true) :
    s.positionSettled b = (s.positionMoved b).returnToDriving b := by
  have hop : (s.positionMoved b).hasOpened b = false := Bool.eq_false_iff.mpr fun hop => by
    obtain ⟨hpos, -⟩ := (hasOpened_iff _ _).mp hop
    rw [positionMoved_input, if_pos rfl, moved_position] at hpos
    exact hleaves.2 hpos
  obtain ⟨-, -, htrip, -, horder, hsame⟩ := returned_effect s b (s.moved b)
  rw [positionSettled_leaves hleaves, tripReport_returns (s := s.positionMoved b) hh hop, positionMoved_def]
  generalize (s.setInput b (s.moved b)).returnToDriving b = t at *
  refine leftOpen_idle (fun o => ?_) fun z => by rw [hsame.zone _ (by decide)]; exact hunlit z
  have hbound : ∀ m, t.boundary m = s.boundary m := fun m =>
    List.filter_congr fun a _ => by rw [hsame.breakerRec _ (by decide) (by decide)]
  cases hx : s.order o with
  | none => exact closeOnto_none (by rw [horder, hx]; split <;> rfl)
  | some x =>
    obtain ⟨y, hy, hspan, hlists⟩ : ∃ y, t.order o = some y ∧ y.span = x.span ∧ y.lists b = x.lists b := by
      rw [horder, hx]
      split
      · exact ⟨_, rfl, clearedOf_span b x, clearedOf_lists b b x⟩
      · exact ⟨x, rfl, rfl, rfl⟩
    by_cases hb : b ∈ s.boundary x.span
    · obtain ⟨hd, hl⟩ := hlisted o x hx hb
      exact closeOnto_driving hy (hlists.trans hl) (by rw [htrip]; exact hd) (by rw [htrip])
    · exact closeOnto_off hy (by rw [hbound, hspan]; exact hb)

/-- A leaving of OPEN off every active order's boundary, with no zone LIT. -/
theorem positionSettled_off (hh : (s.trip b).phase ≠ .holding)
    (hoff : ∀ o x, s.order o = some x → b ∉ s.boundary x.span) (hunlit : ∀ z, (s.zone z).prot ≠ .lit) :
    s.positionSettled b = s.positionMoved b := by
  rw [positionSettled_leftOpen hleaves hh]
  refine leftOpen_idle (fun o => ?_) hunlit
  cases hx : s.order o with
  | none => exact closeOnto_none hx
  | some x => exact closeOnto_off hx (hoff o x hx)

section
variable {o : SlotId} {x : Order} (hs : s.inService = true) (hunlit : ∀ z, (s.zone z).prot ≠ .lit)
  (hx : s.order o = some x) (hone : ∀ q, q ≠ o → s.order q = none) (hb : b ∈ s.boundary x.span)
include hs hunlit hx hone hb

/-- An IDLE breaker leaves OPEN on the boundary of the one active order's span (R68). -/
theorem positionSettled_appends (hi : (s.trip b).phase = .idle) :
    let t := s.positionSettled b
    t.input b = s.moved b ∧ (∀ a, a ≠ b → t.input a = s.input a) ∧ Demanded s t o [b]
      ∧ t.order o = some (clearedOf b (listedIn b x)) ∧ OnlyOrder s t o
      ∧ SameBut [.inputs, .trips, .orders, .lockout] s t := by
  have hmoved := positionMoved_same s b
  obtain ⟨hdem, horder, hnone, hsame⟩ := demandQueue_idle (u := s.positionMoved b) (o := o) (y := listedIn b x) hs hi hone
  have hleft := leftOpen_one (u := s.positionMoved b) hx hone hb rfl hnone fun z => by
    rw [hsame.zone _ (by decide)]; exact hunlit z
  intro t
  have ht : t = _ := (positionSettled_leftOpen hleaves (by rw [hi]; decide)).trans hleft
  rw [← ht] at hdem horder hnone hsame
  refine ⟨?_, fun a ha => ?_, demanded_congr hdem hmoved, horder, fun q hq => by rw [hnone q hq, hone q hq],
    SameBut.trans (hmoved.mono (by simp)) (hsame.mono (by simp))⟩
  · rw [hsame.input _ (by decide), positionMoved_input, if_pos rfl]
  · rw [hsame.input _ (by decide), positionMoved_input, if_neg (Ne.symm ha)]

/-- A breaker in another trip state leaves OPEN there: the order's demand is taken (Table 3-6). -/
theorem positionSettled_demanded (hq : QuietOk s) (hi : (s.trip b).phase ≠ .idle) (hh : (s.trip b).phase ≠ .holding)
    (he : ∃ e, e ∈ x.entries ∧ e.breaker ≠ b ∧ e.outcome = none) :
    DemandTaken (s.positionMoved b) (.next (s.positionSettled b).settleQuiet) o (listedIn b x) b := by
  obtain ⟨e, hmem, hne, hopen⟩ := listedIn_open he
  have hfirst : OpenAt ((s.positionMoved b).setOrder o (some (listedIn b x))) o e.breaker :=
    ⟨listedIn b x, by simp, e, hmem, rfl, hopen⟩
  obtain ⟨-, hzones, hnone⟩ := staysOpen_demandQueue (l := [b]) hfirst (by simpa using hne)
  have hleft := leftOpen_one (u := s.positionMoved b) hx hone hb rfl
    (fun q hq => hnone q hq (by rw [State.setOrder_order, if_neg (Ne.symm hq)]; exact hone q hq))
    fun z => by rw [State.zone, hzones]; exact hunlit z
  rw [positionSettled_leftOpen hleaves hh, hleft]
  exact demandQueue_taken hs hq hi (by rw [positionMoved_isOpen, if_pos rfl]; simpa using hleaves.2) (listedIn_lists b x)
    (listedIn_open he)

end

/-- A leaving of OPEN at the one LIT zone's island, light-only, with no order active: an order is created (R55, R58, R61). -/
theorem positionSettled_creates {z : ZoneId} (hs : s.inService = true) (hi : (s.trip b).phase = .idle)
    (hno : ∀ o, s.order o = none) (hz : (s.zone z).prot = .lit) (hone : ∀ y, y ≠ z → (s.zone y).prot ≠ .lit)
    (hlight : (s.zoneRec z).lightOnly = true) (hbatch : s.batch.state = .idle) (hb : b ∈ s.boundary (s.island z))
    (hidle : ∀ a, a ∈ s.boundary (s.island z) → (s.trip a).phase = .idle) :
    let t := s.positionSettled b
    t.input b = s.moved b ∧ (∀ a, a ≠ b → t.input a = s.input a)
      ∧ t.zone z = { s.zone z with prot := .arc, alarmTimer := none, orderSlot := some 0 } ∧ OnlyZone s t z
      ∧ Created s t z 0 ((s.boundary (s.island z)).filter (fun a => a == b || !s.isOpen a))
      ∧ SameBut [.inputs, .zones, .orders, .trips, .lockout] s t := by
  have hmoved := positionMoved_same s b
  have htrip : (s.positionMoved b).tripSet (s.island z) =
      (s.boundary (s.island z)).filter (fun a => a == b || !s.isOpen a) := by
    refine List.filter_congr fun a _ => ?_
    rw [positionMoved_isOpen]
    by_cases hab : b = a
    · subst hab; simp [hleaves.2]
    · simp [hab, Ne.symm hab]
  have hmem : b ∈ (s.positionMoved b).tripSet (s.island z) := by
    rw [htrip]; exact List.mem_filter.mpr ⟨hb, by simp⟩
  obtain ⟨hzone, honly, hcreated, hsame⟩ := evaluate_creates (s := s.positionMoved b) (z := z) (o := 0) hz
    ((currentCondition_iff _ z).mpr (.inl hlight)) hs hbatch (List.ne_nil_of_mem hmem)
    (fun q w hw => by rw [hmoved.order _ (by decide), hno] at hw; cases hw) (hno 0)
    (fun q hq => absurd hq (by simp)) (fun a ha => hidle a ((mem_tripSet ..).mp ha).1)
    (fun q w a hw => by rw [hmoved.order _ (by decide), hno] at hw; cases hw)
  have hother : ∀ y, y ≠ z → (((s.positionMoved b).evaluate z).zone y).prot ≠ .lit := fun y hy => by
    rw [honly y hy]; exact hone y hy
  have hfold : (ids 12).foldl (fun s o => s.closeOnto b o) (s.positionMoved b) = s.positionMoved b :=
    foldl_id _ _ fun o _ => closeOnto_none (hno o)
  have hleft : (s.positionMoved b).leftOpen b = (s.positionMoved b).evaluate z := by
    unfold State.leftOpen
    dsimp only
    rw [hfold, ite_self]
    exact evaluateWhere_one _ z (List.contains_iff_mem.mpr hb) hone hother
  intro t
  have ht : t = _ := (positionSettled_leftOpen hleaves (by rw [hi]; decide)).trans hleft
  change Created _ _ z 0 ((s.positionMoved b).tripSet (s.island z)) at hcreated
  rw [htrip] at hcreated
  rw [← ht] at hzone honly hcreated hsame
  refine ⟨?_, fun a ha => ?_, hzone, honly, created_congr hcreated hmoved,
    SameBut.trans (hmoved.mono (by simp)) (hsame.mono (by simp))⟩
  · rw [hsame.input _ (by decide), positionMoved_input, if_pos rfl]
  · rw [hsame.input _ (by decide), positionMoved_input, if_neg (Ne.symm ha)]

end

/-- Settles O12: the stability timer's end by what the position change finds at the trip state, the orders and the zones. -/
theorem positionTakesRawValue : Obligations.PositionTakesRawValue := by
  intro s b hs hq ht raw moved listed leaves off unlit
  have hexec := exec_positionChange hs ht
  obtain ⟨hclosed, hopened, hunknown⟩ := rawPosition_iff (s.input b).bpc (s.input b).bpo
  refine ⟨hclosed, hopened, hunknown, fun heq => ?_, fun hne hh ho hl => ?_, fun hl hh hu hlisted => ?_,
    fun o x hl hi hu hx hone hb => ?_, fun o x hl hi hh hu hx hone hb he => ?_,
    fun z hl hi hno hz hone hlight hbatch hb hidle => ?_⟩
  · rw [hexec, positionSettled_same heq, settleQuiet_setInput hq]
  · have hstay : s.positionSettled b = s.positionMoved b := by
      by_cases hlv : leaves
      · exact positionSettled_off hlv hh (hl hlv).1 (hl hlv).2
      · rw [positionSettled_changes hne hlv, positionMoved_tripReport hh ho]
    rw [hexec, hstay, positionMoved_def, settleQuiet_setInput hq]
    rfl
  · have heffect := returned_effect s b (s.moved b)
    refine ⟨_, ?_, heffect⟩
    obtain ⟨-, -, -, -, -, hsame⟩ := heffect
    rw [hexec, positionSettled_returns hl hh hu hlisted, positionMoved_def,
      settleQuiet_of_same hq hsame]
  · have heffect := positionSettled_appends hl hs hu hx hone hb hi
    refine ⟨_, ?_, heffect⟩
    obtain ⟨-, -, -, -, -, hsame⟩ := heffect
    rw [hexec, settleQuiet_of_same hq hsame]
  · rw [hexec]
    exact positionSettled_demanded hl hs hu hx hone hb hq hi hh he
  · have heffect := positionSettled_creates hl hs hi hno hz hone hlight hbatch hb hidle
    refine ⟨_, ?_, heffect⟩
    obtain ⟨-, -, -, -, -, hsame⟩ := heffect
    rw [hexec, settleQuiet_of_not _ fun h => by rw [hsame.batch (by decide), hbatch] at h; cases h.1]

end Sys2Proof.Machine
end

section
/-! PROOF. Every step keeps the zone lists of the active orders and the bound on their levels (R58, R81): a step changes zones
and orders by five moves only, and each invariant needs to stand under those. -/

namespace Sys2Proof.Machine

open Sys2Proof Sys2Proof.Safety

/-! ### The moves of zones and orders -/

/-- The zone keeps its protection state and its order's slot. -/
def ZoneKept (x y : Zone) : Prop := y.prot = x.prot ∧ y.orderSlot = x.orderSlot

/-- The slot keeps its order's zone list, or stays empty, and no level passes 2 (R81). -/
def OrderKept (a b : Option Order) : Prop :=
  b.map Order.zones = a.map Order.zones ∧ ∀ x y, a = some x → b = some y → x.level ≤ 2 → y.level ≤ 2

theorem zoneKept_refl (x : Zone) : ZoneKept x x := ⟨rfl, rfl⟩

theorem orderKept_refl (a : Option Order) : OrderKept a a := ⟨rfl, fun x y hx hy hl => by
  rw [hx] at hy; cases hy; exact hl⟩

/-- A property of zones and orders that no move of a step breaks. -/
structure Orderly (P : State → Prop) : Prop where
  /-- Protection states, orders' slots and zone lists stay. -/
  kept : ∀ {s t}, P s → (∀ z, ZoneKept (s.zone z) (t.zone z)) → (∀ o, OrderKept (s.order o) (t.order o)) → P t
  /-- A zone goes from a state other than ARC to another one. -/
  moved : ∀ {s z y}, (s.zone z).prot ≠ .arc → y.prot ≠ .arc → P s → P (s.setZone z y)
  /-- A zone enters ARC and the zone list of its order, new or active (R58, R59). -/
  entered : ∀ {s z o x y}, (s.zone z).prot ≠ .arc → y.prot = .arc → y.orderSlot = some o →
    x.zones = ((s.order o).map Order.zones).getD [] ++ [z] → (((s.order o).map Order.level).getD 0 ≤ 2 → x.level ≤ 2) →
    P s → P ((s.setOrder o (some x)).setZone z y)
  /-- An order closes, and its zones leave ARC (R71). -/
  closed : ∀ {s t o x}, s.order o = some x → (∀ z, z ∈ x.zones → (t.zone z).prot ≠ .arc) →
    (∀ z, z ∉ x.zones → t.zone z = s.zone z) → t.orders = put s.orders o none → P s → P t
  /-- No order is active and no zone is ARC (R48, R58). -/
  empty : ∀ {t}, (∀ z, (t.zone z).prot ≠ .arc) → (∀ o, t.order o = none) → P t

/-! ### The two invariants under the moves -/

theorem order_put_none {s t : State} {o q : SlotId} {y : Order} (ht : t.orders = put s.orders o none)
    (hy : t.order q = some y) : q ≠ o ∧ s.order q = some y := by
  rw [State.order, ht, look_put] at hy
  split at hy
  · cases hy
  · rename_i hne; exact ⟨Ne.symm hne, hy⟩

theorem order_put_none_of_ne {s t : State} {o q : SlotId} (ht : t.orders = put s.orders o none) (hq : q ≠ o) :
    t.order q = s.order q := by
  rw [State.order, ht, look_put, if_neg (Ne.symm hq), State.order]

/-- An order's level is at most 2 (R81). -/
theorem orderly_levelBounded : Orderly LevelBounded where
  kept {s t} h _ ho o y hy := by
    obtain ⟨hzones, hlevel⟩ := ho o
    cases hx : s.order o with
    | none => rw [hx, hy] at hzones; cases hzones
    | some x => exact hlevel x y hx hy (h o x hx)
  moved _ _ h := h
  entered {s z o x y} _ _ _ _ hl h q w hw := by
    rw [State.setZone_order, State.setOrder_order] at hw
    split at hw
    · cases hw
      refine hl ?_
      cases hx : s.order o with
      | none => exact Nat.zero_le 2
      | some x₀ => exact h o x₀ hx
    · exact h q w hw
  closed _ _ _ ht h q y hy := h q y (order_put_none ht hy).2
  empty _ ho o x hx := by rw [ho] at hx; cases hx

/-- The zones of the active orders are the ARC zones (R58). -/
theorem orderly_ordersOk : Orderly OrdersOk where
  kept {s t} h hz ho := by
    obtain ⟨hlist, harc⟩ := h
    refine ⟨fun o y z hy hmem => ?_, fun z hp => ?_⟩
    · obtain ⟨x, hx, hxy⟩ := Option.map_eq_some_iff.mp ((ho o).1.symm.trans (congrArg _ hy))
      obtain ⟨hp, hslot⟩ := hlist o x z hx (hxy ▸ hmem)
      exact ⟨(hz z).1.trans hp, (hz z).2.trans hslot⟩
    · obtain ⟨o, x, hslot, hx, hmem⟩ := harc z ((hz z).1.symm.trans hp)
      obtain ⟨y, hy, hxy⟩ := Option.map_eq_some_iff.mp ((ho o).1.trans (congrArg _ hx))
      exact ⟨o, y, (hz z).2.trans hslot, hy, hxy ▸ hmem⟩
  moved {s z y} hz hy h := by
    obtain ⟨hlist, harc⟩ := h
    refine ⟨fun o x w hx hmem => ?_, fun w hp => ?_⟩
    · have hw := hlist o x w hx hmem
      rw [State.setZone_zone, if_neg (by rintro rfl; exact hz hw.1)]
      exact hw
    · rw [State.setZone_zone] at hp ⊢
      split at hp
      · exact absurd hp hy
      · rename_i hne; rw [if_neg hne]; exact harc w hp
  entered {s z o x y} hz hp hslot hx _ h := by
    obtain ⟨hlist, harc⟩ := h
    refine ⟨fun q w v hw hmem => ?_, fun v hv => ?_⟩
    · rw [State.setZone_order, State.setOrder_order] at hw
      rw [State.setZone_zone, State.setOrder_zone]
      by_cases hzv : z = v
      · subst hzv
        rw [if_pos rfl]
        split at hw
        · rename_i hoq; exact ⟨hp, hslot.trans (congrArg some hoq)⟩
        · exact absurd (hlist q w z hw hmem).1 hz
      · rw [if_neg hzv]
        split at hw
        · rename_i hoq
          subst hoq
          cases hw
          rw [hx, List.mem_append, List.mem_singleton] at hmem
          cases hx₀ : s.order o with
          | none => rw [hx₀] at hmem; simp [Ne.symm hzv] at hmem
          | some x₀ =>
            rw [hx₀] at hmem
            exact hlist o x₀ v hx₀ (hmem.resolve_right (Ne.symm hzv))
        · exact hlist q w v hw hmem
    · simp only [State.setZone_zone, State.setOrder_zone, State.setZone_order, State.setOrder_order] at hv ⊢
      by_cases hzv : z = v
      · subst hzv
        exact ⟨o, x, by rw [if_pos rfl]; exact hslot, by rw [if_pos rfl], by rw [hx]; simp⟩
      · rw [if_neg hzv] at hv ⊢
        obtain ⟨q, w, hq, hw, hmem⟩ := harc v hv
        by_cases hoq : o = q
        · subst hoq
          exact ⟨o, x, hq, by rw [if_pos rfl], by rw [hx, hw]; exact List.mem_append_left _ hmem⟩
        · exact ⟨q, w, hq, by rw [if_neg hoq]; exact hw, hmem⟩
  closed {s t o x} hx hout hin ht h := by
    obtain ⟨hlist, harc⟩ := h
    refine ⟨fun q y z hy hmem => ?_, fun z hp => ?_⟩
    · obtain ⟨hne, hsy⟩ := order_put_none ht hy
      obtain ⟨hp, hslot⟩ := hlist q y z hsy hmem
      have hz : z ∉ x.zones := fun hz => by
        have := (hlist o x z hx hz).2
        rw [hslot] at this
        exact hne (Option.some.inj this)
      rw [hin z hz]; exact ⟨hp, hslot⟩
    · have hz : z ∉ x.zones := fun hz => hout z hz hp
      rw [hin z hz] at hp ⊢
      obtain ⟨q, y, hslot, hy, hmem⟩ := harc z hp
      have hne : q ≠ o := by
        rintro rfl
        rw [hx] at hy; cases hy
        exact hz hmem
      exact ⟨q, y, hslot, (order_put_none_of_ne ht hne).trans hy, hmem⟩
  empty hz ho := ⟨fun o x z hx _ => absurd hx (by simp [ho o]), fun z hp => absurd hp (hz z)⟩

/-! ### What the changes of an order keep -/

theorem append_kept (x : Order) (bs : List BreakerId) : (x.append bs).zones = x.zones ∧ (x.append bs).level = x.level := by
  unfold Order.append; split <;> exact ⟨rfl, rfl⟩

theorem clearOutcome_kept (x : Order) (b : BreakerId) :
    (x.clearOutcome b).zones = x.zones ∧ (x.clearOutcome b).level = x.level := by
  unfold Order.clearOutcome; split <;> exact ⟨rfl, rfl⟩

/-- No zone that an order leaves is ARC (R71 step 4). -/
theorem leftArc_prot (s : State) (z : ZoneId) : (leftArc s z).prot ≠ .arc := by
  unfold leftArc; split
  · simp [Zone.unlit]
  · split <;> simp [Zone.unlit]

theorem holds_inProtecting {P : State → Prop} {s : State} (hs : P s) {f : State → State} (hf : P (f s)) :
    P (s.inProtecting f) := by
  unfold State.inProtecting; split
  · exact hf
  · exact hs

/-- A command that has its effect, or none. -/
theorem gives_effect {P : State → Prop} {s t : State} (hs : P s) {p : Prop} [Decidable p] (ht : P t) :
    Gives P (if p then .next t else .next s) := gives_ite (gives_next.mpr ht) (gives_next.mpr hs)

/-- A fold of operations that each keep a property. -/
theorem holds_foldl {P : State → Prop} {s : State} (hs : P s) {α : Type} {f : State → α → State}
    (hf : ∀ {s} a, P s → P (f s a)) (l : List α) : P (l.foldl f s) :=
  foldl_keeps (P := P) l (fun _ a _ hs => hf a hs) s hs

namespace Orderly

variable {P : State → Prop} (h : Orderly P) {s : State} (hs : P s)
include h hs

/-! ### The moves as they come -/

theorem of_eq {t : State} (hz : t.zones = s.zones) (ho : t.orders = s.orders) : P t :=
  h.kept hs (fun z => by rw [State.zone, State.zone, hz]; exact zoneKept_refl _)
    fun o => by rw [State.order, State.order, ho]; exact orderKept_refl _

theorem same {ps : List Part} {t : State} (k : SameBut ps s t) (hz : Part.zones ∉ ps := by decide)
    (ho : Part.orders ∉ ps := by decide) : P t := h.of_eq hs (k.zones hz) (k.orders ho)

theorem setZone {z : ZoneId} {y : Zone} (hy : ZoneKept (s.zone z) y) : P (s.setZone z y) :=
  h.kept hs (fun w => by
    rw [State.setZone_zone]; split
    · rename_i e; subst e; exact hy
    · exact zoneKept_refl _) fun _ => orderKept_refl _

theorem setOrder {o : SlotId} {x y : Order} (hx : s.order o = some x) (hz : y.zones = x.zones)
    (hl : x.level ≤ 2 → y.level ≤ 2) : P (s.setOrder o (some y)) :=
  h.kept hs (fun _ => zoneKept_refl _) fun q => by
    rw [State.setOrder_order]; split
    · rename_i e; subst e
      rw [hx]
      exact ⟨congrArg some hz, fun _ _ h₁ h₂ => by cases h₁; cases h₂; exact hl⟩
    · exact orderKept_refl _

theorem modifyOrder (o : SlotId) (f : Order → Order) (hf : ∀ x, (f x).zones = x.zones ∧ (f x).level = x.level) :
    P (s.modifyOrder o f) := by
  unfold State.modifyOrder; split
  · exact hs
  · rename_i x hx
    exact h.setOrder hs hx (hf x).1 (by rw [(hf x).2]; exact id)

theorem settleQuiet : P s.settleQuiet := h.same hs (settleQuiet_same s)

theorem sealed (b : RecordBody) : P (s.seal b) := h.same hs (seal_same s b)

/-! ### Zones -/

theorem enterDark {z : ZoneId} (hz : (s.zone z).prot ≠ .arc) : P (s.enterDark z) :=
  h.moved hz (by simp [Zone.unlit]) hs

theorem enterLit {z : ZoneId} (hz : (s.zone z).prot ≠ .arc) : P (s.enterLit z) :=
  h.same (h.moved hz (by simp [Zone.unlit]) hs) (noteLit_same _ z)

theorem enterHeld {z : ZoneId} (hz : (s.zone z).prot ≠ .arc) : P (s.enterHeld z) :=
  h.same (h.moved hz (by simp [Zone.unlit]) hs) (countClear_same _ z)

/-- A zone enters ARC with the order that a slot gets (R58, R59). -/
theorem enterArc {z : ZoneId} {o : SlotId} {x : Order} (hz : (s.zone z).prot ≠ .arc)
    (hx : x.zones = ((s.order o).map Order.zones).getD [] ++ [z])
    (hl : ((s.order o).map Order.level).getD 0 ≤ 2 → x.level ≤ 2) : P ((s.setOrder o (some x)).enterArc z o) :=
  h.same (h.entered hz rfl rfl hx hl hs) (noteArc_same _)

/-! ### Resolution and close -/

theorem closeOrder (o : SlotId) : P (s.closeOrder o) := by
  cases hx : s.order o with
  | none => rw [State.closeOrder, hx]; exact hs
  | some x =>
    obtain ⟨-, hzone, -, -, hord, -⟩ := closeOrder_spec hx
    refine h.closed hx (fun z hz => ?_) (fun z hz => ?_) hord hs
    · rw [hzone, if_pos hz]; exact leftArc_prot s z
    · rw [hzone, if_neg hz]

theorem testResolved (o : SlotId) : P (s.testResolved o) := by
  unfold State.testResolved; split
  · exact hs
  · rename_i x hx
    split
    · dsimp only; split
      · refine h.closeOrder (h.setOrder hs hx ?_ ?_) o
        · rfl
        · exact id
      · rw [State.setOrder_setOrder]; exact h.setOrder hs hx rfl id
    · exact hs

theorem testDarkClose (o : SlotId) : P (s.testDarkClose o) := by
  unfold State.testDarkClose; split
  · exact hs
  · split
    · exact h.closeOrder hs o
    · exact hs

theorem writeOutcome (b : BreakerId) (v : BreakerOutcome) (o : SlotId) : P (s.writeOutcome b v o) :=
  h.testResolved (h.modifyOrder hs o (fun x => x.withOutcome b v s.stamp) fun _ => ⟨rfl, rfl⟩) o

theorem writeOutcomes (b : BreakerId) (v : BreakerOutcome) : P (s.writeOutcomes b v) :=
  holds_foldl hs (fun o hs => h.writeOutcome hs b v o) (s.trip b).demands.members

theorem clearOutcomes (b : BreakerId) : P (s.clearOutcomes b) :=
  holds_foldl hs (fun o hs => h.modifyOrder hs o _ fun x => clearOutcome_kept x b) (s.trip b).demands.members

/-! ### Demands and escalation -/

/-- The span grows only below level 2 (R80, R81). -/
theorem growSpan {o : SlotId} {x : Order} (hx : s.order o = some x) (hl : x.level < 2) (far : ZoneId) :
    P (s.growSpan o x far).1 := by
  rw [growSpan_eq]; exact h.setOrder hs hx rfl fun _ => hl

theorem escalate (o : SlotId) (b : BreakerId) : P (s.escalate o b).1 := by
  unfold State.escalate; split
  · exact hs
  · rename_i x hx
    have hlimit : P (s.setOrder o (some { x with escLimit := true })) := h.setOrder hs hx rfl id
    dsimp only; split
    · split
      · exact h.modifyOrder (s := s.setUt _ _) (h.of_eq hs rfl rfl) o (fun y => { y with ut := y.ut.add _ })
          fun _ => ⟨rfl, rfl⟩
      · exact h.setOrder hs hx rfl id
    · split
      · exact hs
      · exact hs
      · split
        · rename_i hl; exact h.growSpan hs hx hl _
        · exact hlimit
      · split
        · exact hs
        · split
          · rename_i hl; exact h.growSpan hs hx hl _
          · exact hlimit

theorem demand (o : SlotId) (b : BreakerId) : P (s.demand o b).1 := by
  have hadd : P (s.addDemand o b) := h.of_eq hs rfl rfl
  have hdrive : P ((s.addDemand o b).drive b) := h.of_eq hadd rfl rfl
  unfold State.demand; dsimp only
  split
  · exact h.clearOutcomes (h.of_eq hdrive (lock_zones _ b) (lock_orders _ b)) b
  · exact hadd
  · exact h.writeOutcome hadd b _ o
  · exact h.escalate hadd o b
  · split
    · exact h.writeOutcome hadd b _ o
    · exact h.clearOutcomes hdrive b
  · exact h.writeOutcome (h.escalate hadd o b) b _ o

theorem demandAll (o : SlotId) (q : List BreakerId) : P (s.demandAll o q).1 := by
  induction q generalizing s with
  | nil => exact hs
  | cons b bs ih => exact ih (h.demand hs o b)

theorem runQueue (o : SlotId) (n : Nat) (q : List BreakerId) : P (s.runQueue o n q) := by
  induction n generalizing s q with
  | zero => exact h.demandAll hs o q
  | succ n ih =>
    unfold State.runQueue; dsimp only
    split
    · exact h.demandAll hs o q
    · exact ih (h.demandAll hs o q) _

theorem demandQueue (o : SlotId) (q : List BreakerId) : P (s.demandQueue o q) := h.runQueue hs o 2 q

theorem demandMissing (o : SlotId) : P (s.demandMissing o) := by
  unfold State.demandMissing; split
  · exact hs
  · rename_i x hx
    obtain ⟨hz, hl⟩ := append_kept x (s.missing x x.span)
    exact h.demandQueue (h.setOrder hs hx hz (by rw [hl]; exact id)) o _

theorem closeOnto (b : BreakerId) (o : SlotId) : P (s.closeOnto b o) := by
  unfold State.closeOnto; split
  · exact hs
  · rename_i x hx
    split
    · refine h.demandQueue ?_ o _
      split
      · exact h.setOrder hs hx rfl id
      · obtain ⟨hz, hl⟩ := append_kept x [b]
        exact h.setOrder hs hx hz (by rw [hl]; exact id)
    · exact hs

/-! ### The evaluation of a LIT zone (R55 to R59) -/

theorem createOrder {z : ZoneId} (hz : (s.zone z).prot ≠ .arc) (trip : List BreakerId) : P (s.createOrder z trip) := by
  unfold State.createOrder; split
  · exact hs
  · rename_i o ho
    have hnone : s.order o = none := by simpa using List.find?_some ho
    exact h.demandQueue (h.enterArc hs hz (by rw [hnone]; rfl) fun _ => Nat.zero_le 2) o _

theorem joinOrder {z : ZoneId} (hz : (s.zone z).prot ≠ .arc) (o : SlotId) : P (s.joinOrder z o) := by
  unfold State.joinOrder; split
  · exact hs
  · rename_i x hx
    have henter : ∀ y : Order, y.zones = x.zones ++ [z] → y.level = x.level →
        P ((s.setOrder o (some y)).enterArc z o) := fun y hy hl =>
      h.enterArc hs hz (by rw [hx]; exact hy) (by rw [hx, hl]; exact id)
    dsimp only; split
    · exact henter _ rfl rfl
    · refine h.demandQueue (henter _ ?_ ?_) o _
      · exact (append_kept _ _).1
      · exact (append_kept _ _).2

theorem noSource (z : ZoneId) : P (s.noSource z) := by
  unfold State.noSource; split
  · exact hs
  · exact h.setZone (h.sealed hs _) (zoneKept_refl _)

theorem evaluate (z : ZoneId) : P (s.evaluate z) := by
  unfold State.evaluate; split
  · rename_i hlit
    have hz : (s.zone z).prot ≠ .arc := by rw [hlit]; decide
    split
    · split
      · exact h.noSource hs z
      · split
        · exact h.joinOrder hs hz _
        · exact h.createOrder hs hz _
    · exact hs
  · exact hs

theorem evaluateWhere (p : State → ZoneId → Bool) : P (s.evaluateWhere p) :=
  holds_foldl hs (fun z hs => by
    split
    · exact h.evaluate hs z
    · exact hs) (ids 12)

/-! ### Reports -/

theorem confirmedAt (c : ChanId) (z : ZoneId) : P (s.confirmedAt c z) := by
  unfold State.confirmedAt; split
  · rename_i hdark
    exact h.evaluate (h.enterLit hs (by rw [hdark]; decide)) z
  · exact hs
  · split
    · exact hs
    · exact h.modifyOrder hs _ (fun x => s.addChannels x [c]) fun _ => ⟨rfl, rfl⟩
  · split
    · exact hs
    · exact h.setZone (h.sealed hs _) (zoneKept_refl _)

theorem confirmReport (c : ChanId) (z : ZoneId) : P (s.confirmReport c z) := by
  unfold State.confirmReport; split
  · exact hs
  · have hset : P (s.setZone z { s.zone z with confirmed := (s.zone z).confirmed.add c }) := h.setZone hs (zoneKept_refl _)
    dsimp only; split
    · exact h.confirmedAt hset c z
    · exact hset

theorem darkenedAt (z : ZoneId) : P (s.darkenedAt z) := by
  unfold State.darkenedAt; split
  · rename_i hlit; exact h.enterDark hs (by rw [hlit]; decide)
  · split
    · exact hs
    · exact h.testDarkClose hs _
  all_goals exact hs

theorem dropReport (c : ChanId) (z : ZoneId) : P (s.dropReport c z) := by
  unfold State.dropReport; split
  · have hset : P (s.setZone z { s.zone z with confirmed := (s.zone z).confirmed.drop c }) := h.setZone hs (zoneKept_refl _)
    dsimp only; split
    · exact h.darkenedAt hset z
    · exact hset
  · exact hs

theorem putChannel (c : ChanId) (zs : List ZoneId) (x : Channel) : P (s.putChannel c zs x) := by
  have hset : P (s.setChan c x) := h.of_eq hs rfl rfl
  unfold State.putChannel; dsimp only; split
  · exact holds_foldl hset (fun z hs => h.confirmReport hs c z) zs
  · split
    · exact holds_foldl hset (fun z hs => h.dropReport hs c z) zs
    · exact hset

theorem tripReport (b : BreakerId) : P (s.tripReport b) := by
  have htrip : ∀ x, P (s.setTrip b x) := fun _ => h.of_eq hs rfl rfl
  have hopened : P (s.breakerOpened b) := h.writeOutcomes (htrip _) b _
  unfold State.tripReport; split
  · split
    · exact hopened
    · exact hs
  · split
    · exact hopened
    · exact hs
  · split
    · exact hs
    · exact h.clearOutcomes (htrip _) b
  all_goals exact hs

theorem leftOpen (b : BreakerId) : P (s.leftOpen b) := by
  have hclosed : P ((ids 12).foldl (fun s o => s.closeOnto b o) s) := holds_foldl hs (fun o hs => h.closeOnto hs b o) (ids 12)
  unfold State.leftOpen; dsimp only
  refine h.evaluateWhere ?_ _
  split
  · exact hclosed
  · exact hs

theorem currentSettled (b : BreakerId) : P (s.currentSettled b) := by
  have hset : P (s.setInput b (s.currentTaken b)) := h.of_eq hs rfl rfl
  rw [currentSettled_eq]
  split
  · exact hset
  · split
    · exact h.tripReport (h.evaluateWhere hset _) b
    · exact h.tripReport hset b

theorem positionSettled (b : BreakerId) : P (s.positionSettled b) := by
  have hmoved : P (s.positionMoved b) := h.same hs (positionMoved_same s b)
  rw [positionSettled_eq]
  split
  · exact h.of_eq hs rfl rfl
  · split
    · exact h.leftOpen (h.tripReport hmoved b) b
    · exact h.tripReport hmoved b

/-! ### The test engine -/

theorem takeUpFrom (l : List ChanId) : P (s.takeUpFrom l) := by
  induction l generalizing s with
  | nil => exact h.of_eq hs rfl rfl
  | cons c cs ih =>
    unfold State.takeUpFrom; split
    · split
      · exact ih (h.of_eq hs rfl rfl)
      · exact h.of_eq (h.putChannel hs c _ _) rfl rfl
    · exact ih hs

theorem takeUp : P s.takeUp := h.takeUpFrom hs _

theorem giveVerdict (c : ChanId) (v : Verdict) (r : Nat) : P (s.giveVerdict c v r) := by
  have hended := h.same (h.same hs (verdictReleased_same s c v r)) (testEnded_same _ c (.verdict v))
  rw [giveVerdict_eq]
  exact h.takeUp hended

theorem stuckVerdict (c : ChanId) : P (s.stuckVerdict c) := h.giveVerdict hs c .stuck _

theorem channelTaken (c : ChanId) (r : TestResult) : P (s.channelTaken c r) := by
  unfold State.channelTaken; split
  · exact h.takeUp (h.of_eq hs rfl rfl)
  · exact hs

theorem resume : P s.resume := h.takeUp (h.of_eq hs rfl rfl)

theorem windowEnded : P s.windowEnded := by
  unfold State.windowEnded; dsimp only; split
  · exact h.of_eq hs rfl rfl
  · exact h.takeUp (h.of_eq hs rfl rfl)

theorem testSample (c : ChanId) (v : Nat) : P (s.testSample c v) := by
  have hset : ∀ b, P (s.setBatch b) := fun _ => h.of_eq hs rfl rfl
  have hdark : ∀ {u : State}, P u → P (u.darkVerdict c) := fun hu => by
    rw [darkVerdict_eq]; exact h.giveVerdict (h.same hu (referenceWritten_same _ c _ _)) c _ _
  unfold State.testSample
  dsimp only
  split
  · split
    · split
      · exact hs
      · split <;> exact hset _
    · split
      · split
        · exact hdark (hset _)
        · exact hset _
      · exact hset _
    · exact hs
  · exact hs

/-! ### Samples, holds and timers -/

theorem okArrival (c : ChanId) (v : Nat) : P (s.okArrival c v) := by
  unfold State.okArrival; dsimp only; split
  · exact h.testSample (s := s.setChan c (s.chan c).okRuns) (h.of_eq hs rfl rfl) c v
  · exact h.putChannel hs c _ _

theorem nonOkArrival (c : ChanId) : P (s.nonOkArrival c) := by
  have hput := h.putChannel hs c (s.chanRec c).zones ((s.chan c).nonOkSample s.inForce.fast)
  unfold State.nonOkArrival; dsimp only
  split
  · split
    · exact h.channelTaken (h.sealed hput _) c _
    · exact h.sealed hput _
  · exact hput

theorem setHold (z : ZoneId) (p : PortId) (e : Option Nat) : P (s.setHold z p e) := h.setZone hs (zoneKept_refl _)

theorem placeHold (z : ZoneId) (p : PortId) (e : Nat) : P (s.placeHold z p e) := by
  have hset := h.setHold hs z p (some e)
  unfold State.placeHold State.acknowledgeHold; dsimp only
  split
  · exact hset
  · split
    · rename_i hp; exact h.enterHeld hset (by rw [hp]; decide)
    · rename_i hp; exact h.enterHeld hset (by rw [hp]; decide)
    all_goals exact hset

theorem holdsEnded (z : ZoneId) : P (s.holdsEnded z) := by
  unfold State.holdsEnded; split
  · rename_i hp
    exact holds_foldl (h.enterDark hs (by rw [hp]; decide)) (fun c hs => h.putChannel hs c _ _) (s.watchers z)
  all_goals exact hs

theorem freeHold (z : ZoneId) (p : PortId) : P (s.freeHold z p) := by
  have hset := h.setHold hs z p none
  unfold State.freeHold; split
  · exact hs
  · dsimp only; split
    · exact hset
    · exact h.settleQuiet (h.holdsEnded hset z)

theorem expireZone (e : Nat) (z : ZoneId) : P (s.expireZone e z) := by
  unfold State.expireZone; dsimp only; split
  · exact hs
  · have hgone := holds_foldl hs (f := fun s p => s.expireEntry z p) (fun p hs => h.sealed (h.setHold hs z p none) _)
      ((ids 3).filter (fun p => s.holdOf z p == some e))
    split
    · exact hgone
    · exact h.holdsEnded hgone z

theorem lightAlarm (z : ZoneId) : P (s.lightAlarm z) := by
  have hset : P (s.setZone z { s.zone z with alarmTimer := none }) := h.setZone hs (zoneKept_refl _)
  unfold State.lightAlarm; dsimp only; split
  · exact hset
  · exact h.setZone (h.sealed hset _) (zoneKept_refl _)

theorem breakerFailed (b : BreakerId) : P (s.breakerFailed b) :=
  holds_foldl (s := s.failBreaker b) (h.of_eq hs rfl rfl) (fun o hs => h.demandQueue (h.escalate hs o b) o _)
    (s.trip b).demands.members

theorem breakerSpent (b : BreakerId) : P (s.breakerSpent b) :=
  h.writeOutcomes (s := s.setTrip b _) (h.of_eq hs rfl rfl) b _

theorem utMinimumEnded (u : UtId) : P (s.utMinimumEnded u) := by
  have htested := holds_foldl (s := s.setUt u { s.utLine u with minimum := .runOut }) (f := fun s o => s.testResolved o)
    (h.of_eq hs rfl rfl) (fun o hs => h.testResolved hs o) (s.utLine u).claims.members
  unfold State.utMinimumEnded State.releaseIfFree; dsimp only
  split
  · exact h.of_eq htested rfl rfl
  · exact htested

/-- A stepping pulse sets a flag in every active order, and nothing else in it (R154). -/
theorem stepTime : P s.stepTime := by
  unfold State.stepTime; dsimp only
  refine h.kept hs (fun z => ?_) fun o => ?_
  · rw [State.zone, State.zone, seal_zones]; exact zoneKept_refl _
  · simp only [State.order, look_map, seal_orders, State.setTime_orders]
    cases look s.orders o with
    | none => exact orderKept_refl _
    | some x => exact ⟨rfl, fun _ _ h₁ h₂ => by cases h₁; cases h₂; exact id⟩

/-! ### Settings writes -/

theorem mapWritten : P s.mapWritten := by
  have hdemanded : P ((ids 12).foldl (fun s o => s.demandMissing o) s) := holds_foldl hs (fun o hs => h.demandMissing hs o) _
  exact h.evaluateWhere hdemanded _

theorem zoneEntersUse (z : ZoneId) : P (s.zoneEntersUse z) := by
  unfold State.zoneEntersUse; split
  · rename_i hdark
    exact h.evaluate (h.enterLit hs (by rw [hdark.1]; decide)) z
  · exact hs

theorem restartChannel (c : ChanId) (zs : List ZoneId) : P (s.restartChannel c zs) := by
  have hput := h.putChannel hs c zs ((s.chan c).restart (s.chanRec c).inUse s.inForce.fast)
  unfold State.restartChannel; dsimp only
  split
  · exact h.channelTaken hput c _
  · exact hput

theorem setSets (x : SettingsUnit) : P (s.setSets x) := h.of_eq hs rfl rfl

theorem markWritten : P s.markWritten := h.settleQuiet (h.setSets hs _)

theorem writeChannel (c : ChanId) (r : ChannelRecord) : P (s.writeChannel c r) :=
  h.markWritten (h.restartChannel (h.setSets hs _) c _)

theorem writeZone (z : ZoneId) (x : ZoneRecord) : P (s.writeZone z x) := by
  have hput : P (s.putZoneRecord z x) := h.setSets hs _
  refine h.markWritten (holds_inProtecting hput (h.mapWritten ?_))
  split
  · exact h.zoneEntersUse hput z
  · exact hput

theorem writeLink (l : LinkId) (x : Option (ZoneId × ZoneId)) : P (s.writeLink l x) :=
  h.markWritten (holds_inProtecting (h.setSets hs _) (h.mapWritten (h.setSets hs _)))

theorem writeBreaker (b : BreakerId) (x : BreakerRecord) : P (s.writeBreaker b x) := by
  have hput : P (s.putBreakerRecord b x) := h.setSets hs _
  exact h.markWritten (holds_inProtecting hput (h.mapWritten (h.same hput (superviseBreaker_same ..))))

/-! ### Requests -/

theorem complete {row : RequestRow} {body : PortId → Request → State → State × Answer} (hb : ∀ p r, P (body p r s).1) :
    P (s.complete row body) := by
  have hdone : ∀ {u : State} p r a, P u → P (u.answer p r a).grantNext := fun p r a hu =>
    h.same hu (answer_grantNext _ p r a).2
  unfold State.complete
  split
  · exact hs
  · rename_i p r _
    split
    · cases s.inService with
      | false => exact hdone _ _ _ hs
      | true => exact hdone _ _ _ (hb p r)
    · exact hs

/-- Every request's checks and effect. -/
theorem command (row : RequestRow) : Gives P (exec row.command s) := by
  cases row <;> refine gives_next.mpr (h.complete hs fun p r => ?_)
  case readItem =>
    unfold readItemBody
    split
    · exact hs
    · dsimp only; split <;> exact hs
  case writeChannel =>
    unfold writeChannelBody
    split
    · dsimp only; split
      · exact hs
      · split_ifs
        exacts [hs, h.writeChannel hs _ _, hs]
    · exact hs
  case writeZone =>
    unfold writeZoneBody
    split
    · dsimp only; split
      · exact hs
      · split_ifs
        exacts [hs, h.writeZone hs _ _, hs]
    · exact hs
  case writeLink =>
    unfold writeLinkBody
    split
    · dsimp only; split
      · exact hs
      · split_ifs
        exacts [hs, h.writeLink hs _ _, hs]
    · exact hs
  case writeBreaker =>
    unfold writeBreakerBody
    split
    · dsimp only; split
      · exact hs
      · split_ifs
        exacts [hs, h.writeBreaker hs _ _, hs]
    · exact hs
  case writePort =>
    unfold writePortBody
    split
    · exact h.markWritten (h.setSets hs _)
    · exact hs
  case writeGlobal =>
    unfold writeGlobalBody
    split
    · split
      · exact hs
      · exact h.markWritten (h.setSets hs _)
    · exact hs
  case holdZone =>
    unfold holdBody
    split
    · dsimp only; split
      · exact h.settleQuiet (h.placeHold hs _ _ _)
      · exact hs
    · exact hs
  case freeZone =>
    unfold freeBody
    split
    · exact h.freeHold hs _ _
    · exact hs
  case releaseLockout =>
    unfold releaseBody
    split
    · dsimp only
      split_ifs
      case pos | pos | pos | neg => exact hs
      exact h.same hs (releaseBreaker_same s _)
    · exact hs
  case testChannels =>
    unfold testChannelsBody
    dsimp only
    split
    · exact hs
    · split
      · exact h.of_eq hs rfl rfl
      · split
        · exact h.of_eq hs rfl rfl
        · exact hs
      all_goals exact hs
  case suspendTest =>
    have hsusp : P (s.suspend .request) := h.same hs (suspend_same s .request)
    unfold suspendBody
    split
    · exact hs
    · exact hsusp
    · exact hsusp
    · exact h.of_eq hs rfl rfl
  case resumeTest =>
    unfold resumeBody
    split
    · exact hs
    · exact hs
    · exact hs
    · split
      · dsimp only; split
        · exact h.of_eq hs rfl rfl
        · exact h.settleQuiet (h.resume hs)
      · exact hs
  case fetchRecord =>
    unfold fetchBody
    split
    · exact hs
    · split
      · exact hs
      · split
        · exact h.of_eq hs rfl rfl
        · exact hs
  case peekOrder =>
    unfold peekBody
    split
    · exact hs
    · split <;> exact hs
  case commitSettings =>
    unfold commitBody
    split
    · exact hs
    · exact h.setSets hs _
  case setSeconds => exact h.of_eq hs rfl rfl
  case unknown => exact hs

/-! ### Every command -/

theorem sampleArrival (c : ChanId) (v : Nat) (line : LineStatus) : Gives P (execSampleArrival c v line s) := by
  have hbroken := h.settleQuiet (h.nonOkArrival hs c)
  refine gives_ite (gives_fault _) (gives_ite ?_ (gives_next.mpr hs))
  cases line with
  | ok => exact gives_next.mpr (h.settleQuiet (h.okArrival hs c v))
  | openLoop | short => exact gives_next.mpr hbroken

theorem syncPulse : Gives P (execSyncPulse s) := by
  have htime : ∀ x, Gives P (.next (s.setTime x)) := fun _ => gives_next.mpr (h.of_eq hs rfl rfl)
  refine gives_ite ?_ (gives_next.mpr hs)
  exact gives_ite (htime _) (gives_ite (htime _) (gives_ite (gives_next.mpr (h.stepTime hs)) (htime _)))

theorem updateEnded : P s.updateEnded := by
  unfold State.updateEnded; dsimp only
  split <;> exact h.of_eq hs rfl rfl

/-- A transaction's start moves the port's line and fixes its frame (R159, R161). -/
theorem transactionStart (p : PortId) : Gives P (execTransactionStart p s) := by
  have hport : ∀ {u : State} x, P u → P (u.setPort p x) := fun _ hu => h.of_eq hu rfl rfl
  have hstatus : ∀ {u : State}, P u → P (u.fixStatus p) := fun hu => by
    unfold State.fixStatus; dsimp only
    split
    · exact hport _ (hport _ hu)
    · exact hport _ hu
  refine gives_ite (gives_next.mpr hs) (gives_next.mpr ?_)
  dsimp only
  split
  · exact hport _ hs
  · unfold State.fixFrame
    split
    · exact hport _ (hport _ hs)
    all_goals exact hstatus (hport _ hs)

/-- A transaction's end frees or fills the port's slot (R162 to R165). -/
theorem transactionEnd (p : PortId) (bytes : List Byte) (extraBits : Nat) :
    Gives P (execTransactionEnd p bytes extraBits s) := by
  have hport : ∀ {u : State} x, P u → P (u.setPort p x) := fun _ hu => h.of_eq hu rfl rfl
  have htake : ∀ {u : State} r, P u → P (u.takeRequest p r) := fun r hu => by
    unfold State.takeRequest; dsimp only
    split
    · exact h.same (hport _ hu) (grantTo_same _ p)
    · exact hport _ hu
  refine gives_ite (gives_fault _) ?_
  split
  · exact gives_next.mpr (hport _ hs)
  · rename_i f _
    refine gives_next.mpr ?_
    unfold State.endTransaction State.examine
    dsimp only
    have hend := hport (if lengthOk bytes extraBits then
      Port.delivered { s.port p with selected := false, outgoing := none } f
      else { s.port p with selected := false, outgoing := none }) hs
    split
    · split
      · exact hend
      · split
        · exact htake _ hend
        all_goals exact hport _ hend
    · exact hport _ hend

omit hs in
theorem of_enterReset {t : State} (hz : t.zones = s.enterReset.zones) (ho : t.orders = s.enterReset.orders) : P t := by
  refine h.empty (fun z => ?_) fun o => ?_
  · rw [State.zone, hz, State.enterReset, look_replicate]; decide
  · rw [State.order, ho, State.enterReset, look_replicate]

omit hs in
theorem startBlocks : P s.startBlocks :=
  h.empty (fun z => by rw [startBlocks_zone]; decide) fun o => startBlocks_order s o

/-- Every command. -/
theorem exec (c : Instr) : Gives P (exec c s) := by
  have keep : ∀ {t : State}, t.zones = s.zones → t.orders = s.orders → P t := fun hz ho => h.of_eq hs hz ho
  cases c with
  | sampleArrival c v line => exact h.sampleArrival hs c v line
  | lineFault c => exact gives_effect hs (h.settleQuiet (h.nonOkArrival hs c))
  | lineRecovery c => exact gives_effect hs (h.settleQuiet (h.okArrival hs c 0))
  | contactLineChange b bpc bpo => exact gives_ite (gives_next.mpr hs) (gives_next.mpr (keep rfl rfl))
  | positionChange b => exact gives_effect hs (h.settleQuiet (h.positionSettled hs b))
  | positionFaultTimerExpiry b => exact gives_effect hs (keep rfl rfl)
  | currentLineChange b level => exact gives_ite (gives_next.mpr hs) (gives_next.mpr (keep rfl rfl))
  | filteredCurrentChange b => exact gives_effect hs (h.settleQuiet (h.currentSettled hs b))
  | lightAlarmTimerExpiry z => exact gives_effect hs (h.lightAlarm hs z)
  | closeTimerExpiry o => exact gives_effect hs (h.settleQuiet (h.closeOrder hs o))
  | bfTimerExpiry b => exact gives_effect hs (h.settleQuiet (h.breakerFailed hs b))
  | minimumPulseTimerExpiry b =>
    refine gives_effect hs ?_
    unfold State.pulseEnded; dsimp only
    split <;> exact keep rfl rfl
  | pulseCeilingTimerExpiry b => exact gives_effect hs (h.settleQuiet (h.breakerSpent hs b))
  | utMinimumTimerExpiry u => exact gives_effect hs (h.settleQuiet (h.utMinimumEnded hs u))
  | lockoutUpdateCompletion =>
    change Gives _ (execLockoutUpdateCompletion s)
    unfold execLockoutUpdateCompletion
    split
    · exact gives_next.mpr hs
    · exact gives_ite (gives_next.mpr hs) (gives_next.mpr (h.updateEnded (keep rfl rfl)))
  | lockoutUpdateTimerExpiry => exact gives_effect hs (h.updateEnded (keep rfl rfl))
  | holdExpiry z p =>
    change Gives _ (execHoldExpiry z p s)
    unfold execHoldExpiry
    split
    · exact gives_next.mpr hs
    · rename_i e _
      exact gives_effect hs (h.settleQuiet (holds_foldl hs (fun z hs => h.expireZone hs e z) (ids 12)))
  | gatheringWindowExpiry => exact gives_effect hs (h.settleQuiet (h.windowEnded hs))
  | settleTimerExpiry => exact gives_effect hs (keep rfl rfl)
  | darkenTimerExpiry =>
    change Gives _ (execDarkenTimerExpiry s)
    unfold execDarkenTimerExpiry
    split
    · exact gives_next.mpr hs
    · have hset : ∀ b, P (s.setBatch b) := fun _ => keep rfl rfl
      exact gives_effect hs (h.settleQuiet (h.stuckVerdict (hset _) _))
  | quietTimerExpiry => exact gives_effect hs (h.settleQuiet (h.resume hs))
  | rollover => exact gives_effect hs (keep rfl rfl)
  | syncPulse => exact h.syncPulse hs
  | freewheelTimerExpiry => exact gives_effect hs (keep rfl rfl)
  | transactionStart p => exact h.transactionStart hs p
  | transactionEnd p bytes extraBits => exact h.transactionEnd hs p bytes extraBits
  | readItem => exact h.command hs .readItem
  | writeChannelRecord => exact h.command hs .writeChannel
  | writeZoneRecord => exact h.command hs .writeZone
  | writeLinkSlot => exact h.command hs .writeLink
  | writeBreakerRecord => exact h.command hs .writeBreaker
  | writePortRecord => exact h.command hs .writePort
  | writeGlobalRecord => exact h.command hs .writeGlobal
  | holdZone => exact h.command hs .holdZone
  | freeZone => exact h.command hs .freeZone
  | releaseLockout => exact h.command hs .releaseLockout
  | testChannels => exact h.command hs .testChannels
  | suspendTest => exact h.command hs .suspendTest
  | resumeTest => exact h.command hs .resumeTest
  | fetchRecord => exact h.command hs .fetchRecord
  | peekOrder => exact h.command hs .peekOrder
  | commitSettings => exact h.command hs .commitSettings
  | setSeconds => exact h.command hs .setSeconds
  | unknownRequest => exact h.command hs .unknown
  | commitCompletion =>
    change Gives _ (execCommitCompletion s)
    unfold execCommitCompletion
    split
    · exact gives_next.mpr hs
    · exact gives_next.mpr (keep rfl rfl)
  | commitTimerExpiry => exact gives_effect hs (keep rfl rfl)
  | powerOnReset => exact gives_next.mpr (h.of_enterReset (s := s) rfl rfl)
  | resetN => exact gives_effect hs (h.of_enterReset (s := s) rfl rfl)
  | resetEnd => exact gives_effect hs (keep rfl rfl)
  | loadingEnd => exact gives_effect hs h.startBlocks
  | tripSupplyReading good => exact gives_effect hs (keep rfl rfl)
  | lossOfPower => exact gives_next.mpr (h.of_enterReset (s := s) rfl rfl)

/-- Every step: a command that waits, and on an empty queue the command of a due timer or one microsecond. -/
theorem step : Gives P (step s) := by
  unfold Machine.step
  split
  · unfold tick
    split
    · refine gives_next.mpr (h.of_eq hs ?_ ?_)
      all_goals unfold State.advance; split <;> rfl
    · exact h.exec (s := s.tieTaken) (h.of_eq hs rfl rfl) _
  · rename_i c rest _
    exact h.exec (s := s.setPending rest) (h.of_eq hs rfl rfl) c

end Orderly

/-- Settles O58: both invariants stand under the moves of which a step consists. -/
theorem stepKeepsOrders : Obligations.StepKeepsOrders := fun _ t hstep =>
  ⟨fun hs => orderly_ordersOk.step hs t hstep, fun hs => orderly_levelBounded.step hs t hstep⟩

end Sys2Proof.Machine
end

section
/-! PROOF. The light-alarm timer's end (R52), a current assertion at a LIT zone (R56 to R63), and what ends a breaker's drive:
its opening, its minimum pulse and its pulse ceiling (R64 to R66, R75 to R77). -/

namespace Sys2Proof.Machine

open Sys2Proof Sys2Proof.Safety

/-! ### The meaning of the timers' commands -/

section
variable {s : State}

theorem exec_lightAlarmTimerExpiry {z : ZoneId} (hs : s.inService = true) (hz : (s.zone z).prot = .lit)
    (ht : (s.zone z).alarmTimer.isSome = true) : exec (.lightAlarmTimerExpiry z) s = .next (s.lightAlarm z) := by
  have hexec : exec (.lightAlarmTimerExpiry z) s = execLightAlarmTimerExpiry z s := rfl
  simp [hexec, execLightAlarmTimerExpiry, hs, hz, ht]

theorem exec_minimumPulseTimerExpiry {b : BreakerId} (hs : s.inService = true) (ht : (s.trip b).minTimer.isSome = true) :
    exec (.minimumPulseTimerExpiry b) s = .next (s.pulseEnded b) := by
  have hexec : exec (.minimumPulseTimerExpiry b) s = execMinimumPulseTimerExpiry b s := rfl
  simp [hexec, execMinimumPulseTimerExpiry, hs, ht]

theorem exec_pulseCeilingTimerExpiry {b : BreakerId} (hs : s.inService = true) (hp : (s.trip b).phase = .failed)
    (ht : (s.trip b).ceilTimer.isSome = true) :
    exec (.pulseCeilingTimerExpiry b) s = .next (s.breakerSpent b).settleQuiet := by
  have hexec : exec (.pulseCeilingTimerExpiry b) s = execPulseCeilingTimerExpiry b s := rfl
  simp [hexec, execPulseCeilingTimerExpiry, hs, hp, ht]

end

/-! ### The light alarm (R52) -/

section
variable {s : State} {z : ZoneId}

/-- A lit period that has sent its alarm sends no second one. -/
theorem lightAlarm_sent (h : (s.zone z).alarmSent = true) :
    s.lightAlarm z = s.setZone z { s.zone z with alarmTimer := none } := by
  simp [State.lightAlarm, h]

theorem lightAlarm_unsent (h : (s.zone z).alarmSent = false) :
    s.lightAlarm z =
      ((s.setZone z { s.zone z with alarmTimer := none }).seal
        (.lightAlarm z (s.zoneOrigin z) (s.zone z).litSince)).setZone z
          { s.zone z with alarmTimer := none, alarmSent := true } := by
  simp [State.lightAlarm, h]

theorem lightAlarm_zone (y : ZoneId) :
    (s.lightAlarm z).zone y = if z = y then { s.zone z with alarmTimer := none, alarmSent := true } else s.zone y := by
  cases h : (s.zone z).alarmSent with
  | true => rw [lightAlarm_sent h, State.setZone_zone, ← h]
  | false =>
    rw [lightAlarm_unsent h, State.setZone_zone, seal_zone, State.setZone_zone]
    split <;> rfl

theorem lightAlarm_sealed (h : (s.zone z).alarmSent = false) :
    Sealed s (s.lightAlarm z) (.lightAlarm z (s.zoneOrigin z) (s.zone z).litSince) := by
  have hseal := sealed_seal (s.setZone z { s.zone z with alarmTimer := none })
    (.lightAlarm z (s.zoneOrigin z) (s.zone z).litSince)
  rw [lightAlarm_unsent h]
  exact hseal.congr rfl rfl rfl rfl rfl rfl rfl

theorem lightAlarm_same : SameBut [.zones, .records, .ports] s (s.lightAlarm z) := by
  cases h : (s.zone z).alarmSent with
  | true => rw [lightAlarm_sent h]; exact sameBut_setZone (SameBut.refl _ _) _ _ (by decide)
  | false =>
    rw [lightAlarm_unsent h]
    exact sameBut_setZone (sameBut_seal (sameBut_setZone (SameBut.refl _ _) _ _ (by decide)) _ (by decide) (by decide))
      _ _ (by decide)

end

/-- Settles O13, by the two cases of the alarm-sent flag. -/
theorem lightAlarmSealsOnce : Obligations.LightAlarmSealsOnce := by
  intro s z hs hz ht
  obtain ⟨hnone, hsome⟩ := zoneOrigin_spec s z
  refine ⟨_, exec_lightAlarmTimerExpiry hs hz ht, ?_, fun y hy => ?_, lightAlarm_sealed, hnone, hsome, fun h => ?_,
    lightAlarm_same⟩
  · rw [lightAlarm_zone, if_pos rfl]
  · rw [lightAlarm_zone, if_neg (Ne.symm hy)]
  · rw [lightAlarm_sent h]
    exact sameBut_setZone (SameBut.refl _ _) _ _ (by decide)

/-! ### A current assertion (R56, R58, R63) -/

/-- Settles O14: with the batch IDLE the order's creation does not concern the test engine, and the event's end settles
nothing. -/
theorem currentAssertionTrips : Obligations.CurrentAssertionTrips := by
  intro s b z hs ht hline hcur hz _ hone hno hbatch hb hcc hidle
  obtain ⟨hzone, honly, hcreated, hrest⟩ := currentAsserted_creates hs hz hone hno hb hcc hidle
  have hon := currentOn_same s b
  have hnote : (s.currentOn b).noteArc = s.currentOn b := noteArc_idle hbatch
  rw [hnote] at hrest
  have hexec := exec_currentAsserts hs ht hline hcur
  rw [settleQuiet_of_idle (by rw [hrest.batch (by decide), hon.batch (by decide), hbatch])] at hexec
  refine ⟨_, hexec, ?_, fun a ha => ?_, hzone, honly, hcreated, (hon.mono (by decide)).trans (hrest.mono (by decide))⟩
  · rw [hrest.input _ (by decide), currentOn_def, State.setInput_input, if_pos rfl]
  · rw [hrest.input _ (by decide), currentOn_def, State.setInput_input, if_neg (Ne.symm ha)]

/-! ### An outcome for the one order that demands a breaker (R60, R69, R70) -/

theorem modifyOrder_some {s : State} {o : SlotId} {x : Order} (hx : s.order o = some x) (f : Order → Order) :
    s.modifyOrder o f = s.setOrder o (some (f x)) := by
  simp [State.modifyOrder, hx]

/-- The outcome of a breaker that one order demands is written there, and that order is tested. -/
theorem writeOutcomes_tested {s : State} {b : BreakerId} {o : SlotId} {x : Order} (v : BreakerOutcome)
    (hd : (s.trip b).demands.members = [o]) (hx : s.order o = some x) (hr : x.resolution = none) (hq : QuietOk s) :
    Tested s (s.writeOutcomes b v).settleQuiet o (writtenIn s.stamp b v x) := by
  have hwrite : s.writeOutcomes b v = (s.setOrder o (some (writtenIn s.stamp b v x))).testResolved o := by
    rw [State.writeOutcomes, hd, List.foldl_cons, List.foldl_nil, State.writeOutcome, modifyOrder_some hx, withOutcome_eq]
  rw [hwrite]
  exact testResolved_tested hr hq

/-- The resolution test keeps every trip state, and the mode (R69 to R71). -/
theorem tripLine_of_tested {s t : State} {o : SlotId} {x : Order} (h : Tested s t o x) (b : BreakerId) :
    t.tripLine b = s.tripLine b := by
  obtain ⟨hopen, hlit, hunlit⟩ := h
  by_cases hc : Complete s x
  · by_cases hz : ∃ z, z ∈ x.zones ∧ (s.zone z).confirmed ≠ 0
    · rw [hlit hc hz]; rfl
    · obtain ⟨-, -, -, -, htrip, -, -, -, -, hsame⟩ :=
        hunlit hc fun z hz' => by_contra fun hne => hz ⟨z, hz', hne⟩
      rw [State.tripLine, State.tripLine, hsame.inService (by decide), htrip b]
      split <;> rfl
  · rw [hopen hc]; rfl

/-! ### A breaker found opened (R64, R65, R75) -/

/-- The trip record of a breaker found opened: HOLDING while its minimum pulse runs, else OPEN_DONE. -/
def openedTrip (x : Trip) : Trip :=
  if x.minTimer.isSome = true then { x with phase := .holding, bfTimer := none }
  else { x with phase := .openDone, bfTimer := none, ceilTimer := none }

theorem openedTrip_demands (x : Trip) : (openedTrip x).demands = x.demands := by unfold openedTrip; split <;> rfl

/-- A DRIVING or FAILED breaker that reports itself opened. -/
theorem tripReport_opened {s : State} {b : BreakerId} (hp : (s.trip b).phase = .driving ∨ (s.trip b).phase = .failed)
    (ho : s.hasOpened b = true) :
    s.tripReport b = (s.setTrip b (openedTrip (s.trip b))).writeOutcomes b
      (if (s.trip b).failed then .failedThenOpened else .opened) := by
  have hopened : s.breakerOpened b = (s.setTrip b (openedTrip (s.trip b))).writeOutcomes b
      (if (s.trip b).failed then .failedThenOpened else .opened) := rfl
  rw [← hopened, State.tripReport]
  rcases hp with hp | hp
  · simp only [hp, ho, if_true]
  · simp only [hp, ho, if_true]

/-- Both opening reports store the report and hand it to the trip supervision unit, which finds the breaker opened. -/
theorem openingReport_exec {s : State} {b : BreakerId} {c : Instr} {i : Inputs} (h : OpeningReport s b c i) :
    exec c s = .next ((s.setInput b i).tripReport b).settleQuiet ∧ (s.setInput b i).hasOpened b = true := by
  obtain ⟨hs, ⟨rfl, ht, hbpc, hbpo, hpos, hcur, rfl⟩ | ⟨rfl, ht, hline, hcur, hpos, rfl⟩⟩ := h
  · obtain ⟨-, hopen, -⟩ := rawPosition_iff (s.input b).bpc (s.input b).bpo
    have hraw : s.rawOf b = .opened := hopen.mpr ⟨hbpc, hbpo⟩
    have hmoved : s.moved b =
        { s.input b with stability := none, position := .opened, unknownTimer := none, positionFault := false } := by
      simp [State.moved, hraw]
    refine ⟨?_, (hasOpened_iff _ _).mpr ⟨by simp, by simpa using hcur⟩⟩
    rw [exec_positionChange hs ht, positionSettled_changes (by rw [hraw]; exact Ne.symm hpos) (by simp [hraw]),
      positionMoved_def, hmoved]
  · refine ⟨?_, (hasOpened_iff _ _).mpr ⟨by simpa using hpos, fun _ => by simp⟩⟩
    have htaken : s.currentTaken b = { s.input b with filterTimer := none, current := false } := by
      simp [State.currentTaken, hline]
    rw [exec_filteredCurrentChange hs ht, currentSettled_eq, if_neg (by rw [hline, hcur]; simp), if_neg (by simp [hline]),
      htaken]

/-- Settles O15: each report finds the breaker opened, and the one order that demands it is tested. -/
theorem openingWritesOutcome : Obligations.OpeningWritesOutcome := by
  intro s b c i o x hreport hq hp hd hx hr
  obtain ⟨hexec, hopened⟩ := openingReport_exec hreport
  rw [tripReport_opened (s := s.setInput b i) hp hopened] at hexec
  have hdemands : (((s.setInput b i).setTrip b (openedTrip (s.trip b))).trip b).demands.members = [o] := by
    rw [State.setTrip_trip, if_pos rfl, openedTrip_demands, hd]
  exact ⟨_, hexec, writeOutcomes_tested _ hdemands hx hr (hq.of_eq rfl rfl)⟩

/-! ### The minimum pulse and the pulse ceiling (R66, R75, R77) -/

theorem pulseEnded_holding {s : State} {b : BreakerId} (h : (s.trip b).phase = .holding) :
    s.pulseEnded b = s.setTrip b { s.trip b with phase := .openDone, minTimer := none, ceilTimer := none } := by
  simp [State.pulseEnded, h]

theorem pulseEnded_other {s : State} {b : BreakerId} (h : (s.trip b).phase ≠ .holding) :
    s.pulseEnded b = s.setTrip b { s.trip b with minTimer := none } := by
  simp [State.pulseEnded, h]

/-- TRIP of a breaker whose trip record became `x` (R62). -/
theorem setTrip_tripLine (s : State) (b : BreakerId) (x : Trip) :
    (s.setTrip b x).tripLine b = (s.inService && x.phase.driven) := by
  simp [State.tripLine]

/-- Settles O16; a ceiling that writes SPENT tests the order as an opening does. -/
theorem pulseTimersEnd : Obligations.PulseTimersEnd := by
  intro s b hs
  refine ⟨fun ht hp => ?_, fun ht hp => ?_, fun o x hq hp ht hd hx hr => ?_⟩
  · refine ⟨_, exec_minimumPulseTimerExpiry hs ht, pulseEnded_holding hp, ?_⟩
    rw [pulseEnded_holding hp, setTrip_tripLine, hs]; rfl
  · have hother : s.pulseEnded b = s.setTrip b { s.trip b with minTimer := none } :=
      pulseEnded_other (by rcases hp with hp | hp <;> simp [hp])
    refine ⟨_, exec_minimumPulseTimerExpiry hs ht, hother, ?_⟩
    rw [hother, setTrip_tripLine, hs]
    rcases hp with hp | hp <;> simp [hp, TripPhase.driven]
  · have htested : Tested (s.setTrip b { s.trip b with phase := .spent, bfTimer := none, minTimer := none, ceilTimer := none })
        (s.breakerSpent b).settleQuiet o (writtenIn s.stamp b .spent x) :=
      writeOutcomes_tested _ (by simpa using hd) hx hr (hq.of_eq rfl rfl)
    refine ⟨_, exec_pulseCeilingTimerExpiry hs hp ht, ?_, htested⟩
    rw [tripLine_of_tested htested, setTrip_tripLine, hs]; rfl

end Sys2Proof.Machine
end

section
/-! PROOF. What ends an order without a breaker's report: the close timer, with the five steps of a close (R71), and the
minimum timer of a UT line (R84, R85). -/

namespace Sys2Proof.Machine

open Sys2Proof Sys2Proof.Safety

/-! ### The meaning of the timers' commands -/

theorem exec_closeTimerExpiry {s : State} {o : SlotId} {x : Order} (hs : s.inService = true) (hx : s.order o = some x)
    (ht : x.closeTimer.isSome = true) : exec (.closeTimerExpiry o) s = .next (s.closeOrder o).settleQuiet := by
  have hexec : exec (.closeTimerExpiry o) s = execCloseTimerExpiry o s := rfl
  simp [hexec, execCloseTimerExpiry, hs, State.closing, hx, ht]

theorem exec_utMinimumTimerExpiry {s : State} {u : UtId} (hs : s.inService = true) (ht : (s.utLine u).timing = true) :
    exec (.utMinimumTimerExpiry u) s = .next (s.utMinimumEnded u).settleQuiet := by
  have hexec : exec (.utMinimumTimerExpiry u) s = execUtMinimumTimerExpiry u s := rfl
  simp [hexec, execUtMinimumTimerExpiry, hs, ht]

/-! ### The close of an order, read off its five steps (R71) -/

/-- A line whose claim is withdrawn (R85). -/
theorem withdrawn_spec (o : SlotId) (x : UtLine) :
    (withdrawn o x).claims = x.claims.drop o
      ∧ (x.claims.drop o = 0 → x.minimum = .runOut →
          (withdrawn o x).asserted = false ∧ (withdrawn o x).since = none ∧ (withdrawn o x).minimum = .stopped)
      ∧ (x.minimum ≠ .runOut → withdrawn o x = { x with claims := x.claims.drop o }) := by
  unfold withdrawn
  split
  · rename_i h
    exact ⟨rfl, fun _ _ => ⟨rfl, rfl, rfl⟩, fun hn => absurd h.2 hn⟩
  · rename_i h
    exact ⟨rfl, fun h1 h2 => absurd ⟨h1, h2⟩ h, fun _ => rfl⟩

/-- A zone that left ARC: HELD with a hold, DARK out of use or unlit, else LIT (R53, R71). -/
theorem leftArc_spec (s : State) (z : ZoneId) :
    (leftArc s z).orderSlot = none ∧ (leftArc s z).confirmed = (s.zone z).confirmed
      ∧ (leftArc s z).holds = (s.zone z).holds ∧ (leftArc s z).alarmSent = false ∧ (leftArc s z).noSourceSent = false
      ∧ (leftArc s z).heldLightSent = (if (s.zone z).hasHold then false else (s.zone z).heldLightSent)
      ∧ (if (s.zone z).hasHold then
            (leftArc s z).prot = .held ∧ (leftArc s z).litSince = none ∧ (leftArc s z).alarmTimer = none
          else if (s.zoneRec z).inUse = false ∨ (s.zone z).confirmed = 0 then
            (leftArc s z).prot = .dark ∧ (leftArc s z).litSince = none ∧ (leftArc s z).alarmTimer = none
          else
            (leftArc s z).prot = .lit ∧ (leftArc s z).litSince = some s.stamp
              ∧ (leftArc s z).alarmTimer = some (s.now + 2000000)) := by
  have hdark : (!(s.zoneRec z).inUse || (s.zone z).confirmed == 0) = true
      ↔ ((s.zoneRec z).inUse = false ∨ (s.zone z).confirmed = 0) := by simp
  by_cases hh : (s.zone z).hasHold = true
  · simp [leftArc, hh, Zone.unlit]
  · by_cases hd : (s.zoneRec z).inUse = false ∨ (s.zone z).confirmed = 0
    · simp only [leftArc, if_neg hh, if_pos hd, if_pos (hdark.mpr hd)]
      simp [Zone.unlit]
    · simp only [leftArc, if_neg hh, if_neg hd, if_neg (mt hdark.mp hd)]
      simp [Zone.unlit, State.after, lightAlarmTime, ms]

theorem leftArc_lit {s : State} {z : ZoneId} (h : entersLit s z) : (leftArc s z).prot = .lit := by
  obtain ⟨hhold, huse, hlit⟩ := h
  obtain ⟨-, -, -, -, -, -, hprot⟩ := leftArc_spec s z
  rw [if_neg (by simp [hhold]), if_neg (not_or.mpr ⟨by simp [huse], hlit⟩)] at hprot
  exact hprot.1

section
variable {s : State} {o : SlotId} {x : Order} (hx : s.order o = some x)
include hx

/-- A close whose lit zone suspends the batch leaves a bright board, so the quiet timer is stopped (R131, R133, R134). -/
theorem closeOrder_suspends (h : ∃ z, z ∈ x.zones ∧ entersLit s z ∧ LitSuspends s z) :
    (s.closeOrder o).settleQuiet.batch = suspendedByLight s.batch := by
  obtain ⟨hsusp, -⟩ := closeOrder_batch hx
  obtain ⟨hbatch, -⟩ := hsusp h
  obtain ⟨-, hzones, -⟩ := closeOrder_spec hx
  obtain ⟨z, hz, hlit, -⟩ := h
  have hzone : ((s.closeOrder o).zone z).prot = .lit := by rw [hzones z, if_pos hz, leftArc_lit hlit]
  rw [settleQuiet_bright (by rw [hbatch]; rfl) (by rw [hbatch]; rfl) (anyBright_of_zone (.inl hzone)), hbatch]
  rfl

end

/-- Settles O20: the five steps from the laws of `closeOrder`, and the quiet timer from the board they leave. -/
theorem closeOrderFiveSteps : Obligations.CloseOrderFiveSteps := by
  intro s o x hs hx ht suspends
  obtain ⟨hsealed, hzone, htrip, hut, horders, hsame⟩ := closeOrder_spec hx
  obtain ⟨hsusp, hstays, hchan⟩ := closeOrder_batch hx
  have hiff : suspends ↔ ∃ z, z ∈ x.zones ∧ entersLit s z ∧ LitSuspends s z := by
    simp only [suspends, entersLit, and_assoc]
  refine ⟨_, exec_closeTimerExpiry hs hx ht, fun u hu => ?_, fun u hu => ?_, ?_, fun b hb => ?_, fun b hb => ?_,
    fun z hz => ?_, fun z hz => ?_, ?_, fun q hq => ?_, fun h => closeOrder_suspends hx (hiff.mp h), fun h => ?_,
    fun c => ⟨fun h hc => ?_, fun h => ?_⟩, ?_⟩
  · rw [settleQuiet_utLine, hut, if_pos hu]; exact withdrawn_spec o _
  · rw [settleQuiet_utLine, hut, if_neg hu]
  · exact hsealed.congr rfl rfl rfl rfl (settleQuiet_ring _) (settleQuiet_nextSeq _) (settleQuiet_ports _)
  · rw [settleQuiet_trip, htrip, if_pos hb]
  · rw [settleQuiet_trip, htrip, if_neg (by simp [hb])]
  · rw [settleQuiet_zone, hzone, if_pos hz]; exact leftArc_spec s z
  · rw [settleQuiet_zone, hzone, if_neg hz]
  · rw [settleQuiet_order, State.order, horders, look_put, if_pos rfl]
  · rw [settleQuiet_order, State.order, horders, look_put, if_neg (Ne.symm hq)]; rfl
  · exact settleQuiet_batch_settled (hstays (mt hiff.mpr h)) hsame.now
  · rw [settleQuiet_chan]; exact (hsusp (hiff.mp h)).2 c hc
  · rw [settleQuiet_chan]; exact hchan c (by rwa [← hiff])
  · rw [settleQuiet_eq]; exact sameBut_setBatch hsame _ (by decide)

/-! ### The end of a UT line's minimum (R84, R85) -/

section
variable {s : State} {u : UtId}

/-- The state in which line `u` has been asserted for its minimum. -/
def State.utRanOut (s : State) (u : UtId) : State := s.setUt u { s.utLine u with minimum := .runOut }

theorem utRanOut_def : s.utRanOut u = s.setUt u { s.utLine u with minimum := .runOut } := rfl

theorem utRanOut_claims : ((s.utRanOut u).utLine u).claims = (s.utLine u).claims := by simp [utRanOut_def]

theorem utMinimumEnded_eq : s.utMinimumEnded u =
    (((s.utLine u).claims.members.foldl (fun s o => s.testResolved o) (s.utRanOut u)).releaseIfFree u) := rfl

theorem releaseIfFree_free (hc : (s.utLine u).claims = 0) (hm : (s.utLine u).minimum = .runOut) :
    s.releaseIfFree u = s.setUt u (s.utLine u).released := by
  simp [State.releaseIfFree, hc, hm]

theorem releaseIfFree_keeps (h : ¬ ((s.utLine u).claims = 0 ∧ (s.utLine u).minimum = .runOut)) :
    s.releaseIfFree u = s := by
  simp only [State.releaseIfFree, if_neg h]

theorem utRanOut_quiet (hq : QuietOk s) : QuietOk (s.utRanOut u) := hq.of_eq rfl rfl

/-- A claimant that is resolved, or that has an entry open, hears nothing of the line. -/
theorem testResolved_keeps {o : SlotId}
    (h : ∀ x, s.order o = some x → x.resolution ≠ none ∨ ∃ e, e ∈ x.entries ∧ e.outcome = none) : s.testResolved o = s := by
  cases hx : s.order o with
  | none => simp [State.testResolved, hx]
  | some x =>
    rcases h x hx with hr | hopen
    · simp [State.testResolved, hx, hr]
    · exact testResolved_open hx hopen

/-- The test of a line's claimant for resolution releases the line itself where it withdraws the last claim, so nothing is
left to release (R85). -/
theorem not_free_of_tested {t : State} {o : SlotId} {x : Order} (h : Tested s t o x) (hu : x.ut.has u = true)
    (hc : (s.utLine u).claims ≠ 0) : ¬ ((t.utLine u).claims = 0 ∧ (t.utLine u).minimum = .runOut) := by
  obtain ⟨hopen, hlit, hunlit⟩ := h
  by_cases hcomplete : Complete s x
  · by_cases hz : ∃ z, z ∈ x.zones ∧ (s.zone z).confirmed ≠ 0
    · rw [hlit hcomplete hz]
      exact fun hfree => hc hfree.1
    · obtain ⟨-, -, -, hline, -⟩ := hunlit hcomplete fun z hz' => by_contra fun hne => hz ⟨z, hz', hne⟩
      rw [hline u, if_pos hu]
      split
      · simp
      · assumption
  · rw [hopen hcomplete]
    exact fun hfree => hc hfree.1

end

/-- Settles O19: the last release finds nothing to do but at a line without claims. -/
theorem utMinimumEnds : Obligations.UtMinimumEnds := by
  intro s u hs hq ht
  have hexec := exec_utMinimumTimerExpiry hs ht
  rw [utMinimumEnded_eq] at hexec
  refine ⟨fun hc => ?_, fun hc hclaim => ?_, fun o x hd hx hr hu => ?_⟩
  · have hnil : (s.utLine u).claims.members = [] := by rw [hc]; exact Marks.members_zero
    have hfree : ((s.utRanOut u).releaseIfFree u) =
        s.setUt u { asserted := false, claims := 0, since := none, minimum := .stopped } := by
      rw [releaseIfFree_free (utRanOut_claims.trans hc) (by simp [utRanOut_def])]
      simp [utRanOut_def, UtLine.released, hc]
    have hquiet := settleQuiet_of_quietOk (s.setUt u { asserted := false, claims := 0, since := none, minimum := .stopped })
      (hq.of_eq rfl rfl)
    rw [hexec, hnil, List.foldl_nil, hfree, hquiet]
  · have hkeeps : (s.utLine u).claims.members.foldl (fun s o => s.testResolved o) (s.utRanOut u) = s.utRanOut u :=
      foldl_id _ _ fun o ho => testResolved_keeps fun x hx => hclaim o x ((Marks.mem_members _ _).mp ho) hx
    rw [hexec, hkeeps, releaseIfFree_keeps (fun h => hc (utRanOut_claims.symm.trans h.1)), settleQuiet_of_quietOk _ (utRanOut_quiet hq)]
    rfl
  · have hself : (s.utRanOut u).setOrder o (some x) = s.utRanOut u := setOrder_of_eq hx
    have htested := testResolved_tested (s := s.utRanOut u) (o := o) (x := x) hr (utRanOut_quiet hq)
    rw [hself] at htested
    have hclaims : ((s.utRanOut u).utLine u).claims ≠ 0 := fun h0 => by
      have hnil : (s.utLine u).claims.members = [] := by rw [← utRanOut_claims, h0]; exact Marks.members_zero
      simp [hnil] at hd
    have hfree := not_free_of_tested htested hu hclaims
    rw [settleQuiet_utLine] at hfree
    rw [hd, List.foldl_cons, List.foldl_nil, releaseIfFree_keeps hfree] at hexec
    exact ⟨_, hexec, htested⟩

end Sys2Proof.Machine
end

section
/-! PROOF. The output lines and the data they follow (chapter 11; R62, R84, R92, R118, R159, R169): each line read off the
state it is derived from. -/

namespace Sys2Proof.Machine

open Sys2Proof Sys2Proof.Safety

section
variable (s : State)

/-- A part serves in PROTECTING and BACKSTOP (R184). -/
theorem inService_iff : s.inService = true ↔ s.mode = .protecting ∨ s.mode = .backstop := by
  simp [State.inService]

theorem driven_iff (p : TripPhase) : p.driven = true ↔ p = .driving ∨ p = .holding ∨ p = .failed := by
  cases p <;> simp [TripPhase.driven]

theorem tripLine_iff (b : BreakerId) : s.tripLine b = true ↔
    s.inService = true ∧ ((s.trip b).phase = .driving ∨ (s.trip b).phase = .holding ∨ (s.trip b).phase = .failed) := by
  rw [State.tripLine, Bool.and_eq_true, driven_iff]

/-! ### Coverage and HEALTHY (R189 to R191) -/

/-- A channel is able to cover a zone it watches, in use and in QUIET, PICKUP or CONFIRMED (R188). -/
theorem ableToCover_iff (c : ChanId) (z : ZoneId) : s.ableToCover c z = true ↔
    (s.chanRec c).inUse = true ∧ ((s.chanRec c).primary = z ∨ (s.chanRec c).secondary = some z)
      ∧ ((s.chan c).phase = .quiet ∨ (s.chan c).phase = .pickup ∨ (s.chan c).phase = .confirmed) := by
  have hcovers : (s.chan c).covers = true ↔
      (s.chan c).phase = .quiet ∨ (s.chan c).phase = .pickup ∨ (s.chan c).phase = .confirmed := by
    simp [Channel.covers, or_assoc]
  rw [State.ableToCover, Bool.and_eq_true, Bool.and_eq_true, hcovers, ChannelRecord.watches, Bool.or_eq_true, beq_iff_eq,
    beq_iff_eq, and_assoc]

theorem uncovered_iff (z : ZoneId) : s.uncovered z = true ↔
    s.inService = true ∧ (s.zoneRec z).inUse = true ∧ (s.zone z).prot ≠ .held
      ∧ ∀ c, (s.chanRec c).inUse = true → (s.chanRec c).primary = z ∨ (s.chanRec c).secondary = some z →
        (s.chan c).phase ≠ .quiet ∧ (s.chan c).phase ≠ .pickup ∧ (s.chan c).phase ≠ .confirmed := by
  have hchan : (ids 24).all (fun c => !s.ableToCover c z) = true ↔
      ∀ c, (s.chanRec c).inUse = true → (s.chanRec c).primary = z ∨ (s.chanRec c).secondary = some z →
        (s.chan c).phase ≠ .quiet ∧ (s.chan c).phase ≠ .pickup ∧ (s.chan c).phase ≠ .confirmed := by
    simp only [ids, List.all_eq_true, List.mem_finRange, forall_const, Bool.not_eq_true', ← Bool.not_eq_true,
      ableToCover_iff, not_and, not_or]
  rw [State.uncovered, Bool.and_eq_true, Bool.and_eq_true, Bool.and_eq_true, hchan, bne_iff_ne, and_assoc, and_assoc]

theorem uncoveredMap_eq_zero_iff : s.uncoveredMap = 0 ↔ ∀ z, s.uncovered z = false := by
  refine ⟨fun h z => ?_, fun h => Marks.ext fun z => ?_⟩
  · rw [← Marks.has_collect (fun z => s.uncovered z) z]
    exact (congrArg (fun m : Marks 12 => m.has z) h).trans (Marks.has_zero z)
  · rw [State.uncoveredMap, Marks.has_collect, h, Marks.has_zero]

/-- The byte of a number below 256 is zero only where the number is. -/
theorem byte_eq_zero_iff {n : Nat} (h : n < 256) : BitVec.ofNat 8 n = 0 ↔ n = 0 := by
  rw [← BitVec.toNat_inj, BitVec.toNat_ofNat, Nat.mod_eq_of_lt h]; rfl

/-- In service, no HEALTHY reason stands exactly where none of its six conditions does (R190). -/
theorem reasons_eq_zero_iff (hs : s.inService = true) : s.reasons = 0 ↔
    (∀ z, s.uncovered z = false) ∧ s.lockout.fault = false ∧ s.sets.failed = false ∧ s.sup.supply = .ok
      ∧ ∀ b, (s.input b).positionFault = false := by
  have hsupply : s.sup.supply = .ok ↔ s.sup.supply ≠ .low ∧ s.sup.supply ≠ .unknown := by
    cases s.sup.supply <;> simp
  have hfault : (ids 8).any (fun b => (s.input b).positionFault) = false ↔ ∀ b, (s.input b).positionFault = false := by
    simp [ids, List.any_eq_false]
  rw [State.reasons, if_pos hs, byte_eq_zero_iff (by split_ifs <;> decide), ← uncoveredMap_eq_zero_iff, ← hfault, hsupply]
  simp [and_assoc]

theorem healthy_iff : s.healthy = true ↔
    s.mode = .protecting ∧ (∀ z, s.uncovered z = false) ∧ s.lockout.fault = false ∧ s.sets.failed = false
      ∧ s.sup.supply = .ok ∧ ∀ b, (s.input b).positionFault = false := by
  rw [State.healthy, Bool.and_eq_true, beq_iff_eq, beq_iff_eq]
  exact and_congr_right fun h => reasons_eq_zero_iff s ((inService_iff s).mpr (.inl h))

/-! ### ATTN (R169) -/

theorem isAnswered_iff (x : Slot) : x.isAnswered = true ↔ ∃ r a, x = .answered r a := by
  cases x <;> simp [Slot.isAnswered]

theorem attn_reset (h : s.mode = .reset) (p : PortId) : s.attn p = false := by simp [State.attn, h]

theorem attn_iff (h : s.mode ≠ .reset) (p : PortId) : s.attn p = true ↔
    (∃ r a, (s.port p).slot = .answered r a) ∨ 0 < s.unfetched p ∨ (s.port p).frameError = true
      ∨ (s.port p).dropped = true ∨ (s.port p).lost = true := by
  simp only [State.attn, Bool.and_eq_true, bne_iff_ne, h, not_false_eq_true, ne_eq, true_and, Bool.or_eq_true, isAnswered_iff,
    Nat.pos_iff_ne_zero, or_assoc]

end

/-- Settles O21, one line after another. -/
theorem outputLinesFollowState : Obligations.OutputLinesFollowState := by
  intro s
  refine ⟨inService_iff s, tripLine_iff s, fun b hp => ⟨fun hs => ?_, fun hs => ?_⟩, fun u => ?_, fun c => ?_,
    uncovered_iff s, healthy_iff s, fun p => rfl, attn_reset s, attn_iff s, fun p k => ⟨fun h => ?_, fun f hf _ => ?_⟩⟩
  · simp [State.ciLine, hp, hs]
  · simp [State.ciLine, hp, hs]
  · rw [State.utLevel, Bool.and_eq_true]
  · simp only [State.teLine, Bool.and_eq_true, beq_iff_eq, and_assoc]
  · rw [sdo_bit, h]; rfl
  · rw [sdo_bit, hf]; rfl

end Sys2Proof.Machine
end

section
/-! PROOF. A coupler that fails to open (R74): the escalation of the one order that demands it, across a boundary side of its
span (R80 to R82). -/

namespace Sys2Proof.Machine

open Sys2Proof Sys2Proof.Safety

section
variable {s : State} {b : BreakerId} {o : SlotId} {x : Order} {a far : ZoneId}

theorem exec_bfTimerExpiry (hs : s.inService = true) (hp : (s.trip b).phase = .driving)
    (ht : (s.trip b).bfTimer.isSome = true) : exec (.bfTimerExpiry b) s = .next (s.breakerFailed b).settleQuiet := by
  have hexec : exec (.bfTimerExpiry b) s = execBfTimerExpiry b s := rfl
  simp [hexec, execBfTimerExpiry, hs, hp, ht]

/-! ### What a failure of breaker `b` leaves alone -/

theorem failBreaker_def :
    s.failBreaker b = s.setTrip b { s.trip b with phase := .failed, bfTimer := none, failed := true } := rfl

theorem failBreaker_same : SameBut [.trips] s (s.failBreaker b) := by simp [SameBut, failBreaker_def]

theorem failBreaker_trip_other {y : BreakerId} (h : y ≠ b) : (s.failBreaker b).trip y = s.trip y := by
  rw [failBreaker_def, State.setTrip_trip, if_neg (Ne.symm h)]

theorem failBreaker_missing (m : Marks 12) : (s.failBreaker b).missing x m = s.missing x m :=
  missing_congr (failBreaker_same.inForce (by decide)) (failBreaker_same.inputs (by decide)) rfl m

theorem failBreaker_island (z : ZoneId) : (s.failBreaker b).island z = s.island z :=
  island_congr (failBreaker_same.inForce (by decide)) z

theorem failBreaker_grown (far : ZoneId) : grown (s.failBreaker b) x far = grown s x far := by
  unfold grown
  rw [failBreaker_island, failBreaker_missing]

/-! ### The escalation across a coupler (Table 4-3) -/

theorem demandQueue_nil (s : State) (o : SlotId) : s.demandQueue o [] = s := demandQueue_of_nil (l := []) rfl

/-- The one order that demands the breaker is escalated across it. -/
theorem breakerFailed_single (hd : (s.trip b).demands.members = [o]) :
    s.breakerFailed b =
      ((s.failBreaker b).escalate o b).1.demandQueue o ((s.failBreaker b).escalate o b).2 := by
  rw [State.breakerFailed, hd]; rfl

/-- With both sides or neither side in the span, a coupler is no boundary, and nothing is escalated. -/
theorem escalate_within (hx : s.order o = some x) (hr : (s.breakerRec b).role = .coupler)
    (ha : (s.breakerRec b).sideA = .zone a) (h : x.span.has a = x.span.has (s.breakerRec b).sideB) :
    s.escalate o b = (s, []) := by
  simp only [State.escalate, hx, hr, ha, Side.isIn]
  cases hb : x.span.has (s.breakerRec b).sideB <;> simp [h, hb]

/-- Side `far` of coupler `b` lies outside the span of `x`, and its other side inside. -/
def Crosses (s : State) (x : Order) (b : BreakerId) (a far : ZoneId) : Prop :=
  (x.span.has a = true ∧ x.span.has (s.breakerRec b).sideB = false ∧ far = (s.breakerRec b).sideB)
    ∨ (x.span.has a = false ∧ x.span.has (s.breakerRec b).sideB = true ∧ far = a)

/-- With one side in the span, the span grows by the other side's island, but at level 2 (R80, R81). -/
theorem escalate_across (hx : s.order o = some x) (hr : (s.breakerRec b).role = .coupler)
    (ha : (s.breakerRec b).sideA = .zone a) (h : Crosses s x b a far) :
    s.escalate o b =
      if x.level < 2 then s.growSpan o x far else (s.setOrder o (some { x with escLimit := true }), []) := by
  rcases h with ⟨hA, hB, rfl⟩ | ⟨hA, hB, rfl⟩
  · simp only [State.escalate, hx, hr, ha, Side.isIn, hA, hB]
  · simp only [State.escalate, hx, hr, ha, Side.isIn, hA, hB]

/-! ### The expiry at a DRIVING coupler (R74) -/

section
variable (hs : s.inService = true) (hp : (s.trip b).phase = .driving)
  (ht : (s.trip b).bfTimer.isSome = true) (hr : (s.breakerRec b).role = .coupler)
  (ha : (s.breakerRec b).sideA = .zone a) (hd : (s.trip b).demands.members = [o]) (hx : s.order o = some x)
include hs hp ht hr ha hd hx

theorem bfTimer_within (hq : QuietOk s) (h : x.span.has a = x.span.has (s.breakerRec b).sideB) :
    exec (.bfTimerExpiry b) s = .next (s.failBreaker b) := by
  have hesc : (s.failBreaker b).escalate o b = (s.failBreaker b, []) := escalate_within hx hr ha h
  rw [exec_bfTimerExpiry hs hp ht, breakerFailed_single hd, hesc, demandQueue_nil,
    settleQuiet_of_same hq failBreaker_same]

theorem bfTimer_limit (hq : QuietOk s) (h : Crosses s x b a far) (hl : ¬ x.level < 2) :
    exec (.bfTimerExpiry b) s = .next ((s.failBreaker b).setOrder o (some { x with escLimit := true })) := by
  have hesc : (s.failBreaker b).escalate o b =
      ((s.failBreaker b).setOrder o (some { x with escLimit := true }), []) :=
    (escalate_across (s := s.failBreaker b) hx hr ha h).trans (if_neg hl)
  have hsame : SameBut [.trips, .orders] s ((s.failBreaker b).setOrder o (some { x with escLimit := true })) :=
    SameBut.trans (t := s.failBreaker b) (failBreaker_same.mono (by decide)) (by simp [SameBut])
  rw [exec_bfTimerExpiry hs hp ht, breakerFailed_single hd, hesc, demandQueue_nil, settleQuiet_of_same hq hsame]

/-- Below level 2 the order has grown, and the breakers appended stand in its demand queue. -/
theorem bfTimer_grows (h : Crosses s x b a far) (hl : x.level < 2) :
    exec (.bfTimerExpiry b) s =
      .next (((s.failBreaker b).setOrder o (some (grown s x far))).demandQueue o
        (s.missing x (x.span ||| s.island far))).settleQuiet := by
  have hesc : (s.failBreaker b).escalate o b =
      ((s.failBreaker b).setOrder o (some (grown s x far)), s.missing x (x.span ||| s.island far)) := by
    rw [escalate_across (s := s.failBreaker b) hx hr ha h, if_pos hl, growSpan_eq, failBreaker_grown, failBreaker_island,
      failBreaker_missing]
  rw [exec_bfTimerExpiry hs hp ht, breakerFailed_single hd, hesc]

end

end

/-- An order grown by one breaker. -/
theorem grown_single {s : State} {x : Order} {far : ZoneId} {y : BreakerId}
    (h : s.missing x (x.span ||| s.island far) = [y]) :
    grown s x far = { x with
      span := x.span ||| s.island far, level := x.level + 1, entries := x.entries ++ [openEntry (x.level + 1) y]
      resolution := none, closeTimer := none } := by
  simp [grown, h]

/-- Settles O18, by the coupler's sides, the order's level and the trip states of the breakers appended. -/
theorem failedCouplerGrowsSpan : Obligations.FailedCouplerGrowsSpan := by
  intro s b o x a hs hq hp ht hr ha hd hx
  refine ⟨bfTimer_within hs hp ht hr ha hd hx hq, fun far hf => ⟨fun hl => ?_, fun hl hi => ?_, fun y hl hm hy hne he => ?_⟩⟩
  · exact bfTimer_limit hs hp ht hr ha hd hx hq hf (by omega)
  · have hfresh : ∀ y, y ∈ s.missing x (x.span ||| s.island far) →
        ((s.failBreaker b).trip y).phase = .idle ∧ ((s.failBreaker b).trip y).demands = 0 := fun y hy => by
      have hyb : y ≠ b := fun h => by
        have := (hi y hy).1
        rw [h, hp] at this
        cases this
      rw [failBreaker_trip_other hyb]
      exact hi y hy
    obtain ⟨horder, hdemanded, hsame⟩ := demandQueue_fresh (s := s.failBreaker b) (o := o) (y := grown s x far)
      ((failBreaker_same.inService (by decide)).trans hs) (missing_nodup s x _) hfresh grown_open
    have hall := (failBreaker_same.mono (qs := [.trips, .orders, .lockout]) (by decide)).trans hsame
    have hexec := bfTimer_grows hs hp ht hr ha hd hx hf hl
    rw [settleQuiet_of_same hq hall] at hexec
    refine ⟨_, hexec, (horder o).trans (if_pos rfl), fun q hq => ?_, hdemanded, hall⟩
    rw [horder, if_neg (Ne.symm hq), failBreaker_same.order _ (by decide)]
  · have hmem : y ∈ s.missing x (x.span ||| s.island far) := by rw [hm]; exact List.mem_singleton.mpr rfl
    have hbusy : ((s.failBreaker b).trip y).phase ≠ .idle := by rwa [failBreaker_trip_other hy]
    have hclosed : s.isOpen y = false := by
      obtain ⟨htrip, -⟩ := (mem_missing s x _ y).mp hmem
      simp [State.isOpen, ((mem_tripSet s _ y).mp htrip).2]
    rw [bfTimer_grows hs hp ht hr ha hd hx hf hl, hm, ← grown_single hm]
    refine demandQueue_taken ((failBreaker_same.inService (by decide)).trans hs) (hq.of_eq rfl rfl) hbusy hclosed ?_ ?_
    · rw [grown_single hm]
      exact ⟨_, List.mem_append_right _ (List.mem_singleton.mpr rfl), rfl⟩
    · obtain ⟨e, he, hother, hopen⟩ := he
      rw [grown_single hm]
      exact ⟨e, List.mem_append_left _ he, hother, hopen⟩

end Sys2Proof.Machine
end

section
/-! PROOF. An incomer that fails to open (R74): the one order that demands it is escalated across it, to its UT line (R83, R84)
or, without one, into the order's no-upstream-path set. -/

namespace Sys2Proof.Machine

open Sys2Proof Sys2Proof.Safety

section
variable {s : State} {b : BreakerId} {o : SlotId} {x : Order}

/-! ### The escalation across an incomer (Table 4-3) -/

/-- The claim of an active order: the line as `claimedBy` says, asserted or not before, and the line in the order's UT set
(R83, R84). -/
theorem claimUt_claimedBy (hx : s.order o = some x) (u : UtId) :
    s.claimUt o u = (s.setUt u (claimedBy s o u)).setOrder o (some { x with ut := x.ut.add u }) :=
  modifyOrder_some (s := s.setUt u (claimedBy s o u)) hx _

theorem setUt_setOrder_same (s : State) (u : UtId) (l : UtLine) (o : SlotId) (y : Option Order) :
    SameBut [.ut, .orders] s ((s.setUt u l).setOrder o y) := by simp [SameBut]

theorem setOrder_same (s : State) (o : SlotId) (y : Option Order) : SameBut [.orders] s (s.setOrder o y) := by
  simp [SameBut]

/-- A failed breaker changes nothing that a claim reads. -/
theorem failBreaker_claimedBy (u : UtId) : claimedBy (s.failBreaker b) o u = claimedBy s o u := by
  unfold claimedBy
  rw [failBreaker_same.utLine u (by decide), failBreaker_same.stamp (by decide), failBreaker_same.now]

theorem escalate_claims (hx : s.order o = some x) (hr : (s.breakerRec b).role = .incomer) {u : UtId}
    (hu : (s.breakerRec b).utLine = some u) :
    s.escalate o b = ((s.setUt u (claimedBy s o u)).setOrder o (some { x with ut := x.ut.add u }), []) := by
  simp only [State.escalate, hx, hr, hu, claimUt_claimedBy hx]

theorem escalate_noUpstream (hx : s.order o = some x) (hr : (s.breakerRec b).role = .incomer)
    (hu : (s.breakerRec b).utLine = none) :
    s.escalate o b = (s.setOrder o (some { x with noUpstream := x.noUpstream.add b }), []) := by
  simp only [State.escalate, hx, hr, hu]

/-! ### The expiry at a DRIVING breaker (R74) -/

/-- An escalation that appends no breaker, and leaves the batch and the zones alone, is all that the expiry does after the
failure. -/
theorem bfTimer_escalated {ps : List Part} {t : State} (hs : s.inService = true) (hq : QuietOk s)
    (hp : (s.trip b).phase = .driving) (ht : (s.trip b).bfTimer.isSome = true)
    (hd : (s.trip b).demands.members = [o]) (hesc : (s.failBreaker b).escalate o b = (t, []))
    (hsame : SameBut ps (s.failBreaker b) t) (hb : Part.batch ∉ ps := by decide) (hz : Part.zones ∉ ps := by decide) :
    exec (.bfTimerExpiry b) s = .next t := by
  have hquiet : QuietOk (s.failBreaker b) :=
    hq.of_eq (failBreaker_same.batch (by decide)) (failBreaker_same.anyBright (by decide))
  rw [exec_bfTimerExpiry hs hp ht, breakerFailed_single hd, hesc, demandQueue_nil, settleQuiet_of_same hquiet hsame hb hz]

end

/-- Settles O17, by whether the incomer has a UT line. -/
theorem failedIncomerEscalatesUpstream : Obligations.FailedIncomerEscalatesUpstream := by
  intro s b o x hs hq hp ht hr hd hx
  refine ⟨fun u hu => ?_, fun hu => ?_⟩
  · have hesc := escalate_claims (s := s.failBreaker b) hx hr hu
    rw [failBreaker_claimedBy] at hesc
    exact bfTimer_escalated hs hq hp ht hd hesc (setUt_setOrder_same _ _ _ _ _)
  · have hesc := escalate_noUpstream (s := s.failBreaker b) hx hr hu
    exact bfTimer_escalated hs hq hp ht hd hesc (setOrder_same _ _ _)

end Sys2Proof.Machine
end

section
/-! SUPPORT. What a change handed to the lockout store, a release, and the end of a lockout word update do (R94, R97 to
R100). -/

namespace Sys2Proof.Machine

open Sys2Proof Sys2Proof.Safety

/-! ### The lockout set handed to the store (R94, R97, R98) -/

section
variable (s : State) (b : BreakerId)

theorem lockoutChanged_same : SameBut [.lockout] s s.lockoutChanged := by
  rw [lockoutChanged_eq]; simp [SameBut]

theorem lockoutChanged_marks : s.lockoutChanged.lockout.marks = s.lockout.marks := by
  rw [lockoutChanged_eq]
  cases h : s.lockout.store <;> rfl

theorem lockoutChanged_idle (h : s.lockout.store = .idle) : s.lockoutChanged.lockout =
    { s.lockout with
      store := .updating, snapshot := some s.lockout.marks, timer := some (s.now + 60000)
      word := { s.lockout.word with marker := false } } := by
  rw [lockoutChanged_eq, h]; rfl

theorem lockoutChanged_busy (h : s.lockout.store ≠ .idle) :
    s.lockoutChanged.lockout = { s.lockout with store := .updatingAgain } := by
  rw [lockoutChanged_eq]
  cases hs : s.lockout.store with
  | idle => exact absurd hs h
  | updating => rfl
  | updatingAgain => simp only [State.setLockout_lockout]; rw [← hs]

/-! ### The release (R94) -/

/-- The state with breaker `b`'s mark dropped from the set, before the store hears of it (R94). -/
def State.markDropped : State := s.setLockout { s.lockout with marks := s.lockout.marks.drop b }

theorem releaseBreaker_lockout : (s.releaseBreaker b).lockout = (s.markDropped b).lockoutChanged.lockout := by
  unfold State.releaseBreaker; dsimp only
  rw [lockoutChanged_eq, lockoutChanged_eq]; rfl

theorem releaseBreaker_trip (a : BreakerId) :
    (s.releaseBreaker b).trip a = if b = a then Trip.atReset else s.trip a := by
  unfold State.releaseBreaker
  rw [(lockoutChanged_same _).trip _ (by decide)]
  exact State.setTrip_trip ..

theorem releaseBreaker_input (a : BreakerId) : (s.releaseBreaker b).input a =
    if b = a then { s.input b with closedAgainstLockout := false } else s.input a := by
  unfold State.releaseBreaker
  rw [(lockoutChanged_same _).input _ (by decide)]
  exact State.setInput_input ..

theorem releaseBreaker_marks : (s.releaseBreaker b).lockout.marks = s.lockout.marks.drop b := by
  rw [releaseBreaker_lockout, lockoutChanged_marks]; rfl

theorem releaseBreaker_locked (a : BreakerId) :
    (s.releaseBreaker b).locked a = (s.locked a && decide (b ≠ a)) := by
  rw [State.locked, releaseBreaker_marks, Marks.has_drop, State.locked]

theorem releaseBreaker_idle (h : s.lockout.store = .idle) :
    (s.releaseBreaker b).lockout.store = .updating
      ∧ (s.releaseBreaker b).lockout.snapshot = some (s.lockout.marks.drop b)
      ∧ (s.releaseBreaker b).lockout.timer = some (s.now + 60000)
      ∧ (s.releaseBreaker b).lockout.word.valid = false := by
  rw [releaseBreaker_lockout, lockoutChanged_idle (s.markDropped b) h]
  exact ⟨rfl, rfl, rfl, rfl⟩

theorem releaseBreaker_busy (h : s.lockout.store ≠ .idle) :
    (s.releaseBreaker b).lockout.store = .updatingAgain
      ∧ (s.releaseBreaker b).lockout.snapshot = s.lockout.snapshot
      ∧ (s.releaseBreaker b).lockout.timer = s.lockout.timer := by
  rw [releaseBreaker_lockout, lockoutChanged_busy (s.markDropped b) h]
  exact ⟨rfl, rfl, rfl⟩

/-! ### The end of an update (R99, R100) -/

theorem updateEnded_idle (h : s.lockout.store ≠ .updatingAgain) :
    s.updateEnded = s.setLockout { s.lockout with store := .idle, snapshot := none, timer := none } := by
  unfold State.updateEnded
  cases hs : s.lockout.store with
  | updatingAgain => exact absurd hs h
  | idle | updating => rfl

theorem updateEnded_again (h : s.lockout.store = .updatingAgain) :
    s.updateEnded = s.setLockout { s.lockout with
      store := .updating, snapshot := some s.lockout.marks, timer := some (s.now + 60000)
      word := { s.lockout.word with marker := false } } := by
  unfold State.updateEnded; rw [h]; rfl

theorem updateEnded_same : SameBut [.lockout] s s.updateEnded := by
  by_cases h : s.lockout.store = .updatingAgain
  · rw [updateEnded_again s h]; simp [SameBut]
  · rw [updateEnded_idle s h]; simp [SameBut]

theorem updateEnded_marks : s.updateEnded.lockout.marks = s.lockout.marks := by
  by_cases h : s.lockout.store = .updatingAgain
  · rw [updateEnded_again s h]; rfl
  · rw [updateEnded_idle s h]; rfl

end

end Sys2Proof.Machine
end

section
/-! PROOF. Every step keeps the two invariants of lockouts (R91, R96, R97, R99): breakers leave IDLE, and the lockout set and
its store change, by seven moves only, and each invariant needs to stand under those. -/

namespace Sys2Proof.Machine

open Sys2Proof Sys2Proof.Safety

/-! ### The moves of lockouts -/

/-- No breaker leaves IDLE, and the lockout unit stands as it stood, in or out of service as before. -/
def LockoutKept (s t : State) : Prop :=
  t.lockout = s.lockout ∧ t.inService = s.inService ∧ ∀ b, (s.trip b).phase = .idle → (t.trip b).phase = .idle

theorem lockoutKept_of_same {ps : List Part} {s t : State} (h : SameBut ps s t) (hm : Part.mode ∉ ps := by decide)
    (ht : Part.trips ∉ ps := by decide) (hl : Part.lockout ∉ ps := by decide) : LockoutKept s t :=
  ⟨h.lockout hl, h.inService hm, fun b hb => by rw [h.trip b ht]; exact hb⟩

/-- A property of trip states and lockouts that no move of a step breaks. (A `Stable` property stands under every change of
trip records and of the lockout unit; these properties tie the two, and stand under the changes that a step makes.) -/
structure Interlocked (P : State → Prop) : Prop where
  /-- No breaker leaves IDLE, and no lockout changes. -/
  kept : ∀ {s t}, P s → LockoutKept s t → P t
  /-- A breaker's trip state changes, and it is locked with it (R63, R91). -/
  driven : ∀ {s} b x, P s → P ((s.setTrip b x).lock b)
  /-- An accepted release (R94). -/
  released : ∀ {s} b, P s → P (s.releaseBreaker b)
  /-- An update's completion (R99). -/
  completed : ∀ {s m}, s.lockout.snapshot = some m → P s →
    P (s.setLockout { s.lockout with fault := false, word := .holding m }).updateEnded
  /-- An update's end by its timer (R100). -/
  abandoned : ∀ {s}, P s → P (s.setLockout { s.lockout with fault := true, abandonedAt := some s.now }).updateEnded
  /-- A reset (R62, R102). -/
  reset : ∀ {t : State}, t.inService = false → (∀ b, (t.trip b).phase = .idle) → t.lockout.store = .idle →
    t.lockout.snapshot = none → P t
  /-- The end of LOADING (R101). -/
  loaded : ∀ s : State, P s.loadSettings.loadLockouts.startBlocks

/-! ### The two invariants under the moves -/

/-- A breaker not IDLE is LOCKED (R91). -/
theorem interlocked_drivenIsLocked : Interlocked DrivenIsLocked where
  kept {s t} h k b hb := by
    obtain ⟨hlock, -, hidle⟩ := k
    have hlocked : t.locked b = s.locked b := by rw [State.locked, hlock, State.locked]
    rw [hlocked]; exact h b fun hi => hb (hidle b hi)
  driven {s} b x h a ha := by
    rw [lock_trip, State.setTrip_trip] at ha
    rw [locked_lock, State.setTrip_locked]
    split at ha
    · rename_i hba; simp [hba]
    · simp [h a ha]
  released {s} b h a ha := by
    rw [releaseBreaker_trip] at ha
    rw [releaseBreaker_locked]
    split at ha
    · exact absurd rfl ha
    · rename_i hba; simp [h a ha, hba]
  completed {s m} _ h b hb := by
    rw [(updateEnded_same _).trip _ (by decide)] at hb
    rw [State.locked, updateEnded_marks]; exact h b hb
  abandoned {s} h b hb := by
    rw [(updateEnded_same _).trip _ (by decide)] at hb
    rw [State.locked, updateEnded_marks]; exact h b hb
  reset _ hidle _ _ b hb := absurd (hidle b) hb
  loaded s b hb := absurd (by rw [startBlocks_trip]; rfl) hb

theorem lockoutWordOk_congr {s t : State} (hl : t.lockout = s.lockout) (hs : t.inService = s.inService)
    (h : LockoutWordOk s) : LockoutWordOk t := by
  unfold LockoutWordOk at *; rw [hl, hs]; exact h

/-- A change handed to the store invalidates the word, or finds it invalid (R97, R98). -/
theorem lockoutWordOk_lockoutChanged {s : State} (hstore : s.lockout.store ≠ .idle ↔ s.lockout.snapshot.isSome = true)
    (hword : s.lockout.snapshot.isSome = true → s.lockout.word.valid = false) : LockoutWordOk s.lockoutChanged := by
  unfold LockoutWordOk
  by_cases hi : s.lockout.store = .idle
  · rw [lockoutChanged_idle _ hi]
    simp [LockoutWord.valid]
  · have hsnap := hstore.mp hi
    rw [lockoutChanged_busy _ hi]
    simp [hsnap, hword hsnap]

/-- The end of an update, where a word that stays valid holds the set (R99, R100). -/
theorem lockoutWordOk_updateEnded {s : State}
    (h : s.inService = true → s.lockout.store ≠ .updatingAgain → s.lockout.word.valid = true →
      s.lockout.word.marks = s.lockout.marks) : LockoutWordOk s.updateEnded := by
  unfold LockoutWordOk
  rw [(updateEnded_same s).inService (by decide)]
  by_cases ha : s.lockout.store = .updatingAgain
  · rw [updateEnded_again s ha]
    simp [LockoutWord.valid]
  · rw [updateEnded_idle s ha]
    simpa using fun hs => h hs ha

/-- The word is valid only while it holds the lockout set (R96, R97, R99). -/
theorem interlocked_lockoutWordOk : Interlocked LockoutWordOk where
  kept h k := by
    obtain ⟨hlock, hserve, -⟩ := k
    exact lockoutWordOk_congr hlock hserve h
  driven b x h := by
    unfold State.lock; split
    · exact h
    · obtain ⟨hstore, hword, -⟩ := h
      exact lockoutWordOk_lockoutChanged hstore hword
  released {s} b h := by
    obtain ⟨hstore, hword, -⟩ := h
    have hdropped : LockoutWordOk (s.markDropped b).lockoutChanged := lockoutWordOk_lockoutChanged hstore hword
    refine lockoutWordOk_congr (releaseBreaker_lockout s b) ?_ hdropped
    rw [(releaseBreaker_same s b).inService (by decide), (lockoutChanged_same _).inService (by decide)]
    rfl
  completed {s m} hm h := by
    obtain ⟨hstore, -, hsnap, -⟩ := h
    have hbusy : s.lockout.store ≠ .idle := hstore.mpr (by rw [hm]; rfl)
    refine lockoutWordOk_updateEnded fun hs ha _ => ?_
    have hupdating : s.lockout.store = .updating := by
      cases hst : s.lockout.store with
      | idle => exact absurd hst hbusy
      | updating => rfl
      | updatingAgain => exact absurd hst ha
    exact Option.some.inj (hm.symm.trans (hsnap hs hupdating))
  abandoned h := by
    obtain ⟨-, -, -, hmarks⟩ := h
    exact lockoutWordOk_updateEnded fun hs _ => hmarks hs
  reset {t} hs _ hst hsn := by
    unfold LockoutWordOk; rw [hs, hst, hsn]; simp
  loaded s := by
    refine lockoutWordOk_congr (s := s.loadSettings.loadLockouts) (startBlocks_lockout _)
      ((startBlocks_same _).inService (by decide)) ?_
    generalize s.loadSettings = u
    unfold LockoutWordOk
    cases hw : u.lockout.word.valid with
    | true =>
      obtain ⟨hmarks, hst, hsn, hword⟩ := loadLockouts_valid u hw
      rw [hst, hsn, hword, hmarks]; simp
    | false =>
      obtain ⟨-, hst, hsn, -, hword⟩ := loadLockouts_invalid u hw
      rw [hst, hsn, hword]; simp

/-! ### What the changes of orders leave alone -/

theorem escalate_same (s : State) (o : SlotId) (b : BreakerId) : SameBut [.orders, .ut] s (s.escalate o b).1 := by
  have hset : ∀ y, SameBut [.orders, .ut] s (s.setOrder o y) := fun y => (setOrder_same s o y).mono (by simp)
  have hgrow : ∀ x far, SameBut [.orders, .ut] s (s.growSpan o x far).1 := fun x far => by rw [growSpan_eq]; exact hset _
  unfold State.escalate; split
  · exact SameBut.refl _ _
  · dsimp only; split
    · split
      · exact SameBut.trans (t := s.setUt _ _) (by simp [SameBut]) ((modifyOrder_same _ o _).mono (by simp))
      · exact hset _
    · split
      · exact SameBut.refl _ _
      · exact SameBut.refl _ _
      · split
        · exact hgrow _ _
        · exact hset _
      · split
        · exact SameBut.refl _ _
        · split
          · exact hgrow _ _
          · exact hset _

theorem noSource_same (s : State) (z : ZoneId) : SameBut [.zones, .records, .ports] s (s.noSource z) := by
  unfold State.noSource; split
  · exact SameBut.refl _ _
  · exact sameBut_setZone (sameBut_seal (SameBut.refl _ _) _ (by decide) (by decide)) _ _ (by decide)

theorem enterArc_same (s : State) (z : ZoneId) (o : SlotId) : SameBut [.channels, .zones, .batch] s (s.enterArc z o) :=
  SameBut.trans (t := s.setZone z _) (by simp [SameBut]) ((noteArc_same _).mono (by simp))

theorem stepTime_same (s : State) : SameBut [.orders, .records, .time, .ports] s s.stepTime := by
  unfold State.stepTime; simp [SameBut]

namespace Interlocked

variable {P : State → Prop} (h : Interlocked P) {s : State} (hs : P s)
include h hs

/-! ### The moves as they come -/

theorem same {ps : List Part} {t : State} (k : SameBut ps s t) (hm : Part.mode ∉ ps := by decide)
    (ht : Part.trips ∉ ps := by decide) (hl : Part.lockout ∉ ps := by decide) : P t :=
  h.kept hs (lockoutKept_of_same k hm ht hl)

theorem of_eq {t : State} (hl : t.lockout = s.lockout) (hi : t.inService = s.inService) (ht : t.trips = s.trips) : P t :=
  h.kept hs ⟨hl, hi, fun b hb => by rw [State.trip, ht]; exact hb⟩

/-- A trip record changes, and IDLE stays IDLE. -/
theorem setTrip {b : BreakerId} {x : Trip} (hx : (s.trip b).phase = .idle → x.phase = .idle) : P (s.setTrip b x) :=
  h.kept hs ⟨rfl, rfl, fun a ha => by
    rw [State.setTrip_trip]; split
    · rename_i hba; subst hba; exact hx ha
    · exact ha⟩

theorem settleQuiet : P s.settleQuiet := h.same hs (settleQuiet_same s)

theorem sealed (b : RecordBody) : P (s.seal b) := h.same hs (seal_same s b)

/-! ### Resolution and close: a close empties demand sets only (R71) -/

theorem closeOrder (o : SlotId) : P (s.closeOrder o) := by
  cases hx : s.order o with
  | none => rw [State.closeOrder, hx]; exact hs
  | some x =>
    obtain ⟨-, -, htrip, -, -, hsame⟩ := closeOrder_spec hx
    refine h.kept hs ⟨hsame.lockout (by decide), hsame.inService (by decide), fun b hb => ?_⟩
    rw [htrip b]; split <;> exact hb

theorem testResolved (o : SlotId) : P (s.testResolved o) := by
  have hset : ∀ {u : State} y, P u → P (u.setOrder o y) := fun y hu => h.same hu (setOrder_same _ o y)
  unfold State.testResolved; split
  · exact hs
  · split
    · dsimp only; split
      · exact h.closeOrder (hset _ hs) o
      · exact hset _ (hset _ hs)
    · exact hs

theorem testDarkClose (o : SlotId) : P (s.testDarkClose o) := by
  unfold State.testDarkClose; split
  · exact hs
  · split
    · exact h.closeOrder hs o
    · exact hs

theorem writeOutcome (b : BreakerId) (v : BreakerOutcome) (o : SlotId) : P (s.writeOutcome b v o) :=
  h.testResolved (h.same hs (modifyOrder_same s o _)) o

theorem writeOutcomes (b : BreakerId) (v : BreakerOutcome) : P (s.writeOutcomes b v) :=
  holds_foldl hs (fun o hs => h.writeOutcome hs b v o) (s.trip b).demands.members

theorem clearOutcomes (b : BreakerId) : P (s.clearOutcomes b) := h.same hs (clearOutcomes_same s b)

/-! ### Demands and escalation: a breaker that leaves IDLE is locked (R63, R91) -/

theorem escalate (o : SlotId) (b : BreakerId) : P (s.escalate o b).1 := h.same hs (escalate_same s o b)

theorem demand (o : SlotId) (b : BreakerId) : P (s.demand o b).1 := by
  have hadd : P (s.addDemand o b) := h.setTrip hs id
  unfold State.demand; dsimp only
  split
  · exact h.clearOutcomes (h.driven b _ hadd) b
  · exact hadd
  · exact h.writeOutcome hadd b _ o
  · exact h.escalate hadd o b
  · rename_i hopen
    split
    · exact h.writeOutcome hadd b _ o
    · exact h.clearOutcomes (h.setTrip hadd fun hi => absurd (hopen.symm.trans hi) (by decide)) b
  · exact h.writeOutcome (h.escalate hadd o b) b _ o

theorem demandAll (o : SlotId) (q : List BreakerId) : P (s.demandAll o q).1 := by
  induction q generalizing s with
  | nil => exact hs
  | cons b bs ih => exact ih (h.demand hs o b)

theorem runQueue (o : SlotId) (n : Nat) (q : List BreakerId) : P (s.runQueue o n q) := by
  induction n generalizing s q with
  | zero => exact h.demandAll hs o q
  | succ n ih =>
    unfold State.runQueue; dsimp only
    split
    · exact h.demandAll hs o q
    · exact ih (h.demandAll hs o q) _

theorem demandQueue (o : SlotId) (q : List BreakerId) : P (s.demandQueue o q) := h.runQueue hs o 2 q

/-- An order put in its slot, with the demands that follow. -/
theorem setOrder_demandQueue (o : SlotId) (y : Option Order) (q : List BreakerId) :
    P ((s.setOrder o y).demandQueue o q) := h.demandQueue (h.same hs (setOrder_same s o y)) o q

theorem demandMissing (o : SlotId) : P (s.demandMissing o) := by
  unfold State.demandMissing; split
  · exact hs
  · exact h.setOrder_demandQueue hs o _ _

theorem closeOnto (b : BreakerId) (o : SlotId) : P (s.closeOnto b o) := by
  unfold State.closeOnto; split
  · exact hs
  · split
    · exact h.setOrder_demandQueue hs o _ _
    · exact hs

/-! ### The evaluation of a LIT zone (R55 to R59) -/

/-- A zone enters an order put in its slot. -/
theorem setOrder_enterArc (z : ZoneId) (o : SlotId) (y : Option Order) : P ((s.setOrder o y).enterArc z o) :=
  h.same (h.same hs (setOrder_same s o y)) (enterArc_same _ z o)

theorem createOrder (z : ZoneId) (trip : List BreakerId) : P (s.createOrder z trip) := by
  unfold State.createOrder; split
  · exact hs
  · exact h.demandQueue (h.setOrder_enterArc hs z _ _) _ _

theorem joinOrder (z : ZoneId) (o : SlotId) : P (s.joinOrder z o) := by
  unfold State.joinOrder; split
  · exact hs
  · dsimp only; split
    · exact h.setOrder_enterArc hs z o _
    · exact h.demandQueue (h.setOrder_enterArc hs z o _) o _

theorem evaluate (z : ZoneId) : P (s.evaluate z) := by
  unfold State.evaluate; split
  · split
    · split
      · exact h.same hs (noSource_same s z)
      · split
        · exact h.joinOrder hs z _
        · exact h.createOrder hs z _
    · exact hs
  · exact hs

theorem evaluateWhere (p : State → ZoneId → Bool) : P (s.evaluateWhere p) :=
  holds_foldl hs (fun z hs => by
    split
    · exact h.evaluate hs z
    · exact hs) (ids 12)

theorem mapWritten : P s.mapWritten := by
  have hdemanded : P ((ids 12).foldl (fun s o => s.demandMissing o) s) :=
    holds_foldl hs (fun o hs => h.demandMissing hs o) (ids 12)
  exact h.evaluateWhere hdemanded _

/-! ### Reports of channels (R22, R49 to R51) -/

theorem setZone (z : ZoneId) (x : Zone) : P (s.setZone z x) := h.of_eq hs rfl rfl rfl

theorem litEvaluate (z : ZoneId) : P ((s.enterLit z).evaluate z) := h.evaluate (h.same hs (enterLit_same s z)) z

theorem confirmedAt (c : ChanId) (z : ZoneId) : P (s.confirmedAt c z) := by
  unfold State.confirmedAt; split
  · exact h.litEvaluate hs z
  · exact hs
  · split
    · exact hs
    · exact h.same hs (modifyOrder_same s _ _)
  · split
    · exact hs
    · exact h.setZone (h.sealed hs _) z _

theorem confirmReport (c : ChanId) (z : ZoneId) : P (s.confirmReport c z) := by
  unfold State.confirmReport; split
  · exact hs
  · dsimp only; split
    · exact h.confirmedAt (h.setZone hs z _) c z
    · exact h.setZone hs z _

theorem darkenedAt (z : ZoneId) : P (s.darkenedAt z) := by
  unfold State.darkenedAt; split
  · exact h.setZone hs z _
  · split
    · exact hs
    · exact h.testDarkClose hs _
  all_goals exact hs

theorem dropReport (c : ChanId) (z : ZoneId) : P (s.dropReport c z) := by
  unfold State.dropReport; split
  · dsimp only; split
    · exact h.darkenedAt (h.setZone hs z _) z
    · exact h.setZone hs z _
  · exact hs

theorem putChannel (c : ChanId) (zs : List ZoneId) (x : Channel) : P (s.putChannel c zs x) := by
  have hset : P (s.setChan c x) := h.of_eq hs rfl rfl rfl
  unfold State.putChannel; dsimp only; split
  · exact holds_foldl hset (fun z hs => h.confirmReport hs c z) zs
  · split
    · exact holds_foldl hset (fun z hs => h.dropReport hs c z) zs
    · exact hset

/-! ### Reports of breakers (R37, R42, R64 to R68): a report moves no breaker that is IDLE -/

theorem tripReport (b : BreakerId) : P (s.tripReport b) := by
  have hset : ∀ x, (s.trip b).phase ≠ .idle → P (s.setTrip b x) := fun _ hne => h.setTrip hs fun hi => absurd hi hne
  have hopened : (s.trip b).phase ≠ .idle → P (s.breakerOpened b) := fun hne => h.writeOutcomes (hset _ hne) b _
  unfold State.tripReport; split
  · rename_i hp; split
    · exact hopened (by rw [hp]; decide)
    · exact hs
  · rename_i hp; split
    · exact hopened (by rw [hp]; decide)
    · exact hs
  · rename_i hp; split
    · exact hs
    · exact h.clearOutcomes (hset _ (by rw [hp]; decide)) b
  all_goals exact hs

theorem leftOpen (b : BreakerId) : P (s.leftOpen b) := by
  unfold State.leftOpen; dsimp only
  refine h.evaluateWhere ?_ _
  split
  · exact holds_foldl (f := fun s o => s.closeOnto b o) hs (fun o hs => h.closeOnto hs b o) (ids 12)
  · exact hs

theorem currentSettled (b : BreakerId) : P (s.currentSettled b) := by
  have hset : P (s.setInput b (s.currentTaken b)) := h.of_eq hs rfl rfl rfl
  rw [currentSettled_eq]
  split
  · exact hset
  · split
    · exact h.tripReport (h.evaluateWhere hset _) b
    · exact h.tripReport hset b

theorem positionSettled (b : BreakerId) : P (s.positionSettled b) := by
  have hreported : P ((s.positionMoved b).tripReport b) := h.tripReport (h.same hs (positionMoved_same s b)) b
  rw [positionSettled_eq]
  split
  · exact h.of_eq hs rfl rfl rfl
  · split
    · exact h.leftOpen hreported b
    · exact hreported

theorem breakerFailed {b : BreakerId} (hp : (s.trip b).phase = .driving) : P (s.breakerFailed b) := by
  have hfailed : P (s.failBreaker b) := h.setTrip hs fun hi => absurd (hp.symm.trans hi) (by decide)
  exact holds_foldl hfailed (fun o hs => h.demandQueue (h.escalate hs o b) o _) (s.trip b).demands.members

theorem breakerSpent {b : BreakerId} (hp : (s.trip b).phase = .failed) : P (s.breakerSpent b) :=
  h.writeOutcomes (h.setTrip hs fun hi => absurd (hp.symm.trans hi) (by decide)) b _

theorem pulseEnded (b : BreakerId) : P (s.pulseEnded b) := by
  unfold State.pulseEnded; dsimp only
  split
  · rename_i hp; exact h.setTrip hs fun hi => absurd (hp.symm.trans hi) (by decide)
  · exact h.setTrip hs id

theorem utMinimumEnded (u : UtId) : P (s.utMinimumEnded u) := by
  have htested := holds_foldl (s := s.setUt u { s.utLine u with minimum := .runOut }) (f := fun s o => s.testResolved o)
    (h.of_eq hs rfl rfl rfl) (fun o hs => h.testResolved hs o) (s.utLine u).claims.members
  unfold State.utMinimumEnded State.releaseIfFree; dsimp only
  split
  · exact h.of_eq htested rfl rfl rfl
  · exact htested

/-! ### The test engine -/

theorem setBatch (b : Batch) : P (s.setBatch b) := h.of_eq hs rfl rfl rfl

theorem takeUpFrom (l : List ChanId) : P (s.takeUpFrom l) := by
  induction l generalizing s with
  | nil => exact h.setBatch hs _
  | cons c cs ih =>
    unfold State.takeUpFrom; split
    · split
      · exact ih (h.setBatch hs _)
      · exact h.setBatch (h.putChannel hs c _ _) _
    · exact ih hs

theorem takeUp : P s.takeUp := h.takeUpFrom hs _

theorem resume : P s.resume := h.takeUp (h.setBatch hs _)

theorem giveVerdict (c : ChanId) (v : Verdict) (r : Nat) : P (s.giveVerdict c v r) := by
  rw [giveVerdict_eq]
  exact h.takeUp (h.same (h.same hs (verdictReleased_same s c v r)) (testEnded_same _ c (.verdict v)))

theorem channelTaken (c : ChanId) (r : TestResult) : P (s.channelTaken c r) := by
  unfold State.channelTaken; split
  · exact h.takeUp (h.same hs (testEnded_same s c r))
  · exact hs

theorem windowEnded : P s.windowEnded := by
  unfold State.windowEnded; dsimp only; split
  · exact h.setBatch hs _
  · exact h.takeUp (h.setBatch hs _)

theorem testSample (c : ChanId) (v : Nat) : P (s.testSample c v) := by
  have hdark : ∀ {u : State}, P u → P (u.darkVerdict c) := fun hu => by
    rw [darkVerdict_eq]; exact h.giveVerdict (h.same hu (referenceWritten_same _ c _ _)) c _ _
  unfold State.testSample; dsimp only
  split
  · split
    · split
      · exact hs
      · split <;> exact h.setBatch hs _
    · split
      · split
        · exact hdark (h.setBatch hs _)
        · exact h.setBatch hs _
      · exact h.setBatch hs _
    · exact hs
  · exact hs

/-! ### Samples, holds and settings writes -/

theorem okArrival (c : ChanId) (v : Nat) : P (s.okArrival c v) := by
  have hset : P (s.setChan c (s.chan c).okRuns) := h.of_eq hs rfl rfl rfl
  unfold State.okArrival; dsimp only; split
  · exact h.testSample hset c v
  · exact h.putChannel hs c _ _

theorem nonOkArrival (c : ChanId) : P (s.nonOkArrival c) := by
  have hput := h.putChannel hs c (s.chanRec c).zones ((s.chan c).nonOkSample s.inForce.fast)
  unfold State.nonOkArrival; dsimp only
  split
  · split
    · exact h.channelTaken (h.sealed hput _) c _
    · exact h.sealed hput _
  · exact hput

theorem enterHeld (z : ZoneId) : P (s.enterHeld z) := h.same (h.setZone hs z _) (countClear_same _ z)

theorem placeHold (z : ZoneId) (p : PortId) (e : Nat) : P (s.placeHold z p e) := by
  have hset : P (s.setHold z p (some e)) := h.setZone hs z _
  unfold State.placeHold State.acknowledgeHold; dsimp only
  split
  · exact hset
  · split
    · exact h.enterHeld hset z
    · exact h.enterHeld hset z
    all_goals exact hset

theorem holdsEnded (z : ZoneId) : P (s.holdsEnded z) := by
  have hdark : P (s.enterDark z) := h.setZone hs z _
  unfold State.holdsEnded; split
  · exact holds_foldl hdark (fun c hs => h.putChannel hs c _ _) (s.watchers z)
  all_goals exact hs

theorem freeHold (z : ZoneId) (p : PortId) : P (s.freeHold z p) := by
  have hset : P (s.setHold z p none) := h.setZone hs z _
  unfold State.freeHold; split
  · exact hs
  · dsimp only; split
    · exact hset
    · exact h.settleQuiet (h.holdsEnded hset z)

theorem expireZone (e : Nat) (z : ZoneId) : P (s.expireZone e z) := by
  have hgone := holds_foldl hs (f := fun s p => s.expireEntry z p) (fun p hs => h.sealed (h.setZone hs z _) _)
    ((ids 3).filter (fun p => s.holdOf z p == some e))
  unfold State.expireZone; dsimp only; split
  · exact hs
  · split
    · exact hgone
    · exact h.holdsEnded hgone z

theorem restartChannel (c : ChanId) (zs : List ZoneId) : P (s.restartChannel c zs) := by
  have hput := h.putChannel hs c zs ((s.chan c).restart (s.chanRec c).inUse s.inForce.fast)
  unfold State.restartChannel; dsimp only
  split
  · exact h.channelTaken hput c _
  · exact hput

theorem setSets (x : SettingsUnit) : P (s.setSets x) := h.of_eq hs rfl rfl rfl

theorem markWritten : P s.markWritten := h.settleQuiet (h.setSets hs _)

theorem writeChannel (c : ChanId) (r : ChannelRecord) : P (s.writeChannel c r) :=
  h.markWritten (h.restartChannel (h.setSets hs _) c _)

theorem writeZone (z : ZoneId) (x : ZoneRecord) : P (s.writeZone z x) := by
  have hput : P (s.putZoneRecord z x) := h.setSets hs _
  refine h.markWritten (holds_inProtecting hput (h.mapWritten ?_))
  split
  · unfold State.zoneEntersUse; split
    · exact h.litEvaluate hput z
    · exact hput
  · exact hput

theorem writeLink (l : LinkId) (x : Option (ZoneId × ZoneId)) : P (s.writeLink l x) :=
  h.markWritten (holds_inProtecting (h.setSets hs _) (h.mapWritten (h.setSets hs _)))

theorem writeBreaker (b : BreakerId) (x : BreakerRecord) : P (s.writeBreaker b x) := by
  have hput : P (s.putBreakerRecord b x) := h.setSets hs _
  exact h.markWritten (holds_inProtecting hput (h.mapWritten (h.same hput (superviseBreaker_same ..))))

/-! ### Requests -/

theorem complete {row : RequestRow} {body : PortId → Request → State → State × Answer} (hb : ∀ p r, P (body p r s).1) :
    P (s.complete row body) := by
  have hdone : ∀ {u : State} p r a, P u → P (u.answer p r a).grantNext := fun p r a hu =>
    h.same hu (answer_grantNext _ p r a).2
  unfold State.complete
  split
  · exact hs
  · rename_i p r _
    split
    · cases s.inService with
      | false => exact hdone _ _ _ hs
      | true => exact hdone _ _ _ (hb p r)
    · exact hs

/-- Every request's checks and effect. -/
theorem command (row : RequestRow) : Gives P (exec row.command s) := by
  cases row <;> refine gives_next.mpr (h.complete hs fun p r => ?_)
  case readItem =>
    unfold readItemBody
    split
    · exact hs
    · dsimp only; split <;> exact hs
  case writeChannel =>
    unfold writeChannelBody
    split
    · dsimp only; split
      · exact hs
      · split_ifs
        exacts [hs, h.writeChannel hs _ _, hs]
    · exact hs
  case writeZone =>
    unfold writeZoneBody
    split
    · dsimp only; split
      · exact hs
      · split_ifs
        exacts [hs, h.writeZone hs _ _, hs]
    · exact hs
  case writeLink =>
    unfold writeLinkBody
    split
    · dsimp only; split
      · exact hs
      · split_ifs
        exacts [hs, h.writeLink hs _ _, hs]
    · exact hs
  case writeBreaker =>
    unfold writeBreakerBody
    split
    · dsimp only; split
      · exact hs
      · split_ifs
        exacts [hs, h.writeBreaker hs _ _, hs]
    · exact hs
  case writePort =>
    unfold writePortBody
    split
    · exact h.markWritten (h.setSets hs _)
    · exact hs
  case writeGlobal =>
    unfold writeGlobalBody
    split
    · split
      · exact hs
      · exact h.markWritten (h.setSets hs _)
    · exact hs
  case holdZone =>
    unfold holdBody
    split
    · dsimp only; split
      · exact h.settleQuiet (h.placeHold hs _ _ _)
      · exact hs
    · exact hs
  case freeZone =>
    unfold freeBody
    split
    · exact h.freeHold hs _ _
    · exact hs
  case releaseLockout =>
    unfold releaseBody
    split
    · dsimp only
      split_ifs
      case pos | pos | pos | neg => exact hs
      exact h.released _ hs
    · exact hs
  case testChannels =>
    unfold testChannelsBody
    dsimp only
    split
    · exact hs
    · split
      · exact h.setBatch hs _
      · split
        · exact h.setBatch hs _
        · exact hs
      all_goals exact hs
  case suspendTest =>
    have hsuspended : P (s.suspend .request) := h.same hs (suspend_same s .request)
    unfold suspendBody
    split
    · exact hs
    · exact hsuspended
    · exact hsuspended
    · exact h.setBatch hs _
  case resumeTest =>
    unfold resumeBody
    split
    · exact hs
    · exact hs
    · exact hs
    · split
      · dsimp only; split
        · exact h.setBatch hs _
        · exact h.settleQuiet (h.resume hs)
      · exact hs
  case fetchRecord =>
    unfold fetchBody
    split
    · exact hs
    · split
      · exact hs
      · split
        · exact h.of_eq hs rfl rfl rfl
        · exact hs
  case peekOrder =>
    unfold peekBody
    split
    · exact hs
    · split <;> exact hs
  case commitSettings =>
    unfold commitBody
    split
    · exact hs
    · exact h.setSets hs _
  case setSeconds => exact h.of_eq hs rfl rfl rfl
  case unknown => exact hs

/-! ### Every command -/

theorem sampleArrival (c : ChanId) (v : Nat) (line : LineStatus) : Gives P (execSampleArrival c v line s) := by
  have hbroken := h.settleQuiet (h.nonOkArrival hs c)
  refine gives_ite (gives_fault _) (gives_ite ?_ (gives_next.mpr hs))
  cases line with
  | ok => exact gives_next.mpr (h.settleQuiet (h.okArrival hs c v))
  | openLoop | short => exact gives_next.mpr hbroken

theorem syncPulse : Gives P (execSyncPulse s) := by
  have htime : ∀ x, P (s.setTime x) := fun _ => h.of_eq hs rfl rfl rfl
  have hstep : P s.stepTime := h.same hs (stepTime_same s)
  refine gives_ite ?_ (gives_next.mpr hs)
  exact gives_ite (gives_next.mpr (htime _)) (gives_ite (gives_next.mpr (htime _))
    (gives_ite (gives_next.mpr hstep) (gives_next.mpr (htime _))))

theorem setPort (p : PortId) (x : Port) : P (s.setPort p x) := h.of_eq hs rfl rfl rfl

/-- A transaction's start moves the port's line and fixes its frame (R159, R161). -/
theorem transactionStart (p : PortId) : Gives P (execTransactionStart p s) := by
  have hstatus : ∀ {u : State}, P u → P (u.fixStatus p) := fun hu => by
    unfold State.fixStatus; dsimp only
    split
    · exact h.setPort (h.setPort hu p _) p _
    · exact h.setPort hu p _
  have hstart : ∀ x, P (s.setPort p x) := h.setPort hs p
  refine gives_ite (gives_next.mpr hs) (gives_next.mpr ?_)
  dsimp only
  split
  · exact hstart _
  · unfold State.fixFrame
    split
    · exact h.setPort (hstart _) p _
    all_goals exact hstatus (hstart _)

/-- A transaction's end frees or fills the port's slot (R162 to R165). -/
theorem transactionEnd (p : PortId) (bytes : List Byte) (extraBits : Nat) :
    Gives P (execTransactionEnd p bytes extraBits s) := by
  have htake : ∀ {u : State} r, P u → P (u.takeRequest p r) := fun r hu => by
    have hset := h.setPort hu p
    unfold State.takeRequest; dsimp only
    split
    · exact h.same (hset _) (grantTo_same _ p)
    · exact hset _
  refine gives_ite (gives_fault _) ?_
  split
  · exact gives_next.mpr (h.setPort hs p _)
  · refine gives_next.mpr ?_
    unfold State.endTransaction State.examine
    dsimp only
    split
    · split
      · exact h.setPort hs p _
      · split
        · exact htake _ (h.setPort hs p _)
        all_goals exact h.setPort (h.setPort hs p _) p _
    · exact h.setPort (h.setPort hs p _) p _

omit hs in
theorem of_enterReset {t : State} (hm : t.mode = .reset) (hl : t.lockout = s.enterReset.lockout)
    (ht : t.trips = s.enterReset.trips) : P t :=
  h.reset (by simp [State.inService, hm]) (fun b => by rw [State.trip, ht, State.enterReset, look_replicate]; rfl)
    (by rw [hl]; rfl) (by rw [hl]; rfl)

theorem lockoutUpdateCompletion : Gives P (execLockoutUpdateCompletion s) := by
  unfold execLockoutUpdateCompletion
  split
  · exact gives_next.mpr hs
  · rename_i hm
    exact gives_ite (gives_next.mpr hs) (gives_next.mpr (h.completed hm hs))

/-- Every command. -/
theorem exec (c : Instr) : Gives P (exec c s) := by
  have keep : ∀ {t : State}, t.lockout = s.lockout → t.inService = s.inService → t.trips = s.trips → P t :=
    fun hl hi ht => h.of_eq hs hl hi ht
  cases c with
  | sampleArrival c v line => exact h.sampleArrival hs c v line
  | lineFault c => exact gives_effect hs (h.settleQuiet (h.nonOkArrival hs c))
  | lineRecovery c => exact gives_effect hs (h.settleQuiet (h.okArrival hs c 0))
  | contactLineChange b bpc bpo => exact gives_ite (gives_next.mpr hs) (gives_next.mpr (keep rfl rfl rfl))
  | positionChange b => exact gives_effect hs (h.settleQuiet (h.positionSettled hs b))
  | positionFaultTimerExpiry b => exact gives_effect hs (keep rfl rfl rfl)
  | currentLineChange b level => exact gives_ite (gives_next.mpr hs) (gives_next.mpr (keep rfl rfl rfl))
  | filteredCurrentChange b => exact gives_effect hs (h.settleQuiet (h.currentSettled hs b))
  | lightAlarmTimerExpiry z => exact gives_effect hs (h.same hs lightAlarm_same)
  | closeTimerExpiry o => exact gives_effect hs (h.settleQuiet (h.closeOrder hs o))
  | bfTimerExpiry b =>
    change Gives P (execBfTimerExpiry b s)
    unfold execBfTimerExpiry
    split
    · rename_i hc
      simp only [Bool.and_eq_true, beq_iff_eq] at hc
      obtain ⟨⟨-, hp⟩, -⟩ := hc
      exact gives_next.mpr (h.settleQuiet (h.breakerFailed hs hp))
    · exact gives_next.mpr hs
  | minimumPulseTimerExpiry b => exact gives_effect hs (h.pulseEnded hs b)
  | pulseCeilingTimerExpiry b =>
    change Gives P (execPulseCeilingTimerExpiry b s)
    unfold execPulseCeilingTimerExpiry
    split
    · rename_i hc
      simp only [Bool.and_eq_true, beq_iff_eq] at hc
      obtain ⟨⟨-, hp⟩, -⟩ := hc
      exact gives_next.mpr (h.settleQuiet (h.breakerSpent hs hp))
    · exact gives_next.mpr hs
  | utMinimumTimerExpiry u => exact gives_effect hs (h.settleQuiet (h.utMinimumEnded hs u))
  | lockoutUpdateCompletion => exact h.lockoutUpdateCompletion hs
  | lockoutUpdateTimerExpiry => exact gives_effect hs (h.abandoned hs)
  | holdExpiry z p =>
    change Gives P (execHoldExpiry z p s)
    unfold execHoldExpiry
    split
    · exact gives_next.mpr hs
    · rename_i e _
      exact gives_effect hs (h.settleQuiet (holds_foldl hs (fun z hs => h.expireZone hs e z) (ids 12)))
  | gatheringWindowExpiry => exact gives_effect hs (h.settleQuiet (h.windowEnded hs))
  | settleTimerExpiry => exact gives_effect hs (keep rfl rfl rfl)
  | darkenTimerExpiry =>
    change Gives P (execDarkenTimerExpiry s)
    unfold execDarkenTimerExpiry
    split
    · exact gives_next.mpr hs
    · exact gives_effect hs (h.settleQuiet (h.giveVerdict (h.setBatch hs _) _ _ _))
  | quietTimerExpiry => exact gives_effect hs (h.settleQuiet (h.resume hs))
  | rollover => exact gives_effect hs (keep rfl rfl rfl)
  | syncPulse => exact h.syncPulse hs
  | freewheelTimerExpiry => exact gives_effect hs (keep rfl rfl rfl)
  | transactionStart p => exact h.transactionStart hs p
  | transactionEnd p bytes extraBits => exact h.transactionEnd hs p bytes extraBits
  | readItem => exact h.command hs .readItem
  | writeChannelRecord => exact h.command hs .writeChannel
  | writeZoneRecord => exact h.command hs .writeZone
  | writeLinkSlot => exact h.command hs .writeLink
  | writeBreakerRecord => exact h.command hs .writeBreaker
  | writePortRecord => exact h.command hs .writePort
  | writeGlobalRecord => exact h.command hs .writeGlobal
  | holdZone => exact h.command hs .holdZone
  | freeZone => exact h.command hs .freeZone
  | releaseLockout => exact h.command hs .releaseLockout
  | testChannels => exact h.command hs .testChannels
  | suspendTest => exact h.command hs .suspendTest
  | resumeTest => exact h.command hs .resumeTest
  | fetchRecord => exact h.command hs .fetchRecord
  | peekOrder => exact h.command hs .peekOrder
  | commitSettings => exact h.command hs .commitSettings
  | setSeconds => exact h.command hs .setSeconds
  | unknownRequest => exact h.command hs .unknown
  | commitCompletion =>
    change Gives P (execCommitCompletion s)
    unfold execCommitCompletion
    split
    · exact gives_next.mpr hs
    · exact gives_next.mpr (h.setSets hs _)
  | commitTimerExpiry => exact gives_effect hs (keep rfl rfl rfl)
  | powerOnReset => exact gives_next.mpr (h.of_enterReset (s := s) rfl rfl rfl)
  | resetN => exact gives_effect hs (h.of_enterReset (s := s) rfl rfl rfl)
  | resetEnd =>
    change Gives P (execResetEnd s)
    unfold execResetEnd
    split
    · rename_i hc
      simp only [Bool.and_eq_true, beq_iff_eq] at hc
      obtain ⟨-, hm⟩ := hc
      exact gives_next.mpr (keep rfl (by rw [State.inService, State.inService, hm]; rfl) rfl)
    · exact gives_next.mpr hs
  | loadingEnd => exact gives_effect hs (h.loaded s)
  | tripSupplyReading good => exact gives_effect hs (keep rfl rfl rfl)
  | lossOfPower => exact gives_next.mpr (h.of_enterReset (s := s) rfl rfl rfl)

/-- Every step: a command that waits, and on an empty queue the command of a due timer or one microsecond. -/
theorem step : Gives P (step s) := by
  unfold Machine.step
  split
  · unfold tick
    split
    · have hadvance : P s.advance := by
        unfold State.advance; split
        · exact h.of_eq hs rfl rfl rfl
        · exact hs
      exact gives_next.mpr hadvance
    · exact h.exec (s := s.tieTaken) (h.of_eq hs rfl rfl rfl) _
  · rename_i c rest _
    exact h.exec (s := s.setPending rest) (h.of_eq hs rfl rfl rfl) c

end Interlocked

/-- Settles O55: both invariants stand under the moves of which a step consists. -/
theorem stepKeepsLockouts : Obligations.StepKeepsLockouts := fun _ t hstep =>
  ⟨fun hs => interlocked_drivenIsLocked.step hs t hstep, fun hs => interlocked_lockoutWordOk.step hs t hstep⟩

end Sys2Proof.Machine
end

section
/-! PROOF. The two ends of a lockout word update (R99, R100). -/

namespace Sys2Proof.Machine

open Sys2Proof Sys2Proof.Safety

section
variable {s : State}

/-! ### The two commands -/

/-- The completion, told from an abandoned update's by its time (R99). -/
theorem exec_lockoutUpdateCompletion {m : Marks 8} (hm : s.lockout.snapshot = some m)
    (ha : s.lockout.abandonedAt ≠ some s.now) : exec .lockoutUpdateCompletion s =
      .next (s.setLockout { s.lockout with fault := false, word := .holding m }).updateEnded := by
  change execLockoutUpdateCompletion s = _
  simp only [execLockoutUpdateCompletion, hm, if_neg ha]

/-- The completion where no change waits: the word is the snapshot's. -/
theorem exec_lockoutUpdateCompletion_idle {m : Marks 8} (hm : s.lockout.snapshot = some m)
    (ha : s.lockout.abandonedAt ≠ some s.now) (hu : s.lockout.store ≠ .updatingAgain) :
    exec .lockoutUpdateCompletion s = .next (s.setLockout { s.lockout with
      store := .idle, snapshot := none, timer := none, fault := false, word := .holding m }) := by
  rw [exec_lockoutUpdateCompletion hm ha, updateEnded_idle]
  · rfl
  · exact hu

/-- The completion where a change waits: a fresh update of the set as it stands. -/
theorem exec_lockoutUpdateCompletion_again {m : Marks 8} (hm : s.lockout.snapshot = some m)
    (ha : s.lockout.abandonedAt ≠ some s.now) (hu : s.lockout.store = .updatingAgain) :
    exec .lockoutUpdateCompletion s = .next (s.setLockout { s.lockout with
      store := .updating, snapshot := some s.lockout.marks, timer := some (s.now + 60000), fault := false
      word := { LockoutWord.holding m with marker := false } }) := by
  rw [exec_lockoutUpdateCompletion hm ha, updateEnded_again]
  · rfl
  · exact hu

/-- Without an update under way nothing completes. -/
theorem exec_lockoutUpdateCompletion_none (hm : s.lockout.snapshot = none) :
    exec .lockoutUpdateCompletion s = .next s := by
  change execLockoutUpdateCompletion s = _
  simp only [execLockoutUpdateCompletion, hm]

/-- The completion of an abandoned update does not follow (R100). -/
theorem exec_lockoutUpdateCompletion_abandoned (ha : s.lockout.abandonedAt = some s.now) :
    exec .lockoutUpdateCompletion s = .next s := by
  change execLockoutUpdateCompletion s = _
  unfold execLockoutUpdateCompletion
  split
  · rfl
  · exact if_pos ha

/-- The timer's end at or after its time abandons the update (R100). -/
theorem exec_lockoutUpdateTimerExpiry {e : Nat} (ht : s.lockout.timer = some e) (he : e ≤ s.now) :
    exec .lockoutUpdateTimerExpiry s =
      .next (s.setLockout { s.lockout with fault := true, abandonedAt := some s.now }).updateEnded :=
  if_pos (by simp [State.ranOut, ht, he])

theorem exec_lockoutUpdateTimerExpiry_idle {e : Nat} (ht : s.lockout.timer = some e) (he : e ≤ s.now)
    (hu : s.lockout.store ≠ .updatingAgain) :
    exec .lockoutUpdateTimerExpiry s = .next (s.setLockout { s.lockout with
      store := .idle, snapshot := none, timer := none, fault := true, abandonedAt := some s.now }) := by
  rw [exec_lockoutUpdateTimerExpiry ht he, updateEnded_idle]
  · rfl
  · exact hu

theorem exec_lockoutUpdateTimerExpiry_again {e : Nat} (ht : s.lockout.timer = some e) (he : e ≤ s.now)
    (hu : s.lockout.store = .updatingAgain) :
    exec .lockoutUpdateTimerExpiry s = .next (s.setLockout { s.lockout with
      store := .updating, snapshot := some s.lockout.marks, timer := some (s.now + 60000), fault := true
      word := { s.lockout.word with marker := false }, abandonedAt := some s.now }) := by
  rw [exec_lockoutUpdateTimerExpiry ht he, updateEnded_again]
  · rfl
  · exact hu

theorem exec_lockoutUpdateTimerExpiry_early {e : Nat} (ht : s.lockout.timer = some e) (he : s.now < e) :
    exec .lockoutUpdateTimerExpiry s = .next s := if_neg (by simpa [State.ranOut, ht] using he)

theorem setLockout_same (s : State) (x : Lockout) : SameBut [.lockout] s (s.setLockout x) := by simp [SameBut]

end

/-- Settles O22: each end by whether a change of the set waits. -/
theorem lockoutUpdateEnds : Obligations.LockoutUpdateEnds := by
  intro s hok
  obtain ⟨hstore, hword, hsnap, -⟩ := hok
  refine ⟨fun ha => ⟨fun hs hu => ?_, fun hu => ?_⟩, exec_lockoutUpdateCompletion_abandoned, fun e ht he hu => ?_,
    fun e => exec_lockoutUpdateTimerExpiry_early, fun e ht he hu => ?_⟩
  · exact exec_lockoutUpdateCompletion_idle (hsnap hs hu) ha (by simp [hu])
  · obtain ⟨m, hm⟩ := Option.isSome_iff_exists.mp (hstore.mp (by simp [hu]))
    exact ⟨_, exec_lockoutUpdateCompletion_again hm ha hu, rfl, rfl, rfl, rfl, rfl, rfl, rfl, setLockout_same s _⟩
  · have hinvalid := hword (hstore.mp (by simp [hu]))
    exact ⟨_, exec_lockoutUpdateTimerExpiry_idle ht he (by simp [hu]), rfl, rfl, rfl, rfl, rfl, hinvalid,
      exec_lockoutUpdateCompletion_none rfl, setLockout_same s _⟩
  · exact ⟨_, exec_lockoutUpdateTimerExpiry_again ht he hu, rfl, rfl, rfl, rfl, rfl, rfl,
      exec_lockoutUpdateCompletion_abandoned rfl, setLockout_same s _⟩

end Sys2Proof.Machine
end

section
/-! PROOF. Release Lockout: its checks in their order (R93), and the release of a LOCKED breaker (R94). -/

namespace Sys2Proof.Machine

open Sys2Proof Sys2Proof.Safety

theorem row_releaseLockout {r : Request} (h : r.kind = 0x18#8) : r.row = .releaseLockout := by simp [Request.row, h]

theorem atRest_iff (p : Prot) : p.atRest = true ↔ p = .dark ∨ p = .held := by cases p <;> simp [Prot.atRest]

section
variable {s : State} {p : PortId} {r : Request} {b : BreakerId}

/-! ### The checks, one after another (R93) -/

/-- Port `p` may release breaker `b`: in PROTECTING its owner only. -/
def MayRelease (s : State) (p : PortId) (b : BreakerId) : Prop := s.mode = .protecting → (s.breakerRec b).owner = p

/-- The trip state is one in which a release is taken (Table 5-2). -/
def Releasable (s : State) (b : BreakerId) : Prop :=
  (s.trip b).phase = .idle ∨ (s.trip b).phase = .openDone ∨ (s.trip b).phase = .spent

/-- Every zone on a side of the breaker is DARK or HELD (Table 5-2). -/
def SidesAtRest (s : State) (b : BreakerId) : Prop :=
  ∀ z, z ∈ (s.breakerRec b).sideZones → (s.zone z).prot = .dark ∨ (s.zone z).prot = .held

theorem sidesAtRest_iff : SidesAtRest s b ↔
    ((s.zone (s.breakerRec b).sideB).prot = .dark ∨ (s.zone (s.breakerRec b).sideB).prot = .held)
      ∧ ((s.breakerRec b).role = .coupler → ∀ a, (s.breakerRec b).sideA = .zone a →
          (s.zone a).prot = .dark ∨ (s.zone a).prot = .held) := by
  simp only [SidesAtRest, mem_sideZones]
  refine ⟨fun h => ⟨h _ (.inl rfl), fun hr a ha => h a (.inr ⟨hr, ha⟩)⟩, ?_⟩
  rintro ⟨hb, ha⟩ z (rfl | ⟨hr, hz⟩)
  · exact hb
  · exact ha hr z hz

theorem notOwner_iff : (s.mode = .protecting ∧ (s.breakerRec b).owner ≠ p) ↔ ¬ MayRelease s p b := by simp [MayRelease]

theorem phase_releasable_iff : (s.trip b).phase.releasable = true ↔ Releasable s b := releasable_iff _

theorem all_atRest_iff :
    (s.breakerRec b).sideZones.all (fun z => (s.zone z).prot.atRest) = true ↔ SidesAtRest s b := by
  simp only [List.all_eq_true, atRest_iff, SidesAtRest]

/-- The checks of a release in their order, and its effect. -/
theorem releaseBody_eq (hb : r.byte 0 = b.val) : releaseBody p r s =
    if s.mode = .protecting ∧ (s.breakerRec b).owner ≠ p then (s, .refuse .notOwner)
    else if !(s.trip b).phase.releasable then (s, .refuse .state)
    else if !(s.breakerRec b).sideZones.all (fun z => (s.zone z).prot.atRest) then (s, .refuse .state)
    else if s.locked b then (s.releaseBreaker b, .plain .done)
    else (s, .plain .done) := by
  have hlt : r.byte 0 < 8 := by omega
  have hid : (⟨r.byte 0, hlt⟩ : BreakerId) = b := Fin.ext hb
  simp only [releaseBody, hlt, dif_pos, hid]

theorem releaseBody_item (h : 8 ≤ r.byte 0) : releaseBody p r s = (s, .refuse .item) :=
  dif_neg (Nat.not_lt.mpr h)

theorem releaseBody_notOwner (hb : r.byte 0 = b.val) (h : ¬ MayRelease s p b) :
    releaseBody p r s = (s, .refuse .notOwner) := by
  rw [releaseBody_eq hb, if_pos (notOwner_iff.mpr h)]

theorem releaseBody_driven (hb : r.byte 0 = b.val) (ho : MayRelease s p b) (h : ¬ Releasable s b) :
    releaseBody p r s = (s, .refuse .state) := by
  rw [← phase_releasable_iff, Bool.not_eq_true] at h
  rw [releaseBody_eq hb, if_neg (by simpa [notOwner_iff] using ho), if_pos (by rw [h]; rfl)]

theorem releaseBody_lit (hb : r.byte 0 = b.val) (ho : MayRelease s p b) (ht : Releasable s b) (h : ¬ SidesAtRest s b) :
    releaseBody p r s = (s, .refuse .state) := by
  rw [← phase_releasable_iff] at ht
  rw [← all_atRest_iff, Bool.not_eq_true] at h
  rw [releaseBody_eq hb, if_neg (by simpa [notOwner_iff] using ho), if_neg (by simp [ht]), if_pos (by rw [h]; rfl)]

/-- A release that passes every check. -/
theorem releaseBody_done (hb : r.byte 0 = b.val) (ho : MayRelease s p b) (ht : Releasable s b) (hz : SidesAtRest s b) :
    releaseBody p r s = (if s.locked b = true then s.releaseBreaker b else s, .plain .done) := by
  rw [← phase_releasable_iff] at ht
  rw [← all_atRest_iff] at hz
  rw [releaseBody_eq hb, if_neg (by simpa [notOwner_iff] using ho), if_neg (by simp [ht]), if_neg (by rw [hz]; decide)]
  split <;> rfl

/-! ### The command -/

/-- A completed Release Lockout: the effect of its checks, its answer, and the next grant. -/
theorem exec_releaseLockout {u : State} {a : Answer} (h : Serving s p r) (hk : r.kind = 0x18#8)
    (hb : releaseBody p r s = (u, a)) (hp : u.ports = s.ports) :
    ∃ t, exec .releaseLockout s = .next t ∧ Answered s t p r a ∧ SameBut [.ports, .limits] u t :=
  complete_effect h (row_releaseLockout hk) hb hp

/-- An accepted release. -/
theorem exec_releaseLockout_done (h : Serving s p r) (hk : r.kind = 0x18#8) (hb : r.byte 0 = b.val)
    (ho : MayRelease s p b) (ht : Releasable s b) (hz : SidesAtRest s b) :
    ∃ t, exec .releaseLockout s = .next t ∧ Answered s t p r { code := .done, data := [] }
      ∧ SameBut [.ports, .limits] (if s.locked b = true then s.releaseBreaker b else s) t := by
  refine exec_releaseLockout h hk (releaseBody_done hb ho ht hz) ?_
  split
  · exact (releaseBreaker_same s b).ports (by decide)
  · rfl

end

/-- Settles O23, one check after another. -/
theorem releaseLockoutChecks : Obligations.ReleaseLockoutChecks := by
  intro s p r he hk refused
  split
  · rename_i hs
    obtain ⟨hans, hsame⟩ := complete_mode (body := releaseBody) hs he (row_releaseLockout hk)
    exact ⟨_, rfl, hans, hsame⟩
  · rename_i hs
    have hserve : Serving s p r := ⟨by simpa using hs, he⟩
    have hrefused : ∀ c, releaseBody p r s = (s, .refuse c) → refused c := fun c hb =>
      exec_releaseLockout hserve hk hb rfl
    split
    · rename_i hlt
      intro b
      have hb : r.byte 0 = b.val := rfl
      split
      · rename_i ho
        exact hrefused _ (releaseBody_notOwner hb (notOwner_iff.mp ho))
      · rename_i ho
        rw [notOwner_iff, not_not] at ho
        split
        · rename_i ht
          exact hrefused _ (releaseBody_driven hb ho ht)
        · rename_i ht
          replace ht : Releasable s b := not_not.mp ht
          split
          · rename_i hz
            rw [← sidesAtRest_iff] at hz
            exact hrefused _ (releaseBody_lit hb ho ht hz)
          · rename_i hz
            rw [← sidesAtRest_iff, not_not] at hz
            obtain ⟨t, hexec, hans, hsame⟩ := exec_releaseLockout_done hserve hk hb ho ht hz
            refine ⟨t, hexec, hans, ?_, fun hl => by rwa [if_neg (by simp [hl])] at hsame⟩
            split at hsame
            · exact SameBut.trans ((releaseBreaker_same s b).mono (by simp)) (hsame.mono (by simp))
            · exact hsame.mono (by simp)
    · rename_i hge
      exact hrefused _ (releaseBody_item (Nat.not_lt.mp hge))

/-- Settles O24: the trip record, the inputs and the lockout unit after the release, and the store by whether it is busy. -/
theorem releaseLockoutUnlocks : Obligations.ReleaseLockoutUnlocks := by
  intro s p r b hserve hk hb ho ht hz
  obtain ⟨t, hexec, hans, hsame⟩ := exec_releaseLockout_done hserve hk hb ho ht hz
  refine ⟨fun hl => ⟨t, hexec, hans, ?_⟩, fun hl => ⟨t, hexec, hans, by rwa [if_neg (by simp [hl])] at hsame⟩⟩
  rw [if_pos hl] at hsame
  have hall : SameBut [.trips, .inputs, .lockout, .ports, .limits] s t :=
    SameBut.trans ((releaseBreaker_same s b).mono (by simp)) (hsame.mono (by simp))
  have hlock := hsame.lockout (by decide)
  have hci : t.ciLine b = false := by
    rw [State.ciLine, hsame.locked b (by decide), releaseBreaker_locked, hall.inService (by decide), hserve.1]
    simp
  refine ⟨?_, fun a ha => ?_, ?_, hci, ?_, fun a ha => ?_, fun hi => ?_, fun hi => ?_, hall⟩
  · rw [hsame.trip b (by decide), releaseBreaker_trip, if_pos rfl]; rfl
  · rw [hsame.trip a (by decide), releaseBreaker_trip, if_neg (Ne.symm ha)]
  · rw [hlock, releaseBreaker_marks]
  · rw [hsame.input b (by decide), releaseBreaker_input, if_pos rfl]
  · rw [hsame.input a (by decide), releaseBreaker_input, if_neg (Ne.symm ha)]
  · rw [hlock, releaseBreaker_marks]; exact releaseBreaker_idle s b hi
  · rw [hlock]; exact releaseBreaker_busy s b hi

end Sys2Proof.Machine
end

section
/-! PROOF. Power-on reset, RESET_N and loss of power (R102, R118, R151, R164, R182, R184, R186): one state after a reset, and
what each of the three does with the records and the supplies. -/

namespace Sys2Proof.Machine

open Sys2Proof Sys2Proof.Safety

/-- The state after a reset, with every cursor at `n`, the ring `l`, the counter `q` and the supplies up or down. -/
def State.resetWith (s : State) (n : Nat) (l : List SealedRecord) (q : Nat) (up : Bool) : State :=
  { s.enterReset.setCursors n with ring := l, nextSeq := q, powered := up }

/-! ### The three commands -/

theorem exec_powerOnReset (s : State) : exec .powerOnReset s = .next (s.resetWith 0 [] 0 true) := rfl

theorem exec_lossOfPower (s : State) : exec .lossOfPower s = .next (s.resetWith 0 [] 0 false) := rfl

theorem exec_resetN {s : State} (h : s.powered = true) :
    exec .resetN s = .next (s.resetWith s.oldestSeq s.ring s.nextSeq true) := by
  rw [← h]; exact if_pos h

/-! ### The state after a reset -/

section
variable (s : State) (n : Nat) (l : List SealedRecord) (q : Nat) (up : Bool)

theorem resetWith_mode : (s.resetWith n l q up).mode = .reset := rfl

theorem resetWith_inService : (s.resetWith n l q up).inService = false := rfl

theorem resetWith_chan (c : ChanId) : (s.resetWith n l q up).chan c = Channel.atReset := look_replicate _ _

theorem resetWith_zone (z : ZoneId) : (s.resetWith n l q up).zone z = Zone.atReset := look_replicate _ _

theorem resetWith_order (o : SlotId) : (s.resetWith n l q up).order o = none := look_replicate _ _

theorem resetWith_trip (b : BreakerId) : (s.resetWith n l q up).trip b = Trip.atReset := look_replicate _ _

/-- A port after a reset: nothing but its select line and the cursor (R118, R151, R164). -/
theorem resetWith_port (p : PortId) : (s.resetWith n l q up).port p = Port.atReset (s.port p).selected n := by
  simp only [State.port, State.resetWith, State.setCursors, State.enterReset, look_map]; rfl

/-- A breaker's inputs after a reset: nothing but the line levels (R38). -/
theorem resetWith_input (b : BreakerId) : (s.resetWith n l q up).input b =
    Inputs.atReset (s.input b).bpc (s.input b).bpo (s.input b).curLine := look_map _ _ _

theorem resetWith_cursor (p : PortId) : ((s.resetWith n l q up).port p).cursor = n := by
  rw [resetWith_port]; rfl

/-! Outputs in RESET: TRIP, UT and TE are off, and CI is asserted while the part has power (R92, R184). -/

theorem resetWith_tripLine (b : BreakerId) : (s.resetWith n l q up).tripLine b = false := by
  rw [State.tripLine, resetWith_inService, Bool.false_and]

theorem resetWith_utLevel (u : UtId) : (s.resetWith n l q up).utLevel u = false := by
  rw [State.utLevel, resetWith_inService, Bool.false_and]

theorem resetWith_teLine (c : ChanId) : (s.resetWith n l q up).teLine c = false := by
  rw [State.teLine, resetWith_inService, Bool.false_and, Bool.false_and]

theorem resetWith_ciLine (b : BreakerId) : (s.resetWith n l q up).ciLine b = up := by
  rw [State.ciLine, resetWith_inService, Bool.not_false, Bool.true_or, Bool.and_true]; rfl

end

theorem zoneAtReset_hasHold : Zone.atReset.hasHold = false := by decide

/-- The word of an update under way is not valid (R96, R97). -/
theorem word_invalid_of_busy {s : State} (h : LockoutWordOk s) (hb : s.lockout.store ≠ .idle) :
    s.lockout.word.valid = false := by
  obtain ⟨hstore, hword, -⟩ := h
  exact hword (hstore.mp hb)

/-- An image whose erase has begun is not valid (R179, R181). -/
theorem image_invalid_of_erased {i : StoredImage} (h : i.erased = true) : i.valid = false := by simp [StoredImage.valid, h]

/-- Settles O50: what the three have in common, then the records and the supplies of each. -/
theorem resetsKeepTheStores : Obligations.ResetsKeepTheStores := by
  intro s inReset
  have hreset : ∀ n l q up, inReset (s.resetWith n l q up) := fun n l q up => by
    refine ⟨rfl, rfl, fun c => ?_, fun z => ?_, fun z => ?_, resetWith_order s n l q up, fun b => ?_,
      resetWith_tripLine s n l q up, resetWith_utLevel s n l q up, resetWith_teLine s n l q up, rfl, rfl, rfl, rfl, rfl, rfl,
      rfl, word_invalid_of_busy, rfl, rfl, rfl, rfl, image_invalid_of_erased, rfl, rfl, fun p => ?_, fun b => ?_, rfl, rfl,
      rfl⟩
    · rw [resetWith_chan]; rfl
    · rw [resetWith_zone]; rfl
    · rw [resetWith_zone]; exact zoneAtReset_hasHold
    · rw [resetWith_trip]; rfl
    · rw [attn_reset _ (resetWith_mode s n l q up), resetWith_port]
      exact ⟨rfl, rfl, rfl, rfl, rfl, rfl, rfl, rfl, rfl, rfl⟩
    · rw [resetWith_input]
      exact ⟨rfl, rfl, rfl, rfl⟩
  exact ⟨⟨_, exec_powerOnReset s, hreset _ _ _ _, rfl, resetWith_ciLine s _ _ _ _, rfl, rfl, resetWith_cursor s _ _ _ _⟩,
    fun hp => ⟨_, exec_resetN hp, hreset _ _ _ _, rfl, resetWith_ciLine s _ _ _ _, rfl, rfl, resetWith_cursor s _ _ _ _⟩,
    ⟨_, exec_lossOfPower s, hreset _ _ _ _, rfl, resetWith_ciLine s _ _ _ _, rfl, rfl, resetWith_cursor s _ _ _ _⟩⟩

end Sys2Proof.Machine
end

section
/-! PROOF. Every step keeps the hold lists and the protection states in agreement (R105, R108, R113): a zone enters HELD only
with an entry in its list, DARK and LIT only with none, and ARC with either; an entry's end is followed by the zone's exit from
HELD where the list has ended. -/

namespace Sys2Proof.Machine

open Sys2Proof Sys2Proof.Safety

/-! ### One zone -/

/-- The protection state agrees with the hold list: what `HoldsOk` says of one zone. -/
def HoldAgrees (x : Zone) : Prop :=
  (x.prot = .held → x.hasHold = true) ∧ (x.hasHold = true → x.prot = .held ∨ x.prot = .arc)

theorem holdsOk_iff (s : State) : HoldsOk s ↔ ∀ z, HoldAgrees (s.zone z) := Iff.rfl

section
variable {x y : Zone}

theorem holdAgrees_arc (hp : x.prot = .arc) : HoldAgrees x := ⟨fun h => absurd (hp.symm.trans h) (by decide), fun _ => .inr hp⟩

theorem holdAgrees_held (hh : x.hasHold = true) (hp : x.prot = .held ∨ x.prot = .arc) : HoldAgrees x :=
  ⟨fun _ => hh, fun _ => hp⟩

theorem holdAgrees_free (hh : x.hasHold = false) (hp : x.prot ≠ .held) : HoldAgrees x :=
  ⟨fun h => absurd h hp, fun h => absurd (hh.symm.trans h) (by decide)⟩

/-- Agreement reads nothing but the protection state and the hold list. -/
theorem HoldAgrees.congr (h : HoldAgrees x) (hp : y.prot = x.prot) (hh : y.holds = x.holds) : HoldAgrees y := by
  have hhold : y.hasHold = x.hasHold := by rw [Zone.hasHold, Zone.hasHold, hh]
  unfold HoldAgrees; rw [hp, hhold]; exact h

/-- A zone that is DARK or LIT has no entry. -/
theorem HoldAgrees.hasHold_false (h : HoldAgrees x) (hp : x.prot = .dark ∨ x.prot = .lit) : x.hasHold = false :=
  Bool.eq_false_iff.mpr fun hh => by
    obtain ⟨-, hheld⟩ := h
    rcases hp with hp | hp <;> simpa [hp] using hheld hh

/-- A zone that is neither DARK nor LIT is HELD or ARC. -/
theorem prot_held_or_arc {p : Prot} (h : ¬ (p = .dark ∨ p = .lit)) : p = .held ∨ p = .arc := by
  cases p <;> simp at h ⊢

theorem hasHold_put_some (x : Zone) (p : PortId) (e : Nat) : { x with holds := put x.holds p (some e) }.hasHold = true :=
  (hasHold_iff _).mpr ⟨p, by simp⟩

/-- A zone that leaves ARC enters HELD exactly with an entry (R71 step 4). -/
theorem holdAgrees_leftArc (s : State) (z : ZoneId) : HoldAgrees (leftArc s z) := by
  unfold leftArc; split
  · rename_i hh; exact holdAgrees_held hh (.inl rfl)
  · rename_i hh
    have hfree : (s.zone z).hasHold = false := Bool.eq_false_iff.mpr hh
    split
    · exact holdAgrees_free hfree (by simp [Zone.unlit])
    · exact holdAgrees_free hfree (by simp [Zone.unlit])

theorem holdAgrees_atReset : HoldAgrees Zone.atReset := holdAgrees_free zoneAtReset_hasHold (by decide)

end

/-- The end of a minimum pulse changes a trip record only (R66). -/
theorem pulseEnded_zones (s : State) (b : BreakerId) : (s.pulseEnded b).zones = s.zones := by
  unfold State.pulseEnded; dsimp only; split <;> rfl

/-! ### The end of an entry (R111 to R113) -/

/-- The agreement of every zone but `z`, which may still be HELD after the last entry of its list is gone. -/
def HoldsOkBut (z : ZoneId) (s : State) : Prop :=
  (∀ y, y ≠ z → HoldAgrees (s.zone y)) ∧ ((s.zone z).hasHold = true → (s.zone z).prot = .held ∨ (s.zone z).prot = .arc)

theorem holdsOkBut_of_holdsOk {s : State} (h : HoldsOk s) (z : ZoneId) : HoldsOkBut z s := by
  obtain ⟨-, hheld⟩ := h z
  exact ⟨fun y _ => h y, hheld⟩

namespace HoldsOkBut

variable {s u : State} {z : ZoneId} (h : HoldsOkBut z s)
include h

theorem entryGone {p : PortId} (hg : EntryGone s u z p) : HoldsOkBut z u := by
  obtain ⟨hother, hheld⟩ := h
  have hprot := hg.prot z
  have hhas := hg.hasHold
  obtain ⟨-, honly, -⟩ := hg
  refine ⟨fun y hy => by rw [honly y hy]; exact hother y hy, fun hh => ?_⟩
  obtain ⟨q, -, hq⟩ := hhas.mp hh
  rw [hprot]
  exact hheld ((hasHold_iff _).mpr ⟨q, hq⟩)

/-- The zone is put right by any record that agrees. -/
theorem setZone {x : Zone} (hx : HoldAgrees x) : HoldsOk (s.setZone z x) := fun y => by
  obtain ⟨hother, -⟩ := h
  rw [State.setZone_zone]; split
  · exact hx
  · rename_i hy; exact hother y (Ne.symm hy)

/-- The zone agrees as it stands, and nothing is to follow. -/
theorem holdsOk (hz : HoldAgrees (s.zone z)) : HoldsOk s := fun y => by
  obtain ⟨hother, -⟩ := h
  by_cases hy : y = z
  · rw [hy]; exact hz
  · exact hother y hy

/-- Another entry remains, and the zone stays HELD or ARC. -/
theorem holdsOk_of_hasHold (hh : (s.zone z).hasHold = true) : HoldsOk s := by
  have ⟨_, hheld⟩ := h
  exact h.holdsOk (holdAgrees_held hh (hheld hh))

end HoldsOkBut

end Sys2Proof.Machine

/-! ### The invariant under what a step does -/

namespace Sys2Proof.Safety.HoldsOk

open Sys2Proof Sys2Proof.Machine

variable {s : State} (h : HoldsOk s)
include h

theorem zone (z : ZoneId) : HoldAgrees (s.zone z) := h z

theorem of_zones {t : State} (hz : t.zones = s.zones) : HoldsOk t := fun z => by
  rw [State.zone, hz]; exact h z

theorem same {ps : List Part} {t : State} (k : SameBut ps s t) (hz : Part.zones ∉ ps) : HoldsOk t :=
  h.of_zones (k.zones hz)

theorem setZone {z : ZoneId} {x : Zone} (hx : HoldAgrees x) : HoldsOk (s.setZone z x) :=
  (holdsOkBut_of_holdsOk h z).setZone hx

/-- A zone changes, but neither its protection state nor its hold list. -/
theorem setZone_kept {z : ZoneId} {x : Zone} (hp : x.prot = (s.zone z).prot) (hh : x.holds = (s.zone z).holds) :
    HoldsOk (s.setZone z x) := h.setZone ((h.zone z).congr hp hh)

theorem settleQuiet : HoldsOk s.settleQuiet := h.of_zones (settleQuiet_zones s)

theorem sealed (b : RecordBody) : HoldsOk (s.seal b) := h.of_zones (seal_zones s b)

theorem setOrder (o : SlotId) (x : Option Order) : HoldsOk (s.setOrder o x) := h.of_zones rfl

theorem modifyOrder (o : SlotId) (f : Order → Order) : HoldsOk (s.modifyOrder o f) :=
  h.same (modifyOrder_same s o f) (by decide)

theorem setChan (c : ChanId) (x : Channel) : HoldsOk (s.setChan c x) := h.of_zones rfl

theorem setBatch (x : Batch) : HoldsOk (s.setBatch x) := h.of_zones rfl

theorem setSets (x : SettingsUnit) : HoldsOk (s.setSets x) := h.of_zones rfl

theorem setPort (p : PortId) (x : Port) : HoldsOk (s.setPort p x) := h.of_zones rfl

/-! ### Entries to the protection states -/

theorem enterLit {z : ZoneId} (hz : (s.zone z).prot = .dark) : HoldsOk (s.enterLit z) := by
  have hfree := (h.zone z).hasHold_false (.inl hz)
  have hset : ∀ t e, HoldsOk (s.setZone z { (s.zone z).unlit .lit with litSince := t, alarmTimer := e }) := fun _ _ =>
    h.setZone (holdAgrees_free hfree (by simp [Zone.unlit]))
  exact (hset _ _).same (noteLit_same _ z) (by decide)

theorem enterDark {z : ZoneId} (hz : (s.zone z).prot = .lit) : HoldsOk (s.enterDark z) :=
  h.setZone (holdAgrees_free ((h.zone z).hasHold_false (.inr hz)) (by simp [Zone.unlit]))

theorem enterArc (z : ZoneId) (o : SlotId) : HoldsOk (s.enterArc z o) :=
  (h.setZone (holdAgrees_arc rfl)).same (noteArc_same _) (by decide)

/-! ### Resolution and close (R69 to R71) -/

theorem closeOrder (o : SlotId) : HoldsOk (s.closeOrder o) := by
  cases hx : s.order o with
  | none => rw [State.closeOrder, hx]; exact h
  | some x =>
    obtain ⟨-, hzone, -⟩ := closeOrder_spec hx
    intro z
    rw [hzone]; split
    · exact holdAgrees_leftArc s z
    · exact h z

theorem testResolved (o : SlotId) : HoldsOk (s.testResolved o) := by
  unfold State.testResolved; split
  · exact h
  · split
    · dsimp only; split
      · exact (h.setOrder o _).closeOrder o
      · exact (h.setOrder o _).setOrder o _
    · exact h

theorem testDarkClose (o : SlotId) : HoldsOk (s.testDarkClose o) := by
  unfold State.testDarkClose; split
  · exact h
  · split
    · exact h.closeOrder o
    · exact h

theorem writeOutcome (b : BreakerId) (v : BreakerOutcome) (o : SlotId) : HoldsOk (s.writeOutcome b v o) :=
  (h.modifyOrder o _).testResolved o

theorem writeOutcomes (b : BreakerId) (v : BreakerOutcome) : HoldsOk (s.writeOutcomes b v) :=
  holds_foldl h (fun o hs => hs.writeOutcome b v o) (s.trip b).demands.members

theorem clearOutcomes (b : BreakerId) : HoldsOk (s.clearOutcomes b) :=
  h.same (clearOutcomes_same s b) (by decide)

/-! ### Demands and escalation -/

theorem escalate (o : SlotId) (b : BreakerId) : HoldsOk (s.escalate o b).1 :=
  h.same (escalate_same s o b) (by decide)

theorem demand (o : SlotId) (b : BreakerId) : HoldsOk (s.demand o b).1 := by
  have hadd : HoldsOk (s.addDemand o b) := h.of_zones rfl
  have hdrive : HoldsOk ((s.addDemand o b).drive b) := hadd.of_zones rfl
  unfold State.demand; dsimp only
  split
  · exact (hdrive.of_zones (lock_zones _ b)).clearOutcomes b
  · exact hadd
  · exact hadd.writeOutcome b _ o
  · exact hadd.escalate o b
  · split
    · exact hadd.writeOutcome b _ o
    · exact hdrive.clearOutcomes b
  · exact (hadd.escalate o b).writeOutcome b _ o

theorem demandAll (o : SlotId) (q : List BreakerId) : HoldsOk (s.demandAll o q).1 := by
  induction q generalizing s with
  | nil => exact h
  | cons b bs ih => exact ih (h.demand o b)

theorem runQueue (o : SlotId) (n : Nat) (q : List BreakerId) : HoldsOk (s.runQueue o n q) := by
  induction n generalizing s q with
  | zero => exact h.demandAll o q
  | succ n ih =>
    unfold State.runQueue; dsimp only
    split
    · exact h.demandAll o q
    · exact ih (h.demandAll o q) _

theorem demandQueue (o : SlotId) (q : List BreakerId) : HoldsOk (s.demandQueue o q) := h.runQueue o 2 q

theorem demandMissing (o : SlotId) : HoldsOk (s.demandMissing o) := by
  unfold State.demandMissing; split
  · exact h
  · exact (h.setOrder o _).demandQueue o _

theorem closeOnto (b : BreakerId) (o : SlotId) : HoldsOk (s.closeOnto b o) := by
  unfold State.closeOnto; split
  · exact h
  · split
    · exact (h.setOrder o _).demandQueue o _
    · exact h

/-! ### The evaluation of a LIT zone (R55 to R59) -/

theorem createOrder (z : ZoneId) (trip : List BreakerId) : HoldsOk (s.createOrder z trip) := by
  unfold State.createOrder; split
  · exact h
  · exact ((h.setOrder _ _).enterArc z _).demandQueue _ _

theorem joinOrder (z : ZoneId) (o : SlotId) : HoldsOk (s.joinOrder z o) := by
  unfold State.joinOrder; split
  · exact h
  · dsimp only; split
    · exact (h.setOrder o _).enterArc z o
    · exact ((h.setOrder o _).enterArc z o).demandQueue o _

theorem noSource (z : ZoneId) : HoldsOk (s.noSource z) := by
  unfold State.noSource; split
  · exact h
  · exact (h.sealed _).setZone_kept rfl rfl

theorem evaluate (z : ZoneId) : HoldsOk (s.evaluate z) := by
  unfold State.evaluate; split
  · split
    · split
      · exact h.noSource z
      · split
        · exact h.joinOrder z _
        · exact h.createOrder z _
    · exact h
  · exact h

theorem evaluateWhere (p : State → ZoneId → Bool) : HoldsOk (s.evaluateWhere p) :=
  holds_foldl h (fun z hs => by
    split
    · exact hs.evaluate z
    · exact hs) (ids 12)

/-! ### Reports of channels (R22, R49 to R51, R110) -/

theorem confirmedAt (c : ChanId) (z : ZoneId) : HoldsOk (s.confirmedAt c z) := by
  unfold State.confirmedAt; split
  · rename_i hdark; exact (h.enterLit hdark).evaluate z
  · exact h
  · split
    · exact h
    · exact h.modifyOrder _ _
  · split
    · exact h
    · exact (h.sealed _).setZone_kept rfl rfl

theorem confirmReport (c : ChanId) (z : ZoneId) : HoldsOk (s.confirmReport c z) := by
  have hset : HoldsOk (s.setZone z { s.zone z with confirmed := (s.zone z).confirmed.add c }) := h.setZone_kept rfl rfl
  unfold State.confirmReport; split
  · exact h
  · dsimp only; split
    · exact hset.confirmedAt c z
    · exact hset

theorem darkenedAt (z : ZoneId) : HoldsOk (s.darkenedAt z) := by
  unfold State.darkenedAt; split
  · rename_i hlit; exact h.enterDark hlit
  · split
    · exact h
    · exact h.testDarkClose _
  all_goals exact h

theorem dropReport (c : ChanId) (z : ZoneId) : HoldsOk (s.dropReport c z) := by
  have hset : HoldsOk (s.setZone z { s.zone z with confirmed := (s.zone z).confirmed.drop c }) := h.setZone_kept rfl rfl
  unfold State.dropReport; split
  · dsimp only; split
    · exact hset.darkenedAt z
    · exact hset
  · exact h

theorem putChannel (c : ChanId) (zs : List ZoneId) (x : Channel) : HoldsOk (s.putChannel c zs x) := by
  unfold State.putChannel; dsimp only; split
  · exact holds_foldl (h.setChan c x) (fun z hs => hs.confirmReport c z) zs
  · split
    · exact holds_foldl (h.setChan c x) (fun z hs => hs.dropReport c z) zs
    · exact h.setChan c x

/-! ### Reports and timers of breakers (R37, R42, R64 to R68, R74 to R77, R84) -/

theorem tripReport (b : BreakerId) : HoldsOk (s.tripReport b) := by
  have htrip : ∀ x, HoldsOk (s.setTrip b x) := fun _ => h.of_zones rfl
  have hopened : HoldsOk (s.breakerOpened b) := (htrip _).writeOutcomes b _
  unfold State.tripReport; split
  · split
    · exact hopened
    · exact h
  · split
    · exact hopened
    · exact h
  · split
    · exact h
    · exact (htrip _).clearOutcomes b
  all_goals exact h

theorem leftOpen (b : BreakerId) : HoldsOk (s.leftOpen b) := by
  unfold State.leftOpen; dsimp only
  refine evaluateWhere ?_ _
  split
  · exact holds_foldl (f := fun s o => s.closeOnto b o) h (fun o hs => hs.closeOnto b o) (ids 12)
  · exact h

theorem currentSettled (b : BreakerId) : HoldsOk (s.currentSettled b) := by
  have hset : HoldsOk (s.setInput b (s.currentTaken b)) := h.of_zones rfl
  rw [currentSettled_eq]
  split
  · exact hset
  · split
    · exact (hset.evaluateWhere _).tripReport b
    · exact hset.tripReport b

theorem positionSettled (b : BreakerId) : HoldsOk (s.positionSettled b) := by
  have hmoved : HoldsOk (s.positionMoved b) := h.same (positionMoved_same s b) (by decide)
  rw [positionSettled_eq]
  split
  · exact h.of_zones rfl
  · split
    · exact (hmoved.tripReport b).leftOpen b
    · exact hmoved.tripReport b

theorem breakerFailed (b : BreakerId) : HoldsOk (s.breakerFailed b) := by
  have hfailed : HoldsOk (s.failBreaker b) := h.of_zones rfl
  exact holds_foldl hfailed (fun o hs => (hs.escalate o b).demandQueue o _) (s.trip b).demands.members

theorem breakerSpent (b : BreakerId) : HoldsOk (s.breakerSpent b) :=
  writeOutcomes (s := s.setTrip b _) (h.of_zones rfl) b _

theorem utMinimumEnded (u : UtId) : HoldsOk (s.utMinimumEnded u) := by
  have htested := holds_foldl (s := s.setUt u { s.utLine u with minimum := .runOut }) (f := fun s o => s.testResolved o)
    (h.of_zones rfl) (fun o hs => hs.testResolved o) (s.utLine u).claims.members
  unfold State.utMinimumEnded State.releaseIfFree; dsimp only
  split
  · exact htested.of_zones rfl
  · exact htested

theorem lightAlarm (z : ZoneId) : HoldsOk (s.lightAlarm z) := by
  have hset : HoldsOk (s.setZone z { s.zone z with alarmTimer := none }) := h.setZone_kept rfl rfl
  unfold State.lightAlarm; dsimp only; split
  · exact hset
  · exact (hset.sealed _).setZone_kept rfl rfl

/-! ### The test engine -/

theorem takeUpFrom (l : List ChanId) : HoldsOk (s.takeUpFrom l) := by
  induction l generalizing s with
  | nil => exact h.setBatch _
  | cons c cs ih =>
    unfold State.takeUpFrom; split
    · split
      · exact ih (h.setBatch _)
      · exact (h.putChannel c _ _).setBatch _
    · exact ih h

theorem takeUp : HoldsOk s.takeUp := h.takeUpFrom _

theorem resume : HoldsOk s.resume := (h.setBatch _).takeUp

theorem testEnded (c : ChanId) (r : TestResult) : HoldsOk (s.testEnded c r) := h.same (testEnded_same s c r) (by decide)

theorem giveVerdict (c : ChanId) (v : Verdict) (r : Nat) : HoldsOk (s.giveVerdict c v r) := by
  have hreleased : HoldsOk (s.verdictReleased c v r) := h.same (verdictReleased_same s c v r) (by decide)
  rw [giveVerdict_eq]
  exact (hreleased.testEnded c _).takeUp

theorem channelTaken (c : ChanId) (r : TestResult) : HoldsOk (s.channelTaken c r) := by
  unfold State.channelTaken; split
  · exact (h.testEnded c r).takeUp
  · exact h

theorem windowEnded : HoldsOk s.windowEnded := by
  unfold State.windowEnded; dsimp only; split
  · exact h.setBatch _
  · exact (h.setBatch _).takeUp

theorem darkVerdict (c : ChanId) : HoldsOk (s.darkVerdict c) := by
  rw [darkVerdict_eq]; exact (h.same (referenceWritten_same _ c _ _) (by decide)).giveVerdict c _ _

theorem testSample (c : ChanId) (v : Nat) : HoldsOk (s.testSample c v) := by
  unfold State.testSample; dsimp only
  split
  · split
    · split
      · exact h
      · split <;> exact h.setBatch _
    · split
      · split
        · exact (h.setBatch _).darkVerdict c
        · exact h.setBatch _
      · exact h.setBatch _
    · exact h
  · exact h

/-! ### Samples (R5 to R9) -/

theorem okArrival (c : ChanId) (v : Nat) : HoldsOk (s.okArrival c v) := by
  unfold State.okArrival; dsimp only; split
  · exact (h.setChan c _).testSample c v
  · exact h.putChannel c _ _

theorem nonOkArrival (c : ChanId) : HoldsOk (s.nonOkArrival c) := by
  have hput := h.putChannel c (s.chanRec c).zones ((s.chan c).nonOkSample s.inForce.fast)
  unfold State.nonOkArrival; dsimp only
  split
  · split
    · exact (hput.sealed _).channelTaken c _
    · exact hput.sealed _
  · exact hput

/-! ### Holds (R107, R108, R111 to R113) -/

/-- An entry placed: a DARK or LIT zone enters HELD with it, and a HELD or ARC zone stays as it is. -/
theorem placeHold (z : ZoneId) (p : PortId) (e : Nat) : HoldsOk (s.placeHold z p e) := by
  obtain ⟨-, hheld⟩ := h z
  obtain ⟨hentered, hstayed, honly, -⟩ := placeHold_spec (p := p) (e := e) hheld
  have hhold := hasHold_put_some (s.zone z) p e
  refine (holdsOk_iff _).mpr fun y => ?_
  by_cases hy : y = z
  · rw [hy]
    by_cases hp : (s.zone z).prot = .dark ∨ (s.zone z).prot = .lit
    · rw [hentered hp]; exact holdAgrees_held hhold (.inl rfl)
    · rw [hstayed hp]; exact holdAgrees_held hhold (prot_held_or_arc hp)
  · rw [honly y hy]; exact h y

omit h in
/-- A list that has ended: a HELD zone enters DARK, and the forced quiet follows (R25, R113). -/
theorem holdsEnded {u : State} {z : ZoneId} (hu : HoldsOkBut z u) (hh : ¬ (u.zone z).hasHold = true) :
    HoldsOk (u.holdsEnded z) := by
  have hfree : (u.zone z).hasHold = false := Bool.eq_false_iff.mpr hh
  have hdark : HoldsOk (u.enterDark z) := hu.setZone (holdAgrees_free hfree (by simp [Zone.unlit]))
  have hstays : (u.zone z).prot ≠ .held → HoldsOk u := fun hp => hu.holdsOk (holdAgrees_free hfree hp)
  unfold State.holdsEnded; split
  · exact holds_foldl hdark (fun c hs => hs.putChannel c _ _) (u.watchers z)
  all_goals rename_i hp; exact hstays (by rw [hp]; decide)

theorem freeHold (z : ZoneId) (p : PortId) : HoldsOk (s.freeHold z p) := by
  have hgone := (holdsOkBut_of_holdsOk h z).entryGone (entryGone_setHold s z p)
  unfold State.freeHold; split
  · exact h
  · dsimp only; split
    · rename_i hh; exact hgone.holdsOk_of_hasHold hh
    · rename_i hh; exact (holdsEnded hgone hh).settleQuiet

theorem expireZone (e : Nat) (z : ZoneId) : HoldsOk (s.expireZone e z) := by
  have hgone := holds_foldl (holdsOkBut_of_holdsOk h z) (f := fun s p => s.expireEntry z p)
    (fun p hs => hs.entryGone (entryGone_expireEntry _ z p)) ((ids 3).filter (fun p => s.holdOf z p == some e))
  unfold State.expireZone; dsimp only; split
  · exact h
  · split
    · rename_i hh; exact hgone.holdsOk_of_hasHold hh
    · rename_i hh; exact holdsEnded hgone hh

/-! ### Settings writes (R178) -/

theorem mapWritten : HoldsOk s.mapWritten := by
  have hdemanded : HoldsOk ((ids 12).foldl (fun s o => s.demandMissing o) s) :=
    holds_foldl h (fun o hs => hs.demandMissing o) (ids 12)
  exact hdemanded.evaluateWhere _

theorem zoneEntersUse (z : ZoneId) : HoldsOk (s.zoneEntersUse z) := by
  unfold State.zoneEntersUse; split
  · rename_i hdark
    obtain ⟨hdark, -⟩ := hdark
    exact (h.enterLit hdark).evaluate z
  · exact h

theorem restartChannel (c : ChanId) (zs : List ZoneId) : HoldsOk (s.restartChannel c zs) := by
  have hput := h.putChannel c zs ((s.chan c).restart (s.chanRec c).inUse s.inForce.fast)
  unfold State.restartChannel; dsimp only
  split
  · exact hput.channelTaken c _
  · exact hput

theorem markWritten : HoldsOk s.markWritten := (h.setSets _).settleQuiet

theorem writeChannel (c : ChanId) (r : ChannelRecord) : HoldsOk (s.writeChannel c r) :=
  ((h.setSets _).restartChannel c _).markWritten

theorem writeZone (z : ZoneId) (x : ZoneRecord) : HoldsOk (s.writeZone z x) := by
  have hput : HoldsOk (s.putZoneRecord z x) := h.setSets _
  refine markWritten (holds_inProtecting hput (mapWritten ?_))
  split
  · exact hput.zoneEntersUse z
  · exact hput

theorem writeLink (l : LinkId) (x : Option (ZoneId × ZoneId)) : HoldsOk (s.writeLink l x) :=
  (holds_inProtecting (h.setSets _) (h.setSets _).mapWritten).markWritten

theorem writeBreaker (b : BreakerId) (x : BreakerRecord) : HoldsOk (s.writeBreaker b x) := by
  have hput : HoldsOk (s.putBreakerRecord b x) := h.setSets _
  exact markWritten (holds_inProtecting hput (mapWritten (hput.same (superviseBreaker_same ..) (by decide))))

/-! ### Requests -/

theorem complete {row : RequestRow} {body : PortId → Request → State → State × Answer}
    (hb : ∀ p r, HoldsOk (body p r s).1) : HoldsOk (s.complete row body) := by
  have hdone : ∀ {u : State} p r a, HoldsOk u → HoldsOk (u.answer p r a).grantNext := fun p r a hu =>
    hu.same (answer_grantNext _ p r a).2 (by decide)
  unfold State.complete
  split
  · exact h
  · rename_i p r _
    split
    · cases s.inService with
      | false => exact hdone _ _ _ h
      | true => exact hdone _ _ _ (hb p r)
    · exact h

/-- Every request's checks and effect. -/
theorem command (row : RequestRow) : Gives HoldsOk (exec row.command s) := by
  cases row <;> refine gives_next.mpr (h.complete fun p r => ?_)
  case readItem =>
    unfold readItemBody
    split
    · exact h
    · dsimp only; split <;> exact h
  case writeChannel =>
    unfold writeChannelBody
    split
    · dsimp only; split
      · exact h
      · split_ifs
        exacts [h, h.writeChannel _ _, h]
    · exact h
  case writeZone =>
    unfold writeZoneBody
    split
    · dsimp only; split
      · exact h
      · split_ifs
        exacts [h, h.writeZone _ _, h]
    · exact h
  case writeLink =>
    unfold writeLinkBody
    split
    · dsimp only; split
      · exact h
      · split_ifs
        exacts [h, h.writeLink _ _, h]
    · exact h
  case writeBreaker =>
    unfold writeBreakerBody
    split
    · dsimp only; split
      · exact h
      · split_ifs
        exacts [h, h.writeBreaker _ _, h]
    · exact h
  case writePort =>
    unfold writePortBody
    split
    · exact (h.setSets _).markWritten
    · exact h
  case writeGlobal =>
    unfold writeGlobalBody
    split
    · split
      · exact h
      · exact (h.setSets _).markWritten
    · exact h
  case holdZone =>
    unfold holdBody
    split
    · dsimp only; split
      · exact (h.placeHold _ _ _).settleQuiet
      · exact h
    · exact h
  case freeZone =>
    unfold freeBody
    split
    · exact h.freeHold _ _
    · exact h
  case releaseLockout =>
    unfold releaseBody
    split
    · dsimp only
      split_ifs
      case pos | pos | pos | neg => exact h
      exact h.same (releaseBreaker_same s _) (by decide)
    · exact h
  case testChannels =>
    unfold testChannelsBody
    dsimp only
    split
    · exact h
    · split
      · exact h.setBatch _
      · split
        · exact h.setBatch _
        · exact h
      all_goals exact h
  case suspendTest =>
    have hsuspended : HoldsOk (s.suspend .request) := h.same (suspend_same s .request) (by decide)
    unfold suspendBody
    split
    · exact h
    · exact hsuspended
    · exact hsuspended
    · exact h.setBatch _
  case resumeTest =>
    unfold resumeBody
    split
    · exact h
    · exact h
    · exact h
    · split
      · dsimp only; split
        · exact h.setBatch _
        · exact h.resume.settleQuiet
      · exact h
  case fetchRecord =>
    unfold fetchBody
    split
    · exact h
    · split
      · exact h
      · split
        · exact h.setPort _ _
        · exact h
  case peekOrder =>
    unfold peekBody
    split
    · exact h
    · split <;> exact h
  case commitSettings =>
    unfold commitBody
    split
    · exact h
    · exact h.setSets _
  case setSeconds => exact h.of_zones rfl
  case unknown => exact h

/-! ### Every command -/

theorem sampleArrival (c : ChanId) (v : Nat) (line : LineStatus) : Gives HoldsOk (execSampleArrival c v line s) := by
  have hbroken := (h.nonOkArrival c).settleQuiet
  refine gives_ite (gives_fault _) (gives_ite ?_ (gives_next.mpr h))
  cases line with
  | ok => exact gives_next.mpr (h.okArrival c v).settleQuiet
  | openLoop | short => exact gives_next.mpr hbroken

theorem holdExpiry (z : ZoneId) (p : PortId) : Gives HoldsOk (execHoldExpiry z p s) := by
  unfold execHoldExpiry
  split
  · exact gives_next.mpr h
  · rename_i e _
    exact gives_effect h (holds_foldl h (fun z hs => hs.expireZone e z) (ids 12)).settleQuiet

theorem darkenTimerExpiry : Gives HoldsOk (execDarkenTimerExpiry s) := by
  unfold execDarkenTimerExpiry
  split
  · exact gives_next.mpr h
  · exact gives_effect h ((h.setBatch _).giveVerdict _ _ _).settleQuiet

theorem syncPulse : Gives HoldsOk (execSyncPulse s) := by
  have htime : ∀ x, Gives HoldsOk (.next (s.setTime x)) := fun _ => gives_next.mpr (h.of_zones rfl)
  have hstep : HoldsOk s.stepTime := h.same (stepTime_same s) (by decide)
  refine gives_ite ?_ (gives_next.mpr h)
  exact gives_ite (htime _) (gives_ite (htime _) (gives_ite (gives_next.mpr hstep) (htime _)))

theorem updateEnded : HoldsOk s.updateEnded := h.same (updateEnded_same s) (by decide)

theorem lockoutUpdateCompletion : Gives HoldsOk (execLockoutUpdateCompletion s) := by
  have hwritten : ∀ x, HoldsOk (s.setLockout x) := fun _ => h.of_zones rfl
  unfold execLockoutUpdateCompletion
  split
  · exact gives_next.mpr h
  · exact gives_ite (gives_next.mpr h) (gives_next.mpr (hwritten _).updateEnded)

theorem commitCompletion : Gives HoldsOk (execCommitCompletion s) := by
  unfold execCommitCompletion
  split
  · exact gives_next.mpr h
  · exact gives_next.mpr (h.setSets _)

/-- A transaction's start moves the port's line and fixes its frame (R159, R161). -/
theorem transactionStart (p : PortId) : Gives HoldsOk (execTransactionStart p s) := by
  have hstatus : ∀ {u : State}, HoldsOk u → HoldsOk (u.fixStatus p) := fun hu => by
    unfold State.fixStatus; dsimp only
    split
    · exact (hu.setPort p _).setPort p _
    · exact hu.setPort p _
  refine gives_ite (gives_next.mpr h) (gives_next.mpr ?_)
  dsimp only
  split
  · exact h.setPort p _
  · unfold State.fixFrame
    split
    · exact (h.setPort p _).setPort p _
    all_goals exact hstatus (h.setPort p _)

/-- A transaction's end frees or fills the port's slot (R162 to R165). -/
theorem transactionEnd (p : PortId) (bytes : List Byte) (extraBits : Nat) :
    Gives HoldsOk (execTransactionEnd p bytes extraBits s) := by
  have htake : ∀ {u : State} r, HoldsOk u → HoldsOk (u.takeRequest p r) := fun r hu => by
    unfold State.takeRequest; dsimp only
    split
    · exact (hu.setPort p _).same (grantTo_same _ p) (by decide)
    · exact hu.setPort p _
  refine gives_ite (gives_fault _) ?_
  split
  · exact gives_next.mpr (h.setPort p _)
  · refine gives_next.mpr ?_
    unfold State.endTransaction State.examine
    dsimp only
    split
    · split
      · exact h.setPort p _
      · split
        · exact htake _ (h.setPort p _)
        all_goals exact (h.setPort p _).setPort p _
    · exact (h.setPort p _).setPort p _

omit h in
/-- Every zone starts DARK with an empty hold list (R48, R105). -/
theorem of_atReset {t : State} (hz : t.zones = Vector.replicate 12 Zone.atReset) : HoldsOk t := fun z => by
  rw [State.zone, hz, look_replicate]; exact holdAgrees_atReset

/-- Every command. -/
theorem exec (c : Instr) : Gives HoldsOk (exec c s) := by
  have keep : ∀ {t : State}, t.zones = s.zones → HoldsOk t := fun hz => h.of_zones hz
  cases c with
  | sampleArrival c v line => exact h.sampleArrival c v line
  | lineFault c => exact gives_effect h (h.nonOkArrival c).settleQuiet
  | lineRecovery c => exact gives_effect h (h.okArrival c 0).settleQuiet
  | contactLineChange b bpc bpo => exact gives_ite (gives_next.mpr h) (gives_next.mpr (keep rfl))
  | positionChange b => exact gives_effect h (h.positionSettled b).settleQuiet
  | positionFaultTimerExpiry b => exact gives_effect h (keep rfl)
  | currentLineChange b level => exact gives_ite (gives_next.mpr h) (gives_next.mpr (keep rfl))
  | filteredCurrentChange b => exact gives_effect h (h.currentSettled b).settleQuiet
  | lightAlarmTimerExpiry z => exact gives_effect h (h.lightAlarm z)
  | closeTimerExpiry o => exact gives_effect h (h.closeOrder o).settleQuiet
  | bfTimerExpiry b => exact gives_effect h (h.breakerFailed b).settleQuiet
  | minimumPulseTimerExpiry b => exact gives_effect h (keep (pulseEnded_zones s b))
  | pulseCeilingTimerExpiry b => exact gives_effect h (h.breakerSpent b).settleQuiet
  | utMinimumTimerExpiry u => exact gives_effect h (h.utMinimumEnded u).settleQuiet
  | lockoutUpdateCompletion => exact h.lockoutUpdateCompletion
  | lockoutUpdateTimerExpiry => exact gives_effect h (updateEnded (s := s.setLockout _) (keep rfl))
  | holdExpiry z p => exact h.holdExpiry z p
  | gatheringWindowExpiry => exact gives_effect h h.windowEnded.settleQuiet
  | settleTimerExpiry => exact gives_effect h (keep rfl)
  | darkenTimerExpiry => exact h.darkenTimerExpiry
  | quietTimerExpiry => exact gives_effect h h.resume.settleQuiet
  | rollover => exact gives_effect h (keep rfl)
  | syncPulse => exact h.syncPulse
  | freewheelTimerExpiry => exact gives_effect h (keep rfl)
  | transactionStart p => exact h.transactionStart p
  | transactionEnd p bytes extraBits => exact h.transactionEnd p bytes extraBits
  | readItem => exact h.command .readItem
  | writeChannelRecord => exact h.command .writeChannel
  | writeZoneRecord => exact h.command .writeZone
  | writeLinkSlot => exact h.command .writeLink
  | writeBreakerRecord => exact h.command .writeBreaker
  | writePortRecord => exact h.command .writePort
  | writeGlobalRecord => exact h.command .writeGlobal
  | holdZone => exact h.command .holdZone
  | freeZone => exact h.command .freeZone
  | releaseLockout => exact h.command .releaseLockout
  | testChannels => exact h.command .testChannels
  | suspendTest => exact h.command .suspendTest
  | resumeTest => exact h.command .resumeTest
  | fetchRecord => exact h.command .fetchRecord
  | peekOrder => exact h.command .peekOrder
  | commitSettings => exact h.command .commitSettings
  | setSeconds => exact h.command .setSeconds
  | unknownRequest => exact h.command .unknown
  | commitCompletion => exact h.commitCompletion
  | commitTimerExpiry => exact gives_effect h (keep rfl)
  | powerOnReset => exact gives_next.mpr (of_atReset rfl)
  | resetN => exact gives_effect h (of_atReset rfl)
  | resetEnd => exact gives_effect h (keep rfl)
  | loadingEnd => exact gives_effect h (of_atReset rfl)
  | tripSupplyReading good => exact gives_effect h (keep rfl)
  | lossOfPower => exact gives_next.mpr (of_atReset rfl)

/-- One microsecond moves no zone. -/
theorem advance : HoldsOk s.advance := by
  unfold State.advance; split
  · exact h.of_zones rfl
  · exact h

/-- Every step: a command that waits, and on an empty queue the command of a due timer or one microsecond. -/
theorem step : Gives HoldsOk (step s) := by
  unfold Machine.step
  split
  · unfold tick
    split
    · exact gives_next.mpr h.advance
    · exact exec (s := s.tieTaken) (h.of_zones rfl) _
  · rename_i c rest _
    exact exec (s := s.setPending rest) (h.of_zones rfl) c

end Sys2Proof.Safety.HoldsOk

namespace Sys2Proof.Machine

open Sys2Proof Sys2Proof.Safety

/-- Settles O57: the agreement stands under every change of a zone that a step makes. -/
theorem stepKeepsHolds : Obligations.StepKeepsHolds := fun _ t hstep hs => hs.step t hstep

end Sys2Proof.Machine
end

section
/-! PROOF. Every step keeps the record ring with its counter and cursors (R147, R148), and the ports' slots and frames (R161,
R164, R165): the blocks only seal records, a request's effect can fetch one, and transactions, completions and resets move the
slots. -/

namespace Sys2Proof.Machine

open Sys2Proof Sys2Proof.Safety

/-! ### The moves of records and ports -/

/-- A property of the records and the ports that stands under what the blocks and the requests' effects do to them. -/
structure Recorded (P : State → Prop) : Prop where
  /-- Records and ports stay. -/
  of_eq : ∀ {s t}, P s → t.ring = s.ring → t.nextSeq = s.nextSeq → t.ports = s.ports → P t
  /-- A record is sealed (R147). -/
  sealed : ∀ {s} b, P s → P (s.seal b)
  /-- A record is fetched (R149). -/
  fetched : ∀ {s p} a, s.unfetched p ≠ 0 → P s → P (s.fetched p a)

/-- A RESPONSE is sent by the port only from an ANSWERED slot: what `PortsOk` says of one port (R161). -/
def FrameFits (x : Port) : Prop := ∀ bs, x.outgoing = some (.response bs) → x.slot.isAnswered = true

/-- Such a property that stands under transactions, completions and resets as well: under every move of a step. -/
structure Ported (P : State → Prop) : Prop extends Recorded P where
  /-- A port's line, flags, toggles or frame change (R159 to R163). -/
  updated : ∀ {s p x}, x.cursor = (s.port p).cursor → x.slot = (s.port p).slot → (FrameFits (s.port p) → FrameFits x) →
    P s → P (s.setPort p x)
  /-- A frame is delivered (R162). -/
  delivered : ∀ {s p f}, (s.port p).outgoing = some f → P s →
    P (s.setPort p (Port.delivered { s.port p with selected := false, outgoing := none } f))
  /-- A request is taken into an EMPTY slot (R163, R165). -/
  taken : ∀ {s p} r, (s.port p).slot = .empty → P s → P (s.takeRequest p r)
  /-- The executing request is answered, and the next one granted (R164, R165). -/
  answered : ∀ {s p r} a, s.executing = some (p, r) → P s → P (s.answer p r a).grantNext
  /-- A reset that empties the record unit (R151). -/
  emptied : ∀ (s : State) up, P (s.resetWith 0 [] 0 up)
  /-- A reset that keeps the records (R151). -/
  restarted : ∀ {s}, P s → P (s.resetWith s.oldestSeq s.ring s.nextSeq true)

/-! ### The record ring under the moves -/

/-- The records of a list have consecutive sequence numbers that end before `n` (R147). -/
def Numbered (n : Nat) (l : List SealedRecord) : Prop :=
  ∀ i r, l[i]? = some r → r.seq = (n + 65536 - l.length + i) % 65536

section
variable {n : Nat} {l : List SealedRecord}

theorem numbered_nil (n : Nat) : Numbered n [] := fun i r h => by simp at h

theorem numbered_tail (h : Numbered n l) (hl : l.length < 65536) : Numbered n l.tail := fun i r hi => by
  have hlt := (List.getElem?_eq_some_iff.mp hi).1
  rw [List.length_tail] at hlt
  rw [List.getElem?_tail] at hi
  rw [h _ _ hi, List.length_tail]; omega

theorem numbered_append (h : Numbered n l) (hn : n < 65536) (hl : l.length < 65536) {x : SealedRecord} (hx : x.seq = n) :
    Numbered ((n + 1) % 65536) (l ++ [x]) := fun i r hi => by
  rw [List.getElem?_append] at hi
  rw [List.length_append, List.length_singleton]
  split at hi
  · rw [h _ _ hi]; omega
  · obtain ⟨hlt, rfl⟩ := List.getElem?_eq_some_iff.mp hi
    rw [List.length_singleton] at hlt
    rw [List.getElem_singleton, hx]; omega

end

section
variable {s t : State}

theorem recordsOk_iff (s : State) : RecordsOk s ↔
    s.nextSeq < 65536 ∧ s.ring.length ≤ 16 ∧ Numbered s.nextSeq s.ring
      ∧ ∀ p, (s.port p).cursor < 65536 ∧ s.unfetched p ≤ s.ring.length := Iff.rfl

/-- Of a port, the ring's invariant reads the cursor only. -/
theorem recordsOk_congr (h : RecordsOk s) (hr : t.ring = s.ring) (hn : t.nextSeq = s.nextSeq)
    (hc : ∀ p, (t.port p).cursor = (s.port p).cursor) : RecordsOk t := by
  simpa only [RecordsOk, State.unfetched, hr, hn, hc] using h

theorem recordsOk_setPort (h : RecordsOk s) {p : PortId} {x : Port} (hx : x.cursor = (s.port p).cursor) :
    RecordsOk (s.setPort p x) :=
  recordsOk_congr h rfl rfl fun q => by
    rw [State.setPort_port]; split
    · rename_i hq; rw [← hq, hx]
    · rfl

/-- How many records a port has not fetched after one is sealed: one more, and 16 at most (R148). -/
theorem unfetched_seal_le (h : RecordsOk s) (b : RecordBody) (p : PortId) :
    ((s.seal b).port p).cursor < 65536 ∧ (s.seal b).unfetched p ≤ min 16 (s.ring.length + 1) := by
  obtain ⟨hnext, hlen, hseq, hports⟩ := h
  obtain ⟨hcursor, hcount⟩ := hports p
  obtain ⟨-, -, hport⟩ := sealed_seal s b
  rw [State.unfetched] at hcount ⊢
  rw [seal_nextSeq, hport p]
  split
  · rename_i hring
    have hempty : s.ring.length = 0 := by rw [hring]; rfl
    omega
  · rename_i r rest hring
    have holdest : r.seq = (s.nextSeq + 65536 - s.ring.length + 0) % 65536 := hseq 0 r (by rw [hring]; rfl)
    split
    · dsimp only; omega
    · omega

/-- A record sealed takes the counter's number and stands last, and from a full ring the oldest goes (R147). -/
theorem recordsOk_seal (h : RecordsOk s) (b : RecordBody) : RecordsOk (s.seal b) := by
  have hunfetched := unfetched_seal_le h b
  obtain ⟨hnext, hlen, hseq, -⟩ := (recordsOk_iff s).mp h
  have hkept : Numbered s.nextSeq (if 16 ≤ s.ring.length then s.ring.tail else s.ring) := by
    split
    · exact numbered_tail hseq (by omega)
    · exact hseq
  have hlength : (if 16 ≤ s.ring.length then s.ring.tail else s.ring).length + 1 = min 16 (s.ring.length + 1) := by
    split
    · rw [List.length_tail]; omega
    · omega
  refine (recordsOk_iff _).mpr ⟨by rw [seal_nextSeq]; omega, ?_, ?_, fun p => ?_⟩
  · rw [seal_ring, List.length_append, List.length_singleton]; omega
  · rw [seal_nextSeq, seal_ring]; exact numbered_append hkept hnext (by omega) rfl
  · rw [seal_ring, List.length_append, List.length_singleton, hlength]; exact hunfetched p

/-- The unfetched count after a fetch: one less where the cursor was advanced (R149). -/
theorem unfetched_fetched (h : RecordsOk s) {p : PortId} (hp : s.unfetched p ≠ 0) (a : Bool) :
    (s.fetched p a).unfetched p = if a = true then s.unfetched p - 1 else s.unfetched p := by
  obtain ⟨hnext, hlen, -, hports⟩ := h
  obtain ⟨hcursor, hcount⟩ := hports p
  simp only [State.unfetched, State.fetched, State.setPort_port, State.setPort_nextSeq, if_true] at hp hcount ⊢
  split <;> omega

theorem fetched_port_of_ne {p q : PortId} (h : q ≠ p) (a : Bool) : (s.fetched p a).port q = s.port q := by
  rw [State.fetched, State.setPort_port, if_neg (Ne.symm h)]

theorem recordsOk_fetched (h : RecordsOk s) {p : PortId} (hp : s.unfetched p ≠ 0) (a : Bool) :
    RecordsOk (s.fetched p a) := by
  have hcount := unfetched_fetched h hp a
  obtain ⟨hnext, hlen, hseq, hports⟩ := h
  refine ⟨hnext, hlen, hseq, fun q => ?_⟩
  by_cases hq : q = p
  · subst hq
    obtain ⟨hcursor, hle⟩ := hports q
    refine ⟨?_, ?_⟩
    · simp only [State.fetched, State.setPort_port, if_true]; split <;> omega
    · rw [hcount]; show _ ≤ s.ring.length; split <;> omega
  · rw [State.unfetched, fetched_port_of_ne hq]; exact hports q

theorem recordsOk_resetWith_empty (s : State) (up : Bool) : RecordsOk (s.resetWith 0 [] 0 up) :=
  (recordsOk_iff _).mpr ⟨Nat.zero_lt_succ _, Nat.zero_le _, numbered_nil 0, fun p => by
    rw [State.unfetched, resetWith_cursor]
    show 0 < 65536 ∧ (0 + 65536 - 0) % 65536 ≤ 0
    decide⟩

/-- A reset that keeps the records moves every cursor to the oldest (R151). -/
theorem recordsOk_resetWith_kept (h : RecordsOk s) : RecordsOk (s.resetWith s.oldestSeq s.ring s.nextSeq true) := by
  obtain ⟨hnext, hlen, hseq, -⟩ := h
  have holdest : s.oldestSeq = (s.nextSeq + 65536 - s.ring.length) % 65536 := by
    unfold State.oldestSeq; split
    · rename_i hring; rw [hring, List.length_nil]; omega
    · rename_i r rest hring; exact hseq 0 r (by rw [hring]; rfl)
  refine ⟨hnext, hlen, hseq, fun p => ?_⟩
  rw [State.unfetched, resetWith_cursor]
  show s.oldestSeq < 65536 ∧ (s.nextSeq + 65536 - s.oldestSeq) % 65536 ≤ s.ring.length
  omega

/-- A grant, or a request passed over, moves no cursor (R165). -/
theorem granted_cursor (x : Port) (w : Bool) : (x.granted w).cursor = x.cursor := by
  rw [(portGranted_granted x w).1]

theorem recordsOk_grantTo (h : RecordsOk s) (w : PortId) : RecordsOk (s.grantTo w) :=
  recordsOk_congr h ((grantTo_same s w).ring) ((grantTo_same s w).nextSeq) fun q => by rw [grantTo_port, granted_cursor]

theorem recordsOk_grantNext (h : RecordsOk s) : RecordsOk s.grantNext :=
  recordsOk_congr h ((grantNext_same s).ring) ((grantNext_same s).nextSeq) fun q => by rw [(grantNext_port s q).1]

end

/-- Delivery frees the slot or clears flags (R162). -/
theorem delivered_cursor (x : Port) (f : OutFrame) : (x.delivered f).cursor = x.cursor := by cases f <;> rfl

theorem ported_recordsOk : Ported RecordsOk where
  of_eq h hr hn hp := recordsOk_congr h hr hn fun p => by rw [State.port, hp]; rfl
  sealed b h := recordsOk_seal h b
  fetched a hp h := recordsOk_fetched h hp a
  updated hc _ _ h := recordsOk_setPort h hc
  delivered _ h := recordsOk_setPort h (delivered_cursor _ _)
  taken {s p} r _ h := by
    have hset : RecordsOk (s.setPort p { s.port p with slot := .queued r }) := recordsOk_setPort h rfl
    unfold State.takeRequest; dsimp only; split
    · exact recordsOk_grantTo hset p
    · exact hset
  answered a _ h := recordsOk_grantNext (recordsOk_setPort h rfl)
  emptied s up := recordsOk_resetWith_empty s up
  restarted h := recordsOk_resetWith_kept h


/-! ### The slots and frames under the moves -/

/-- Some slot is EXECUTING exactly where the executor has a request (R165). -/
theorem executing_isSome_iff (s : State) :
    s.executing.isSome = true ↔ ∃ p, (s.port p).slot.running.isSome = true := by
  constructor
  · intro h
    obtain ⟨⟨p, r⟩, he⟩ := Option.isSome_iff_exists.mp h
    exact ⟨p, by rw [executing_slot he]; rfl⟩
  · rintro ⟨p, hp⟩
    by_contra hn
    rw [executing_none (by simpa using hn) p] at hp
    cases hp

section
variable {s t : State}

theorem portsOk_iff (s : State) : PortsOk s ↔
    (∀ p q, (s.port p).slot.running.isSome = true → (s.port q).slot.running.isSome = true → p = q)
      ∧ (∀ p, s.isQueued p = true → ∃ q, (s.port q).slot.running.isSome = true) ∧ ∀ p, FrameFits (s.port p) := by
  simp only [PortsOk, FrameFits, executing_isSome_iff]

theorem frameFits_of_portsOk (h : PortsOk s) (p : PortId) : FrameFits (s.port p) := by
  obtain ⟨-, -, hfits⟩ := (portsOk_iff s).mp h
  exact hfits p

/-- The slots' invariant reads which slots are EXECUTING and which QUEUED, and which frames fit. -/
theorem portsOk_congr (h : PortsOk s) (hr : ∀ p, (t.port p).slot.running.isSome = (s.port p).slot.running.isSome)
    (hw : ∀ p, t.isQueued p = s.isQueued p) (hf : ∀ p, FrameFits (t.port p)) : PortsOk t := by
  obtain ⟨hone, hqueued, -⟩ := (portsOk_iff s).mp h
  rw [portsOk_iff]
  simp only [hr, hw]
  exact ⟨hone, hqueued, hf⟩

/-- A port changes, but neither is its slot taken, granted nor given up, and its frame fits. -/
theorem portsOk_setPort (h : PortsOk s) {p : PortId} {x : Port}
    (hr : x.slot.running.isSome = (s.port p).slot.running.isSome)
    (hw : x.slot.waiting.isSome = (s.port p).slot.waiting.isSome) (hf : FrameFits x) : PortsOk (s.setPort p x) := by
  have hfits := frameFits_of_portsOk h
  refine portsOk_congr h (fun q => ?_) (fun q => ?_) fun q => ?_
  · rw [State.setPort_port]; split
    · rename_i hq; rw [← hq, hr]
    · rfl
  · rw [State.isQueued, State.setPort_port]; split
    · rename_i hq; rw [← hq, hw]; rfl
    · rfl
  · rw [State.setPort_port]; split
    · exact hf
    · exact hfits q

/-- A frame sent from a slot that is not ANSWERED is no RESPONSE, and fits whatever becomes of the slot. -/
theorem frameFits_of_not_answered {x y : Port} (h : FrameFits x) (hx : x.slot.isAnswered = false)
    (ho : y.outgoing = x.outgoing) : FrameFits y := fun bs hbs => by
  rw [ho] at hbs
  exact absurd ((h bs hbs).symm.trans hx) (by decide)

theorem frameFits_granted {x : Port} (h : FrameFits x) (w : Bool) : FrameFits (x.granted w) := by
  unfold Port.granted; split
  · rename_i r hslot
    split <;> exact frameFits_of_not_answered h (by rw [hslot]; rfl) rfl
  all_goals exact h

theorem granted_running (x : Port) (w : Bool) :
    (x.granted w).slot.running.isSome = (x.slot.running.isSome || (w && x.slot.waiting.isSome)) := by
  unfold Port.granted; split
  · rename_i r hslot
    cases w <;> simp [hslot, Slot.running, Slot.waiting]
  all_goals rename_i hslot; simp [hslot, Slot.running, Slot.waiting]

/-- With the executor idle, a grant to a waiting port makes its slot the one that is EXECUTING (R165). -/
theorem portsOk_grantTo (hf : ∀ p, FrameFits (s.port p)) (hn : ∀ p, (s.port p).slot.running.isSome = false) {w : PortId}
    (hw : s.isQueued w = true) : PortsOk (s.grantTo w) := by
  have hrunning : ∀ p, ((s.grantTo w).port p).slot.running.isSome = true ↔ p = w := fun p => by
    rw [grantTo_port, granted_running, hn p, Bool.false_or, Bool.and_eq_true, beq_iff_eq]
    exact ⟨fun h => h.1, fun h => ⟨h, h ▸ hw⟩⟩
  refine (portsOk_iff _).mpr ⟨fun p q hp hq => ?_, fun _ _ => ⟨w, (hrunning w).mpr rfl⟩, fun p => ?_⟩
  · rw [(hrunning p).mp hp, (hrunning q).mp hq]
  · rw [grantTo_port]; exact frameFits_granted (hf p) _

/-- The arbiter chooses among the waiting ports (R166). -/
theorem isQueued_of_choice {w : PortId} (h : s.choice = some w) : s.isQueued w = true := by
  unfold State.choice at h
  split at h
  · obtain ⟨hmem, -⟩ := bestPort_spec _ _ ((List.pairwise_lt_finRange 3).filter _) w h
    simpa using hmem
  · obtain ⟨hmem, -⟩ := bestPort_spec _ _ ((List.pairwise_lt_finRange 3).filter _) w h
    simp only [State.promoted, List.mem_filter, Bool.and_eq_true] at hmem
    obtain ⟨-, ⟨hqueued, -⟩, -⟩ := hmem
    exact hqueued

theorem not_isQueued_of_choice_none (h : s.choice = none) (p : PortId) : s.isQueued p = false := by
  unfold State.choice at h
  split at h
  · simpa using List.filter_eq_nil_iff.mp ((bestPort_none _ _).mp h) p (by simp)
  · rename_i hne
    exact absurd ((bestPort_none _ _).mp h) hne

/-- With the executor idle, the next grant, or none, leaves the slots consistent (R165). -/
theorem portsOk_grantNext (hf : ∀ p, FrameFits (s.port p)) (hn : ∀ p, (s.port p).slot.running.isSome = false) :
    PortsOk s.grantNext := by
  unfold State.grantNext; split
  · rename_i hnone
    have hidle : ∀ p, s.isQueued p = false := not_isQueued_of_choice_none hnone
    refine (portsOk_iff _).mpr ⟨fun p _ hp => ?_, fun p hp => ?_, hf⟩
    · exact absurd ((hn p).symm.trans hp) (by decide)
    · exact absurd ((hidle p).symm.trans hp) (by decide)
  · rename_i w hw
    exact portsOk_grantTo hf hn (isQueued_of_choice hw)

/-- The executing request is answered: no slot is EXECUTING any more, and the next is granted (R164, R165). -/
theorem portsOk_answered (h : PortsOk s) {p : PortId} {r : Request} (a : Answer) (he : s.executing = some (p, r)) :
    PortsOk (s.answer p r a).grantNext := by
  obtain ⟨hone, -, hfits⟩ := (portsOk_iff s).mp h
  have hp : (s.port p).slot.running.isSome = true := by rw [executing_slot he]; rfl
  refine portsOk_grantNext (fun q => ?_) fun q => ?_
  · rw [State.answer, State.setPort_port]; split
    · exact fun _ _ => rfl
    · exact hfits q
  · rw [State.answer, State.setPort_port]; split
    · rfl
    · rename_i hq
      exact Bool.eq_false_iff.mpr fun hr => hq (hone p q hp hr)

/-- A request taken waits while another is executing, and is granted at once by an idle executor (R163, R165). -/
theorem portsOk_takeRequest (h : PortsOk s) {p : PortId} (r : Request) (hp : (s.port p).slot = .empty) :
    PortsOk (s.takeRequest p r) := by
  obtain ⟨hone, hqueued, hfits⟩ := (portsOk_iff s).mp h
  have hfits' : ∀ q, FrameFits ((s.setPort p { s.port p with slot := .queued r }).port q) := fun q => by
    rw [State.setPort_port]; split
    · exact frameFits_of_not_answered (hfits p) (by rw [hp]; rfl) rfl
    · exact hfits q
  have hrunning : ∀ q, ((s.setPort p { s.port p with slot := .queued r }).port q).slot.running.isSome
      = (s.port q).slot.running.isSome := fun q => by
    rw [State.setPort_port]; split
    · rename_i hq; rw [← hq, hp]; rfl
    · rfl
  unfold State.takeRequest; dsimp only; split
  · rename_i hidle
    refine portsOk_grantTo hfits' (fun q => ?_) (by simp [State.isQueued, Slot.waiting])
    rw [hrunning, executing_none (by simpa using hidle) q]; rfl
  · rename_i hbusy
    obtain ⟨w, hw⟩ := (executing_isSome_iff s).mp (by simpa [Option.isSome_iff_ne_none] using hbusy)
    refine (portsOk_iff _).mpr ⟨fun a b => ?_, fun _ _ => ⟨w, by rw [hrunning]; exact hw⟩, hfits'⟩
    rw [hrunning, hrunning]; exact hone a b

/-- A RESPONSE that is delivered frees its ANSWERED slot (R162). -/
theorem portsOk_delivered (h : PortsOk s) {p : PortId} {f : OutFrame} (hf : (s.port p).outgoing = some f) :
    PortsOk (s.setPort p (Port.delivered { s.port p with selected := false, outgoing := none } f)) := by
  have hfits := frameFits_of_portsOk h
  cases f with
  | response bytes =>
    obtain ⟨r, a, hslot⟩ := (isAnswered_iff _).mp (hfits p bytes hf)
    exact portsOk_setPort h (by rw [hslot]; rfl) (by rw [hslot]; rfl) fun bs hbs => by cases hbs
  | status e d bytes => exact portsOk_setPort h rfl rfl fun bs hbs => by cases hbs

/-- A reset empties every slot and abandons every frame (R164). -/
theorem portsOk_resetWith (s : State) (n : Nat) (l : List SealedRecord) (q : Nat) (up : Bool) :
    PortsOk (s.resetWith n l q up) := by
  refine (portsOk_iff _).mpr ⟨fun p _ hp => ?_, fun p hp => ?_, fun p bs hbs => ?_⟩
  · rw [resetWith_port] at hp; cases hp
  · rw [State.isQueued, resetWith_port] at hp; cases hp
  · rw [resetWith_port] at hbs; cases hbs

end

/-- A port keeps its slot and frame under seals and fetches, which move its cursor and LOST flag only (R148, R149). -/
theorem portsOk_of_slots {s t : State} (h : PortsOk s) (hs : ∀ p, (t.port p).slot = (s.port p).slot)
    (ho : ∀ p, (t.port p).outgoing = (s.port p).outgoing) : PortsOk t := by
  have hfits := frameFits_of_portsOk h
  refine portsOk_congr h (fun p => by rw [hs]) (fun p => by rw [State.isQueued, State.isQueued, hs]) fun p bs hbs => ?_
  rw [hs]; exact hfits p bs ((ho p).symm.trans hbs)

theorem ported_portsOk : Ported PortsOk where
  of_eq h _ _ hp := portsOk_of_slots h (fun p => by simp only [State.port, hp]) fun p => by simp only [State.port, hp]
  sealed b h := portsOk_of_slots h (fun p => by rw [seal_port]) fun p => by rw [seal_port]
  fetched a _ h := portsOk_setPort h rfl rfl (frameFits_of_portsOk h _)
  updated _ hslot hfits h := portsOk_setPort h (by rw [hslot]) (by rw [hslot]) (hfits (frameFits_of_portsOk h _))
  delivered hf h := portsOk_delivered h hf
  taken r hp h := portsOk_takeRequest h r hp
  answered a he h := portsOk_answered h a he
  emptied s up := portsOk_resetWith s 0 [] 0 up
  restarted _ := portsOk_resetWith _ _ _ _ _


/-! ### What the blocks do -/

namespace Recorded

variable {P : State → Prop} (h : Recorded P) {s : State} (hs : P s)
include h

/-- No update of the blocks touches records or ports but a seal. -/
theorem stable : Stable P where
  setChan _ _ _ hs := h.of_eq hs rfl rfl rfl
  setZone _ _ _ hs := h.of_eq hs rfl rfl rfl
  setOrder _ _ _ hs := h.of_eq hs rfl rfl rfl
  setTrip _ _ _ hs := h.of_eq hs rfl rfl rfl
  setUt _ _ _ hs := h.of_eq hs rfl rfl rfl
  setBatch _ _ hs := h.of_eq hs rfl rfl rfl
  setLockout _ _ hs := h.of_eq hs rfl rfl rfl
  sealed _ b hs := h.sealed b hs

/-- The property with the executor's request: no seal and no fetch changes a slot. -/
theorem withExecuting (e : Option (PortId × Request)) : Recorded (fun t => P t ∧ t.executing = e) where
  of_eq := fun ⟨hs, he⟩ hr hn hp =>
    ⟨h.of_eq hs hr hn hp, (executing_congr fun q => by simp only [State.port, hp]).trans he⟩
  sealed b := fun ⟨hs, he⟩ => ⟨h.sealed b hs, (executing_congr fun q => by rw [seal_port]).trans he⟩
  fetched {s p} a hu := fun ⟨hs, he⟩ => by
    obtain ⟨-, hkept⟩ := SlotsKept.fetched s p a
    exact ⟨h.fetched a hu hs, (executing_congr fun q => (hkept q).1).trans he⟩

include hs

theorem same {ps : List Part} {t : State} (k : SameBut ps s t) (hr : Part.records ∉ ps := by decide)
    (hp : Part.ports ∉ ps := by decide) : P t := h.of_eq hs (k.ring hr) (k.nextSeq hr) (k.ports hp)

theorem setInput (b : BreakerId) (x : Inputs) : P (s.setInput b x) := h.of_eq hs rfl rfl rfl

theorem setSets (x : SettingsUnit) : P (s.setSets x) := h.of_eq hs rfl rfl rfl

theorem setTime (x : TimeBase) : P (s.setTime x) := h.of_eq hs rfl rfl rfl

theorem okArrival (c : ChanId) (v : Nat) : P (s.okArrival c v) := h.stable.okArrival (fun _ x hs => h.setSets hs x) c v hs

theorem currentSettled (b : BreakerId) : P (s.currentSettled b) := by
  have hset := h.setInput hs b (s.currentTaken b)
  rw [currentSettled_eq]
  split
  · exact hset
  · split
    · exact h.stable.tripReport b (h.stable.currentAsserted b hset)
    · exact h.stable.tripReport b hset

theorem positionSettled (b : BreakerId) : P (s.positionSettled b) := by
  have hreported := h.stable.tripReport b (h.same hs (positionMoved_same s b))
  rw [positionSettled_eq]
  split
  · exact h.setInput hs b _
  · split
    · exact h.stable.leftOpen b hreported
    · exact hreported

theorem stepTime : P s.stepTime := by
  unfold State.stepTime
  exact h.of_eq (h.sealed _ (h.setTime hs _)) rfl rfl rfl

/-! ### Settings writes (R178) -/

theorem markWritten : P s.markWritten := h.stable.settleQuiet (h.setSets hs _)

theorem writeZone (z : ZoneId) (x : ZoneRecord) : P (s.writeZone z x) := by
  have hput : P (s.putZoneRecord z x) := h.setSets hs _
  refine h.markWritten (holds_inProtecting hput (h.stable.mapWritten ?_))
  split
  · exact h.stable.zoneEntersUse z hput
  · exact hput

theorem writeLink (l : LinkId) (x : Option (ZoneId × ZoneId)) : P (s.writeLink l x) :=
  h.markWritten (holds_inProtecting (h.setSets hs _) (h.stable.mapWritten (h.setSets hs _)))

theorem writeBreaker (b : BreakerId) (x : BreakerRecord) : P (s.writeBreaker b x) := by
  have hput : P (s.putBreakerRecord b x) := h.setSets hs _
  exact h.markWritten (holds_inProtecting hput (h.stable.mapWritten (h.same hput (superviseBreaker_same ..))))

/-! ### Requests -/

/-- Every request's command runs its row's checks and effect, which keep the property. -/
theorem row_body (row : RequestRow) :
    ∃ body, exec row.command s = .next (s.complete row body) ∧ ∀ p r, P (body p r s).1 := by
  have st := h.stable
  cases row <;> refine ⟨_, rfl, fun p r => ?_⟩
  case readItem =>
    unfold readItemBody
    split
    · exact hs
    · dsimp only; split <;> exact hs
  case writeChannel =>
    unfold writeChannelBody
    split
    · dsimp only; split
      · exact hs
      · split_ifs
        exacts [hs, h.markWritten (st.restartChannel _ _ (h.setSets hs _)), hs]
    · exact hs
  case writeZone =>
    unfold writeZoneBody
    split
    · dsimp only; split
      · exact hs
      · split_ifs
        exacts [hs, h.writeZone hs _ _, hs]
    · exact hs
  case writeLink =>
    unfold writeLinkBody
    split
    · dsimp only; split
      · exact hs
      · split_ifs
        exacts [hs, h.writeLink hs _ _, hs]
    · exact hs
  case writeBreaker =>
    unfold writeBreakerBody
    split
    · dsimp only; split
      · exact hs
      · split_ifs
        exacts [hs, h.writeBreaker hs _ _, hs]
    · exact hs
  case writePort =>
    unfold writePortBody
    split
    · exact h.markWritten (h.setSets hs _)
    · exact hs
  case writeGlobal =>
    unfold writeGlobalBody
    split
    · split
      · exact hs
      · exact h.markWritten (h.setSets hs _)
    · exact hs
  case holdZone =>
    unfold holdBody
    split
    · dsimp only; split
      · exact st.settleQuiet (st.placeHold _ _ _ hs)
      · exact hs
    · exact hs
  case freeZone =>
    unfold freeBody
    split
    · exact st.freeHold _ _ hs
    · exact hs
  case releaseLockout =>
    unfold releaseBody
    split
    · dsimp only
      split_ifs
      case pos | pos | pos | neg => exact hs
      exact h.same hs (releaseBreaker_same s _)
    · exact hs
  case testChannels =>
    unfold testChannelsBody
    dsimp only
    split
    · exact hs
    · split
      · exact st.setBatch _ _ hs
      · split
        · exact st.setBatch _ _ hs
        · exact hs
      all_goals exact hs
  case suspendTest =>
    unfold suspendBody
    split
    · exact hs
    · exact st.suspend _ hs
    · exact st.suspend _ hs
    · exact st.setBatch _ _ hs
  case resumeTest =>
    unfold resumeBody
    split
    · exact hs
    · exact hs
    · exact hs
    · split
      · dsimp only; split
        · exact st.setBatch _ _ hs
        · exact st.settleQuiet (st.resume hs)
      · exact hs
  case fetchRecord =>
    unfold fetchBody
    split
    · exact hs
    · rename_i hunfetched
      split
      · exact hs
      · split
        · exact h.fetched _ hunfetched hs
        · exact hs
  case peekOrder =>
    unfold peekBody
    split
    · exact hs
    · split <;> exact hs
  case commitSettings =>
    unfold commitBody
    split
    · exact hs
    · exact h.setSets hs _
  case setSeconds => exact h.setTime hs _
  case unknown => exact hs

/-! ### The events of the blocks -/

theorem sampleArrival (c : ChanId) (v : Nat) (line : LineStatus) : Gives P (execSampleArrival c v line s) := by
  have hbroken := h.stable.settleQuiet (h.stable.nonOkArrival c hs)
  refine gives_ite (gives_fault _) (gives_ite ?_ (gives_next.mpr hs))
  cases line with
  | ok => exact gives_next.mpr (h.stable.settleQuiet (h.okArrival hs c v))
  | openLoop | short => exact gives_next.mpr hbroken

theorem holdExpiry (z : ZoneId) (p : PortId) : Gives P (execHoldExpiry z p s) := by
  unfold execHoldExpiry
  split
  · exact gives_next.mpr hs
  · rename_i e _
    exact gives_effect hs (h.stable.settleQuiet (holds_foldl hs (fun z hs => h.stable.expireZone e z hs) (ids 12)))

theorem darkenTimerExpiry : Gives P (execDarkenTimerExpiry s) := by
  unfold execDarkenTimerExpiry
  split
  · exact gives_next.mpr hs
  · exact gives_effect hs (h.stable.settleQuiet (h.stable.giveVerdict _ _ _ (h.stable.setBatch _ _ hs)))

theorem syncPulse : Gives P (execSyncPulse s) := by
  have htime : ∀ x, Gives P (.next (s.setTime x)) := fun x => gives_next.mpr (h.setTime hs x)
  refine gives_ite ?_ (gives_next.mpr hs)
  exact gives_ite (htime _) (gives_ite (htime _) (gives_ite (gives_next.mpr (h.stepTime hs)) (htime _)))

theorem lockoutUpdateCompletion : Gives P (execLockoutUpdateCompletion s) := by
  unfold execLockoutUpdateCompletion
  split
  · exact gives_next.mpr hs
  · exact gives_ite (gives_next.mpr hs) (gives_next.mpr (h.same (h.stable.setLockout _ _ hs) (updateEnded_same _)))

theorem commitCompletion : Gives P (execCommitCompletion s) := by
  unfold execCommitCompletion
  split
  · exact gives_next.mpr hs
  · exact gives_next.mpr (h.setSets hs _)

theorem loadingEnd : Gives P (execLoadingEnd s) := by
  have hloaded := h.same (h.same hs (loadSettings_same s)) (loadLockouts_same _)
  exact gives_effect hs (h.of_eq hloaded (startBlocks_ring _) (startBlocks_nextSeq _) (startBlocks_ports _))

end Recorded

/-! ### Every command -/

namespace Ported

variable {P : State → Prop} (h : Ported P) {s : State} (hs : P s)
include h hs

/-- A request's command: its effect leaves it executing, and it is answered (R164, R165). -/
theorem command (row : RequestRow) : Gives P (exec row.command s) := by
  obtain ⟨body, hexec, hbody⟩ := (h.toRecorded.withExecuting s.executing).row_body ⟨hs, rfl⟩ row
  rw [hexec]
  refine gives_next.mpr ?_
  unfold State.complete
  split
  · exact hs
  · rename_i p r he
    obtain ⟨heffect, hexecuting⟩ := hbody p r
    split
    · cases s.inService with
      | false => exact h.answered _ he hs
      | true => exact h.answered _ (hexecuting.trans he) heffect
    · exact hs

/-- A STATUS frame is fixed, after the toggles have flipped (R138, R161). -/
theorem fixStatus (p : PortId) : P (s.fixStatus p) := by
  have hframe : ∀ {u : State} e d bytes, P u → P (u.setPort p { u.port p with outgoing := some (.status e d bytes) }) :=
    fun _ _ _ hu => h.updated rfl rfl (fun _ bs hbs => by cases hbs) hu
  have hflipped : ∀ (x : Port) b,
      (x.flipped b).cursor = x.cursor ∧ (x.flipped b).slot = x.slot ∧ (x.flipped b).outgoing = x.outgoing := fun x b => by
    cases b <;> exact ⟨rfl, rfl, rfl⟩
  unfold State.fixStatus; dsimp only
  split
  · obtain ⟨hcursor, hslot, hout⟩ := hflipped (s.port p) s.batch.state
    refine hframe _ _ _ (h.updated hcursor hslot (fun hfits bs hbs => ?_) hs)
    rw [hslot]; exact hfits bs (hout.symm.trans hbs)
  · exact hframe _ _ _ hs

/-- A transaction's start moves the port's line and fixes its frame (R159, R161). -/
theorem transactionStart (p : PortId) : Gives P (execTransactionStart p s) := by
  have hline : P (s.setPort p { s.port p with selected := true }) := h.updated rfl rfl id hs
  refine gives_ite (gives_next.mpr hs) (gives_next.mpr ?_)
  dsimp only
  split
  · exact hline
  · unfold State.fixFrame
    split
    · rename_i r a hslot
      exact h.updated rfl rfl (fun _ _ _ => by rw [hslot]; rfl) hline
    all_goals exact h.fixStatus hline p

/-- The incoming frame sets a flag, or its request is taken into an EMPTY slot (R163). -/
theorem examine (p : PortId) (bytes : List Byte) (extraBits : Nat) : P (s.examine p bytes extraBits) := by
  unfold State.examine
  split
  · split
    · exact hs
    · split
      · rename_i hslot; exact h.taken _ hslot hs
      all_goals exact h.updated rfl rfl id hs
  · exact h.updated rfl rfl id hs

/-- A transaction's end delivers the outgoing frame and examines the incoming one (R162, R163). -/
theorem transactionEnd (p : PortId) (bytes : List Byte) (extraBits : Nat) :
    Gives P (execTransactionEnd p bytes extraBits s) := by
  refine gives_ite (gives_fault _) ?_
  split
  · exact gives_next.mpr (h.updated rfl rfl id hs)
  · rename_i f hf
    refine gives_next.mpr (h.examine ?_ p bytes extraBits)
    split
    · exact h.delivered hf hs
    · exact h.updated rfl rfl (fun _ bs hbs => by cases hbs) hs

/-- Every command. -/
theorem exec (c : Instr) : Gives P (exec c s) := by
  have rec_ := h.toRecorded
  have st := rec_.stable
  have keep : ∀ {t : State}, t.ring = s.ring → t.nextSeq = s.nextSeq → t.ports = s.ports → P t := h.of_eq hs
  cases c with
  | sampleArrival c v line => exact rec_.sampleArrival hs c v line
  | lineFault c => exact gives_effect hs (st.settleQuiet (st.nonOkArrival c hs))
  | lineRecovery c => exact gives_effect hs (st.settleQuiet (rec_.okArrival hs c 0))
  | contactLineChange b bpc bpo => exact gives_ite (gives_next.mpr hs) (gives_next.mpr (keep rfl rfl rfl))
  | positionChange b => exact gives_effect hs (st.settleQuiet (rec_.positionSettled hs b))
  | positionFaultTimerExpiry b => exact gives_effect hs (keep rfl rfl rfl)
  | currentLineChange b level => exact gives_ite (gives_next.mpr hs) (gives_next.mpr (keep rfl rfl rfl))
  | filteredCurrentChange b => exact gives_effect hs (st.settleQuiet (rec_.currentSettled hs b))
  | lightAlarmTimerExpiry z => exact gives_effect hs (st.lightAlarm z hs)
  | closeTimerExpiry o => exact gives_effect hs (st.settleQuiet (st.closeOrder o hs))
  | bfTimerExpiry b => exact gives_effect hs (st.settleQuiet (st.breakerFailed b hs))
  | minimumPulseTimerExpiry b => exact gives_effect hs (st.pulseEnded b hs)
  | pulseCeilingTimerExpiry b => exact gives_effect hs (st.settleQuiet (st.breakerSpent b hs))
  | utMinimumTimerExpiry u => exact gives_effect hs (st.settleQuiet (st.utMinimumEnded u hs))
  | lockoutUpdateCompletion => exact rec_.lockoutUpdateCompletion hs
  | lockoutUpdateTimerExpiry => exact gives_effect hs (rec_.same (st.setLockout s _ hs) (updateEnded_same _))
  | holdExpiry z p => exact rec_.holdExpiry hs z p
  | gatheringWindowExpiry => exact gives_effect hs (st.settleQuiet (st.windowEnded hs))
  | settleTimerExpiry => exact gives_effect hs (keep rfl rfl rfl)
  | darkenTimerExpiry => exact rec_.darkenTimerExpiry hs
  | quietTimerExpiry => exact gives_effect hs (st.settleQuiet (st.resume hs))
  | rollover => exact gives_effect hs (keep rfl rfl rfl)
  | syncPulse => exact rec_.syncPulse hs
  | freewheelTimerExpiry => exact gives_effect hs (keep rfl rfl rfl)
  | transactionStart p => exact h.transactionStart hs p
  | transactionEnd p bytes extraBits => exact h.transactionEnd hs p bytes extraBits
  | readItem => exact h.command hs .readItem
  | writeChannelRecord => exact h.command hs .writeChannel
  | writeZoneRecord => exact h.command hs .writeZone
  | writeLinkSlot => exact h.command hs .writeLink
  | writeBreakerRecord => exact h.command hs .writeBreaker
  | writePortRecord => exact h.command hs .writePort
  | writeGlobalRecord => exact h.command hs .writeGlobal
  | holdZone => exact h.command hs .holdZone
  | freeZone => exact h.command hs .freeZone
  | releaseLockout => exact h.command hs .releaseLockout
  | testChannels => exact h.command hs .testChannels
  | suspendTest => exact h.command hs .suspendTest
  | resumeTest => exact h.command hs .resumeTest
  | fetchRecord => exact h.command hs .fetchRecord
  | peekOrder => exact h.command hs .peekOrder
  | commitSettings => exact h.command hs .commitSettings
  | setSeconds => exact h.command hs .setSeconds
  | unknownRequest => exact h.command hs .unknown
  | commitCompletion => exact rec_.commitCompletion hs
  | commitTimerExpiry => exact gives_effect hs (keep rfl rfl rfl)
  | powerOnReset => exact gives_next.mpr (h.emptied s true)
  | resetN => exact gives_effect hs (h.of_eq (h.restarted hs) rfl rfl rfl)
  | resetEnd => exact gives_effect hs (keep rfl rfl rfl)
  | loadingEnd => exact rec_.loadingEnd hs
  | tripSupplyReading good => exact gives_effect hs (keep rfl rfl rfl)
  | lossOfPower => exact gives_next.mpr (h.emptied s false)

/-- Every step: a command that waits, and on an empty queue the command of a due timer or one microsecond. -/
theorem step : Gives P (step s) := by
  unfold Machine.step
  split
  · unfold tick
    split
    · refine gives_next.mpr (h.of_eq hs ?_ ?_ ?_)
      all_goals unfold State.advance; split <;> rfl
    · exact h.exec (s := s.tieTaken) (h.of_eq hs rfl rfl rfl) _
  · rename_i c rest _
    exact h.exec (s := s.setPending rest) (h.of_eq hs rfl rfl rfl) c

end Ported

/-- Settles O56: both invariants stand under the moves of which a step consists. -/
theorem stepKeepsRecordsAndPorts : Obligations.StepKeepsRecordsAndPorts := fun _ t hstep =>
  ⟨fun hs => ported_recordsOk.step hs t hstep, fun hs => ported_portsOk.step hs t hstep⟩

end Sys2Proof.Machine
end

section
/-! PROOF. The time base (section 8.4): the tick, the rollover, the freewheel timer, Set Seconds and the SYNC pulse. -/

namespace Sys2Proof.Machine

open Sys2Proof Sys2Proof.Safety

section
variable (s : State)

/-! ### The meaning of the commands -/

theorem exec_rollover_eq : exec .rollover s = execRollover s := rfl

theorem exec_syncPulse_eq : exec .syncPulse s = execSyncPulse s := rfl

theorem exec_freewheelTimerExpiry_eq : exec .freewheelTimerExpiry s = execFreewheelTimerExpiry s := rfl

end

/-! ### One microsecond and the tick (R152, log 3) -/

theorem timeBase_advanced (t : TimeBase) : t.advanced =
    if t.micros < 999999 then { t with micros := t.micros + 1 }
    else { t with micros := 0, seconds := (t.seconds + 1) % 4294967296 } := by
  unfold TimeBase.advanced
  by_cases h : t.micros < 999999
  · rw [if_neg (Nat.not_le.mpr h), if_pos h]
  · rw [if_pos (Nat.not_lt.mp h), if_neg h]; rfl

section
variable {s : State}

theorem step_of_empty_queue (h : s.pending = []) : step s = tick s := by rw [step, h]

theorem tick_of_none_due (h : s.due = []) : tick s = .next s.advance := by rw [tick, State.dueCommand, h]

theorem tick_of_one_due {c : Instr} (h : s.due = [c]) : tick s = exec c s.tieTaken := by rw [tick, State.dueCommand, h]

end

/-- Settles O2, by the list of what is due. -/
theorem emptyQueueTicks : Obligations.EmptyQueueTicks := by
  intro s hq
  refine ⟨fun hpower hdue hmode => ?_, fun c hdue => ?_⟩
  · rw [step_of_empty_queue hq, tick_of_none_due hdue, State.advance, if_pos hpower, if_neg hmode, timeBase_advanced]
  · rw [step_of_empty_queue hq, tick_of_one_due hdue]; rfl

/-! ### The rollover and the freewheel timer (R152, R155) -/

section
variable {s : State}

theorem exec_rollover_due (hm : s.mode ≠ .reset) (hu : 999999 ≤ s.time.micros) :
    exec .rollover s = .next (s.setTime s.time.rolled) := if_pos ⟨hm, hu⟩

theorem exec_rollover_early (h : s.mode = .reset ∨ s.time.micros < 999999) : exec .rollover s = .next s :=
  if_neg fun ⟨hm, hu⟩ => h.elim hm fun hlt => absurd hu (Nat.not_le.mpr hlt)

theorem exec_freewheelTimerExpiry_running (h : s.time.freewheel.isSome = true) :
    exec .freewheelTimerExpiry s = .next (s.setTime { s.time with
      freewheel := none, status := if s.time.status = .synced then .freewheel else s.time.status }) := if_pos h

end

/-! ### Set Seconds (R156) -/

theorem row_setSeconds {r : Request} (h : r.kind = 0x48#8) : r.row = .setSeconds := by simp [Request.row, h]

theorem byte4_eq (r : Request) (i : Nat) : r.byte4 i =
    r.byte i * 16777216 + r.byte (i + 1) * 65536 + r.byte (i + 2) * 256 + r.byte (i + 3) := by
  simp only [Request.byte4, Request.byte2, Nat.add_assoc, Nat.reduceAdd]; omega

/-- Settles O34, one clause after another. -/
theorem rolloverFreewheelAndSetSeconds : Obligations.RolloverFreewheelAndSetSeconds := by
  intro s
  refine ⟨rfl, exec_rollover_due, exec_rollover_early, fun hf => ?_, fun p r hserve hk => ?_⟩
  · rw [exec_freewheelTimerExpiry_running hf]
    cases hstatus : s.time.status <;> rfl
  · obtain ⟨t, hexec, hans, hsame⟩ := complete_effect hserve (row_setSeconds hk) (body := setSecondsBody) rfl rfl
    refine ⟨t, hexec, hans, ?_, ?_⟩
    · rw [hsame.time, State.setTime_time, byte4_eq]
    · exact SameBut.trans (t := s.setTime _) (by simp [SameBut]) (hsame.mono (by simp))

/-! ### The SYNC pulse (R153, R154) -/

section
variable {s : State}

/-- The time base after a pulse, by the second that it gives: nothing of the old time base remains but the pending value,
whether one has been applied, and the second. -/
theorem timeBase_aligned (t : TimeBase) (sec timer : Nat) : t.aligned sec timer =
    { seconds := t.pendingSeconds.getD sec
      micros := 0
      status := if t.applied || t.pendingSeconds.isSome then .synced else .unset
      pendingSeconds := none
      applied := t.applied || t.pendingSeconds.isSome
      offWindow := false
      freewheel := some timer } := rfl

/-- The time base after a pulse that is accepted, or that steps the time, late in its second or early in it (R153, R154). -/
def State.pulsed (s : State) (late : Bool) : TimeBase :=
  s.time.aligned (if late then nextSecond s.time.seconds else s.time.seconds) (s.after freewheelTime)

theorem exec_syncPulse_late (hs : s.inService = true) (hu : 999000 ≤ s.time.micros) :
    exec .syncPulse s = .next (s.setTime (s.pulsed true)) := by
  rw [exec_syncPulse_eq, execSyncPulse, if_pos hs]
  exact if_pos hu

theorem exec_syncPulse_early (hs : s.inService = true) (hu : s.time.micros ≤ 1000) :
    exec .syncPulse s = .next (s.setTime (s.pulsed false)) := by
  rw [exec_syncPulse_eq, execSyncPulse, if_pos hs]
  dsimp only
  rw [if_neg (by omega), if_pos hu]; rfl

theorem exec_syncPulse_ignored (hs : s.inService = true) (hlo : 1001 ≤ s.time.micros) (hhi : s.time.micros ≤ 998999)
    (hmark : s.time.offWindow = false) : exec .syncPulse s = .next (s.setTime { s.time with offWindow := true }) := by
  rw [exec_syncPulse_eq, execSyncPulse, if_pos hs]
  dsimp only
  rw [if_neg (by omega), if_neg (by omega), if_neg (by simp [hmark])]

theorem exec_syncPulse_steps (hs : s.inService = true) (hlo : 1001 ≤ s.time.micros) (hhi : s.time.micros ≤ 998999)
    (hmark : s.time.offWindow = true) : exec .syncPulse s = .next s.stepTime := by
  rw [exec_syncPulse_eq, execSyncPulse, if_pos hs]
  dsimp only
  rw [if_neg (by omega), if_neg (by omega), if_pos hmark]

/-- After an accepted pulse the second has just begun, and no rollover is due (R153). -/
theorem exec_rollover_after_pulse (s : State) (late : Bool) :
    exec .rollover (s.setTime (s.pulsed late)) = .next (s.setTime (s.pulsed late)) :=
  exec_rollover_early (.inr (Nat.zero_lt_succ _))

/-- A pulse right after the rollover gives the second that the pulse before it would have given (R153). -/
theorem pulsed_rolled (s : State) : (s.setTime s.time.rolled).pulsed false = s.pulsed true := rfl

/-! A stepping pulse (R154). -/

/-- The second taken as at an accepted pulse, and the TIME_STEP record sealed with the time status after it. -/
def State.timeStepped (s : State) : State :=
  (s.setTime (s.pulsed (decide (500000 ≤ s.time.micros)))).seal
    (.timeStep s.time.seconds s.time.micros (s.pulsed (decide (500000 ≤ s.time.micros))).seconds)

/-- A stepping pulse then marks every open record. -/
theorem stepTime_eq (s : State) : s.stepTime = { s.timeStepped with
    orders := s.timeStepped.orders.map (fun o => o.map (fun x => { x with timeStep := true })) } := by
  simp only [State.stepTime, State.timeStepped, State.pulsed, decide_eq_true_eq]

theorem timeStepped_time (s : State) : s.timeStepped.time = s.pulsed (decide (500000 ≤ s.time.micros)) := seal_time _ _

theorem stepTime_time (s : State) : s.stepTime.time = s.pulsed (decide (500000 ≤ s.time.micros)) := by
  rw [← timeStepped_time, stepTime_eq]

theorem stepTime_order (s : State) (o : SlotId) :
    s.stepTime.order o = (s.order o).map (fun x => { x with timeStep := true }) := by
  have horders : s.timeStepped.orders = s.orders := seal_orders _ _
  rw [stepTime_eq, State.order, look_map, horders]; rfl

theorem stepTime_sealed (s : State) : Sealed (s.setTime s.stepTime.time) s.stepTime
    (.timeStep s.time.seconds s.time.micros s.stepTime.time.seconds) := by
  rw [stepTime_time, stepTime_eq]
  exact (sealed_seal _ _).congr rfl rfl rfl rfl rfl rfl rfl

end

/-- Settles O35, by where in its second the pulse comes. -/
theorem syncPulseAlignsOrSteps : Obligations.SyncPulseAlignsOrSteps := by
  intro s hs aligned
  have haligned : ∀ late, aligned late = s.pulsed late := fun late => by
    cases hp : s.time.pendingSeconds <;> simp [aligned, State.pulsed, timeBase_aligned, hp, nextSecond, State.after,
      freewheelTime, ms]
  refine ⟨fun hu => ?_, fun hu => ?_, fun hu t ht => ?_, fun hu t ht => ?_, fun hlo hhi =>
    ⟨exec_syncPulse_ignored hs hlo hhi, fun hmark => ⟨_, exec_syncPulse_steps hs hlo hhi hmark, ?_, stepTime_sealed s,
      stepTime_order s, (stepTime_same s).mono (by simp)⟩⟩⟩
  · rw [haligned, exec_syncPulse_late hs hu]
  · rw [haligned, exec_syncPulse_early hs hu]
  · have hmode : s.mode ≠ .reset := fun hr => by simp [State.inService, hr] at hs
    rw [exec_rollover_due hmode (by omega)] at ht
    cases ht
    have hrolled := exec_syncPulse_early (s := s.setTime s.time.rolled) hs (Nat.zero_le _)
    rw [exec_syncPulse_late hs (by omega), hrolled, pulsed_rolled, State.setTime_setTime]
  · rcases hu with hu | hu
    · rw [exec_syncPulse_late hs hu] at ht; cases ht; exact exec_rollover_after_pulse s true
    · rw [exec_syncPulse_early hs hu] at ht; cases ht; exact exec_rollover_after_pulse s false
  · rw [haligned, stepTime_time]

end Sys2Proof.Machine
end

section
/-! PROOF. Fetch Record and Peek Order (sections 8.3, 9.6; R149, R150, R173): their checks in order, and the page they answer. -/

namespace Sys2Proof.Machine

open Sys2Proof Sys2Proof.Safety

/-! ### Fetch Record (R149) -/

theorem row_fetchRecord {r : Request} (h : r.kind = 0x30#8) : r.row = .fetchRecord := by simp [Request.row, h]

section
variable {s : State} {p : PortId} {r : Request}

/-- A port with records left to fetch has one at its cursor (R148). -/
theorem recordAt_of_unfetched (h : RecordsOk s) (hu : s.unfetched p ≠ 0) : ∃ x, s.recordAt p = some x := by
  obtain ⟨hnext, hlen, hseq, hports⟩ := h
  obtain ⟨hcursor, hcount⟩ := hports p
  have hlt : s.ring.length - s.unfetched p < s.ring.length := by omega
  have hat := hseq _ _ (List.getElem?_eq_getElem hlt)
  refine Option.isSome_iff_exists.mp (List.find?_isSome.mpr ⟨_, List.getElem_mem hlt, beq_iff_eq.mpr ?_⟩)
  rw [hat]
  rw [State.unfetched] at hu hcount ⊢
  omega

/-- The record at the cursor is one of the ring, with the cursor's number. -/
theorem recordAt_spec {x : SealedRecord} (h : s.recordAt p = some x) : x ∈ s.ring ∧ x.seq = (s.port p).cursor :=
  ⟨List.mem_of_find?_eq_some h, by simpa using List.find?_some h⟩

theorem fetchBody_empty (r : Request) (hu : s.unfetched p = 0) : fetchBody p r s = (s, .refuse .empty) := if_pos hu

theorem fetchBody_of_recordAt (r : Request) {x : SealedRecord} (hu : s.unfetched p ≠ 0) (hx : s.recordAt p = some x) :
    fetchBody p r s =
      if r.byte 0 < x.body.pages then
        (s.fetched p (r.byte 1 != 0),
          { code := if (s.port p).lost then .doneLost else .done, data := x.page (r.byte 0) })
      else (s, .refuse .value) := by
  rw [fetchBody, if_neg hu, hx]

/-- The port after a fetch: LOST is cleared, and the cursor advanced where asked (R149). -/
theorem fetched_port (s : State) (p : PortId) (a : Bool) : (s.fetched p a).port p =
    { s.port p with lost := false, cursor := if a then ((s.port p).cursor + 1) % 65536 else (s.port p).cursor } := by
  rw [State.fetched, State.setPort_port, if_pos rfl]

theorem fetched_same (s : State) (p : PortId) (a : Bool) : SameBut [.ports] s (s.fetched p a) := by
  simp [State.fetched, SameBut]

end

/-- Settles O36: the checks in their order, and the page of the record at the cursor. -/
theorem fetchRecordReads : Obligations.FetchRecordReads := by
  intro s p r he hok hk refused
  have hrow := row_fetchRecord hk
  have hrefused : ∀ c, s.inService = true → fetchBody p r s = (s, .refuse c) → refused c := fun c hs hb =>
    complete_effect ⟨hs, he⟩ hrow hb rfl
  refine ⟨fun hs => ?_, fun hs hu => hrefused _ hs (fetchBody_empty r hu), fun hs hu => ?_⟩
  · obtain ⟨hans, hsame⟩ := complete_mode (body := fetchBody) hs he hrow
    exact ⟨_, rfl, hans, hsame⟩
  · obtain ⟨x, hx⟩ := recordAt_of_unfetched hok hu
    obtain ⟨hmem, hseq⟩ := recordAt_spec hx
    have hbody := fetchBody_of_recordAt r hu hx
    rw [pages_eq] at hbody
    refine ⟨x, hmem, hseq, fun hpage => ?_, fun hpage => ?_⟩
    · exact hrefused _ hs (hbody.trans (if_neg (Nat.not_lt.mpr hpage)))
    · obtain ⟨⟨hport, hothers⟩, hsame⟩ := complete_spec ⟨hs, he⟩ hrow (hbody.trans (if_pos hpage))
      refine ⟨_, x.page (r.byte 0), rfl, recordPage_isPage .., ?_, ?_, fun q hq => ?_, ?_⟩
      · rw [hport, fetched_port]; simp only [bne_iff_ne, ne_eq, ite_not]
      · rw [State.unfetched, hport, hsame.nextSeq]
        exact (unfetched_fetched hok hu _).trans (by simp only [bne_iff_ne, ne_eq, ite_not])
      · rw [← fetched_port_of_ne hq (r.byte 1 != 0)]; exact hothers q hq
      · exact SameBut.trans ((fetched_same s p _).mono (by simp)) hsame

/-! ### Peek Order (R150) -/

theorem row_peekOrder {r : Request} (h : r.kind = 0x31#8) : r.row = .peekOrder := by simp [Request.row, h]

section
variable {s : State} (p : PortId) {r : Request}

theorem peekBody_outOfRange (h : 12 ≤ r.byte 0) : peekBody p r s = (s, .refuse .item) := by
  rw [peekBody, (readFin_none _ _).mpr h]; rfl

theorem readFin_val {n x : Nat} (i : Fin n) (h : x = i.val) : readFin n x = some i := by
  subst h; exact dif_pos i.isLt

theorem peekBody_noOrder {o : SlotId} (h : r.byte 0 = o.val) (ho : s.order o = none) :
    peekBody p r s = (s, .refuse .item) := by
  rw [peekBody, readFin_val o h, Option.bind_some, ho]; rfl

theorem peekBody_order {o : SlotId} {x : Order} (h : r.byte 0 = o.val) (ho : s.order o = some x) :
    peekBody p r s =
      if r.byte 1 < (RecordBody.arc (s.arcRecord o x)).pages then
        (s, { code := .done, data := recordPage (.arc (s.arcRecord o x)) none none s.time.status (r.byte 1) })
      else (s, .refuse .value) := by
  rw [peekBody, readFin_val o h, Option.bind_some, ho]; rfl

end

/-- Settles O37: the checks in their order and the page of the open record, and the ARC record field by field. -/
theorem peekOrderReads : Obligations.PeekOrderReads := by
  refine ⟨?_, arcRecord_spec⟩
  intro s p r he hk answered
  have hrow := row_peekOrder hk
  have hanswered : ∀ a, s.inService = true → peekBody p r s = (s, a) → answered a := fun a hs hb =>
    complete_effect ⟨hs, he⟩ hrow hb rfl
  refine ⟨fun hs => ?_, fun hs h => hanswered _ hs (peekBody_outOfRange p h),
    fun o hs h ho => hanswered _ hs (peekBody_noOrder p h ho), fun o x hs h ho => ?_⟩
  · obtain ⟨hans, hsame⟩ := complete_mode (body := peekBody) hs he hrow
    exact ⟨_, rfl, hans, hsame⟩
  · have hbody := peekBody_order p h ho
    rw [pages_eq] at hbody
    refine ⟨fun hpage => hanswered _ hs (hbody.trans (if_neg (Nat.not_lt.mpr hpage))), fun hpage => ?_⟩
    exact ⟨_, hanswered _ hs (hbody.trans (if_pos hpage)), openPage_isPage ..⟩

end Sys2Proof.Machine
end

section
/-! PROOF. The end of a transaction (sections 9.1 to 9.3; R159 to R163, R165): what counts as delivered, and what becomes of
the incoming frame. -/

namespace Sys2Proof.Machine

open Sys2Proof Sys2Proof.Safety

/-! ### The executor and a port that changes -/

/-- The executor's request is unchanged where a port's slot is replaced by one that runs the same request, or none (R165). -/
theorem executing_setPort {s : State} {p : PortId} {x : Port} (h : x.slot.running = (s.port p).slot.running) :
    (s.setPort p x).executing = s.executing := by
  have hrunning : ∀ q, ((s.setPort p x).port q).slot.running = (s.port q).slot.running := fun q => by
    rw [State.setPort_port]; split
    · rename_i hq; rw [← hq, h]
    · rfl
  simp only [State.executing, hrunning]

theorem running_none_iff (x : Slot) : x.running = none ↔ ∀ r, x ≠ .executing r := by
  cases x <;> simp [Slot.running]

/-! ### A request taken (R163, R165) -/

/-- The port to which the grant goes (R166). -/
theorem granted_winner {x : Port} {r : Request} (h : x.slot = .queued r) :
    x.granted true = { x with slot := .executing r, skip := 0 } := by simp [Port.granted, h]

/-- A waiting port that loses the grant (R166). -/
theorem granted_loser {x : Port} {r : Request} (h : x.slot = .queued r) :
    x.granted false = { x with skip := min 255 (x.skip + 1) } := by simp [Port.granted, h]

theorem grantTo_execLimit (s : State) (w : PortId) : (s.grantTo w).execLimit = some (s.now + 20) := rfl

theorem grantTo_loadLimit (s : State) (w : PortId) : (s.grantTo w).loadLimit = s.loadLimit := by
  simp [State.grantTo, ids, List.finRange_succ]

section
variable {s : State} {p : PortId} (r : Request)

/-- While another request is executing, the request taken waits (R163). -/
theorem takeRequest_busy (he : s.executing ≠ none) :
    s.takeRequest p r = s.setPort p { s.port p with slot := .queued r } := by
  rw [State.takeRequest, if_neg (by simpa using he)]

/-- With the executor idle no port waits, and the request taken is granted at once (R165). -/
theorem takeRequest_idle (hok : PortsOk s) (he : s.executing = none) :
    (s.takeRequest p r).port p = { s.port p with slot := .executing r, skip := 0 }
      ∧ (∀ q, q ≠ p → (s.takeRequest p r).port q = s.port q)
      ∧ (s.takeRequest p r).execLimit = some (s.now + 20) ∧ (s.takeRequest p r).loadLimit = s.loadLimit
      ∧ SameBut [.ports, .limits] s (s.takeRequest p r) := by
  obtain ⟨-, hqueued, -⟩ := hok
  have hwaiting : ∀ q, (s.port q).slot.waiting = none := fun q => by
    by_contra hq
    have := hqueued q (Option.isSome_iff_ne_none.mpr hq)
    rw [he] at this; cases this
  rw [State.takeRequest, if_pos (by simp [he])]
  refine ⟨?_, fun q hq => ?_, rfl, grantTo_loadLimit _ _, SameBut.trans ?_ (grantTo_same _ _)⟩
  · rw [grantTo_port, State.setPort_port, if_pos rfl, beq_self_eq_true, granted_winner rfl]
  · rw [grantTo_port, State.setPort_port, if_neg (Ne.symm hq), granted_of_not_waiting _ _ (hwaiting q)]
  · simp [SameBut]

end

/-! ### The incoming frame (R159, R160, R163) -/

theorem lengthOk_iff (bytes : List Byte) (n : Nat) : lengthOk bytes n = true ↔ bytes.length = 24 ∧ n = 0 := by
  simp [lengthOk, frameLength]

section
variable (s : State) (p : PortId) {bytes : List Byte} {n : Nat}

theorem examine_wrongLength (h : ¬ (bytes.length = 24 ∧ n = 0)) :
    s.examine p bytes n = s.setPort p { s.port p with frameError := true } := by
  have hlen : lengthOk bytes n = false := Bool.eq_false_iff.mpr (mt (lengthOk_iff bytes n).mp h)
  simp [State.examine, hlen]

theorem examine_badCheck (h : crcOk bytes = false) :
    s.examine p bytes n = s.setPort p { s.port p with frameError := true } := by
  simp [State.examine, h]

variable (hlen : bytes.length = 24) (hcrc : crcOk bytes = true)
include hlen hcrc

/-- A frame of the right length with a good check byte is a NOP or a request (R163). -/
theorem examine_whole :
    s.examine p bytes 0 =
      if (frameRequest bytes).kind = 0 then s
      else if (s.port p).slot = .empty then s.takeRequest p (frameRequest bytes)
      else s.setPort p { s.port p with dropped := true } := by
  rw [State.examine, (lengthOk_iff bytes 0).mpr ⟨hlen, rfl⟩, hcrc, Bool.and_self, if_pos rfl]
  cases (s.port p).slot <;> simp

theorem examine_nop (hk : (frameRequest bytes).kind = 0) : s.examine p bytes 0 = s := by
  rw [examine_whole s p hlen hcrc, if_pos hk]

theorem examine_taken (hk : (frameRequest bytes).kind ≠ 0) (hp : (s.port p).slot = .empty) :
    s.examine p bytes 0 = s.takeRequest p (frameRequest bytes) := by
  rw [examine_whole s p hlen hcrc, if_neg hk, if_pos hp]

theorem examine_dropped (hk : (frameRequest bytes).kind ≠ 0) (hp : (s.port p).slot ≠ .empty) :
    s.examine p bytes 0 = s.setPort p { s.port p with dropped := true } := by
  rw [examine_whole s p hlen hcrc, if_neg hk, if_neg hp]

end

/-! ### The transaction's end -/

/-- The port after the end of a transaction whose outgoing frame `f` counts as delivered (R162). -/
def Port.afterDelivery (x : Port) (f : OutFrame) : Port :=
  Port.delivered { x with selected := false, outgoing := none } f

section
variable {s : State} {p : PortId} {bytes : List Byte} {f : OutFrame} (hf : (s.port p).outgoing = some f)
include hf

/-- At the right length the outgoing frame is delivered before the incoming one is examined (R162, R163). -/
theorem exec_transactionEnd_whole (hlen : bytes.length = 24) :
    exec (.transactionEnd p bytes 0) s = .next ((s.setPort p ((s.port p).afterDelivery f)).examine p bytes 0) := by
  change execTransactionEnd p bytes 0 s = _
  rw [execTransactionEnd, if_neg (by omega), hf]
  simp only [State.endTransaction, (lengthOk_iff bytes 0).mpr ⟨hlen, rfl⟩, if_true, Port.afterDelivery]

/-- At a wrong length nothing is delivered, and the frame-error flag is set (R162, R163). -/
theorem exec_transactionEnd_wrongLength {n : Nat} (hn : n ≤ 7) (hlen : ¬ (bytes.length = 24 ∧ n = 0)) :
    exec (.transactionEnd p bytes n) s = .next (s.setPort p { s.port p with
      selected := false, outgoing := none, frameError := true }) := by
  change execTransactionEnd p bytes n s = _
  rw [execTransactionEnd, if_neg (by omega), hf]
  simp only [State.endTransaction, if_neg (mt (lengthOk_iff bytes n).mp hlen), examine_wrongLength _ p hlen,
    State.setPort_port, if_true, State.setPort_setPort]

end

/-- Settles O39: by the length, and then by the outgoing frame. -/
theorem transactionEndDelivers : Obligations.TransactionEndDelivers := by
  intro s p bytes n hn
  refine ⟨fun hlen h0 hcrc hhead => ?_, fun hlen hout => ?_⟩
  · subst h0
    have hkind : (frameRequest bytes).kind = 0 := by simp [frameRequest, List.getD_eq_getElem?_getD,
      ← List.head?_eq_getElem?, hhead]
    have hdelivered : ∀ f, (s.port p).outgoing = some f →
        exec (.transactionEnd p bytes 0) s = .next (s.setPort p ((s.port p).afterDelivery f)) := fun f hf => by
      rw [exec_transactionEnd_whole hf hlen, examine_nop _ p hlen hcrc hkind]
    exact ⟨fun bs hf => hdelivered _ hf, fun fe dr bs hf => hdelivered _ hf⟩
  · obtain ⟨f, hf⟩ := Option.ne_none_iff_exists'.mp hout
    exact exec_transactionEnd_wrongLength hf hn hlen

/-- Settles O40: the outgoing frame is delivered first, and the incoming one meets the port as that has left it. -/
theorem transactionEndTakesRequest : Obligations.TransactionEndTakesRequest := by
  refine ⟨?_, fun bytes => by simp [crcOk], crc8_eq⟩
  intro s p bytes f hlen hf r x
  have hx : x = (s.port p).afterDelivery f := by cases f <;> rfl
  have hexec : exec (.transactionEnd p bytes 0) s = .next ((s.setPort p x).examine p bytes 0) := by
    rw [hx]; exact exec_transactionEnd_whole hf hlen
  have hport : (s.setPort p x).port p = x := by rw [State.setPort_port, if_pos rfl]
  have hready : x.slot = .empty → (s.port p).slot.running = none → (s.setPort p x).executing = s.executing :=
    fun hempty hidle => executing_setPort (by rw [hempty, hidle]; rfl)
  rw [hexec]
  refine ⟨fun hcrc => ?_, fun hcrc hk hempty hok he => ?_, fun hcrc hk hempty hslot he => ?_, fun hcrc hk hfull => ?_⟩
  · rw [examine_badCheck _ p hcrc, hport, State.setPort_setPort]
  · have hok' : PortsOk (s.setPort p x) := by rw [hx]; exact portsOk_delivered hok hf
    have he' : (s.setPort p x).executing = none := (hready hempty (executing_none he p)).trans he
    obtain ⟨htaken, hothers, hexecLimit, hloadLimit, hsame⟩ := takeRequest_idle (p := p) r hok' he'
    refine ⟨_, congrArg _ (examine_taken _ p hlen hcrc hk (by rwa [hport])), htaken.trans (by rw [hport]),
      fun q hq => ?_, hexecLimit, hloadLimit, SameBut.trans (by simp [SameBut]) hsame⟩
    exact (hothers q hq).trans (by rw [State.setPort_port, if_neg (Ne.symm hq)])
  · have he' : (s.setPort p x).executing ≠ none := by rwa [hready hempty ((running_none_iff _).mpr hslot)]
    rw [examine_taken _ p hlen hcrc hk (by rwa [hport]), takeRequest_busy _ he', hport, State.setPort_setPort]
    rfl
  · rw [examine_dropped _ p hlen hcrc hk (by rwa [hport]), hport, State.setPort_setPort]

end Sys2Proof.Machine
end

section
/-! PROOF. The arbiter's grant at a completion (R166), and the requests that have no effect whatever their data (R163, R167,
R172). -/

namespace Sys2Proof.Machine

open Sys2Proof Sys2Proof.Safety

/-! ### The arbiter's choice (R166) -/

theorem isQueued_iff (s : State) (p : PortId) : s.isQueued p = true ↔ ∃ r, (s.port p).slot = .queued r := by
  unfold State.isQueued
  cases (s.port p).slot <;> simp [Slot.waiting]

theorem promoted_iff (s : State) (p : PortId) : s.promoted p = true ↔
    s.isQueued p = true ∧ (s.portRec p).ceiling ≠ 0 ∧ (s.portRec p).ceiling ≤ (s.port p).skip := by
  simp [State.promoted, and_assoc]

section
variable {s : State} {w : PortId}

/-- The arbiter makes no choice exactly where no port waits. -/
theorem choice_eq_none_iff : s.choice = none ↔ ∀ p, s.isQueued p = false := by
  refine ⟨not_isQueued_of_choice_none, fun h => ?_⟩
  by_contra hne
  obtain ⟨w, hw⟩ := Option.ne_none_iff_exists'.mp hne
  have := isQueued_of_choice hw
  rw [h w] at this; cases this

/-- Where a port is promoted, the promoted port with the highest skip count is chosen, the lowest number at a tie. -/
theorem choice_promoted (hw : s.choice = some w) (hp : ∃ q, s.promoted q = true) :
    s.promoted w = true ∧ ∀ q, s.promoted q = true →
      (s.port q).skip ≤ (s.port w).skip ∧ ((s.port q).skip = (s.port w).skip → w ≤ q) := by
  unfold State.choice at hw
  split at hw
  · rename_i hnil
    obtain ⟨q, hq⟩ := hp
    exact absurd hq (by simpa using List.filter_eq_nil_iff.mp hnil q (by simp))
  · obtain ⟨hmem, hbest⟩ := bestPort_spec _ _ ((List.pairwise_lt_finRange 3).filter _) w hw
    exact ⟨(List.mem_filter.mp hmem).2, fun q hq => hbest q (List.mem_filter.mpr ⟨List.mem_finRange q, hq⟩)⟩

/-- With none promoted, the waiting port with the highest priority is chosen, the lowest number at a tie. -/
theorem choice_unpromoted (hw : s.choice = some w) (hp : ¬ ∃ q, s.promoted q = true) :
    ∀ q, s.isQueued q = true →
      (s.portRec q).priority ≤ (s.portRec w).priority
        ∧ ((s.portRec q).priority = (s.portRec w).priority → w ≤ q) := by
  have hnil : (ids 3).filter (fun p => s.promoted p) = [] :=
    List.filter_eq_nil_iff.mpr fun q _ hq => hp ⟨q, hq⟩
  unfold State.choice at hw
  rw [hnil] at hw
  obtain ⟨-, hbest⟩ := bestPort_spec _ _ ((List.pairwise_lt_finRange 3).filter _) w hw
  exact fun q hq => hbest q (List.mem_filter.mpr ⟨List.mem_finRange q, hq⟩)

/-! ### The grant -/

theorem grantNext_of_choice_none (h : s.choice = none) : s.grantNext = { s with execLimit := none } := by
  simp [State.grantNext, h]

theorem grantNext_of_choice (h : s.choice = some w) : s.grantNext = s.grantTo w := by simp [State.grantNext, h]

theorem grantTo_winner {r : Request} (h : (s.port w).slot = .queued r) :
    (s.grantTo w).port w = { s.port w with slot := .executing r, skip := 0 } := by
  rw [grantTo_port, beq_self_eq_true, granted_winner h]

theorem grantTo_loser {q : PortId} (hq : q ≠ w) (h : s.isQueued q = true) :
    (s.grantTo w).port q = { s.port q with skip := min 255 ((s.port q).skip + 1) } := by
  obtain ⟨r, hr⟩ := (isQueued_iff s q).mp h
  rw [grantTo_port, beq_eq_false_iff_ne.mpr hq, granted_loser hr]

theorem grantTo_bystander {q : PortId} (h : s.isQueued q = false) : (s.grantTo w).port q = s.port q := by
  rw [grantTo_port, granted_of_not_waiting _ _ (by simpa [State.isQueued] using h)]

end

/-- Settles O41: the completion stores the answer before its grant, and the choice is by skip count where a port is promoted,
by priority elsewhere. -/
theorem arbiterGrants : Obligations.ArbiterGrants := by
  intro s
  refine ⟨isQueued_iff s, fun p r he => ?_, fun hidle => grantNext_of_choice_none (choice_eq_none_iff.mpr hidle),
    fun ⟨p, hp⟩ => ?_⟩
  · obtain ⟨u, a, ⟨hnow, hkept⟩, hexec⟩ := row_completes he
    have hport : ∀ q, (u.answer p r a).port q = if p = q then { u.port p with slot := .answered r a } else u.port q :=
      State.setPort_port u p _
    refine ⟨u.answer p r a, a, by rw [hport, if_pos rfl], hnow, fun q => ⟨fun hq => ?_, ?_⟩, hexec⟩
    · rw [hport, if_neg (Ne.symm hq)]; exact (hkept q).1
    · rw [hport, ← (hkept q).2]; split
      · rename_i hq; rw [hq]
      · rfl
  · have hsome : s.choice ≠ none := fun h => by simp [choice_eq_none_iff.mp h p] at hp
    obtain ⟨w, hw⟩ := Option.ne_none_iff_exists'.mp hsome
    obtain ⟨r, hr⟩ := (isQueued_iff s w).mp (isQueued_of_choice hw)
    rw [grantNext_of_choice hw]
    refine ⟨w, r, hr, ?_, grantTo_winner hr, fun q => grantTo_loser, fun q => grantTo_bystander, grantTo_execLimit s w,
      grantTo_same s w⟩
    simp only [← promoted_iff]
    split
    · rename_i hpromoted
      obtain ⟨hwin, hbest⟩ := choice_promoted hw hpromoted
      obtain ⟨-, hceiling, hskip⟩ := (promoted_iff s w).mp hwin
      exact ⟨hceiling, hskip, fun q hq hc hs => hbest q ((promoted_iff s q).mpr ⟨hq, hc, hs⟩)⟩
    · rename_i hnone
      exact choice_unpromoted hw hnone

/-! ### Requests without effect (R163, R167, R172) -/

theorem writeRow_unknown {i : Nat} (h : i ∉ [1, 2, 3, 4, 9, 10]) : writeRow i = .unknown := by
  unfold writeRow
  split
  case h_7 => rfl
  all_goals simp at h

theorem row_unknown_kind {r : Request} (h : r.kind ∉ [0x01#8, 0x02#8, 0x10#8, 0x11#8, 0x18#8, 0x20#8, 0x21#8, 0x22#8,
    0x30#8, 0x31#8, 0x40#8, 0x48#8]) : r.row = .unknown := by
  simp only [List.mem_cons, List.not_mem_nil, or_false, not_or, ← BitVec.toNat_inj] at h
  unfold Request.row
  split
  case h_13 => rfl
  all_goals simp_all

theorem row_unknown_item {r : Request} (hk : r.kind = 0x02#8) (h : r.byte 0 ∉ [1, 2, 3, 4, 9, 10]) :
    r.row = .unknown := by
  simp [Request.row, hk, writeRow_unknown h]

/-- Settles O42: the mode is checked before anything else, and an unknown request's row refuses it. -/
theorem requestsWithoutEffect : Obligations.RequestsWithoutEffect := by
  intro s p r he
  refine ⟨executing_slot he, fun hs => ?_, fun hs hkind => ?_⟩
  · obtain ⟨body, hexec, -⟩ := row_command r.row s
    obtain ⟨hans, hsame⟩ := complete_mode (body := body) hs he rfl
    exact ⟨_, hexec, hans, hsame⟩
  · have hrow : r.row = .unknown := hkind.elim row_unknown_kind fun ⟨hk, hitem⟩ => row_unknown_item hk hitem
    exact complete_effect (body := unknownBody) ⟨hs, he⟩ hrow rfl rfl

end Sys2Proof.Machine
end

section
/-! PROOF. Read Item (section 9.6; R171, R172, Table 9-5): its checks in order, the content of every item field by field, and
its pages. -/

namespace Sys2Proof.Machine

open Sys2Proof Sys2Proof.Safety

theorem row_readItem {r : Request} (h : r.kind = 0x01#8) : r.row = .readItem := by simp [Request.row, h]

/-! ### The checks (R172) -/

section
variable {s : State} (p : PortId) {r : Request}

theorem readItemBody_noContent (h : s.itemContent (r.byte 0) (r.byte 1) = none) :
    readItemBody p r s = (s, .refuse .item) := by simp [readItemBody, h]

theorem readItemBody_content {content : List Byte} (h : s.itemContent (r.byte 0) (r.byte 1) = some content) :
    readItemBody p r s =
      if r.byte 2 < (content.length + 17) / 18 then
        (s, { code := .done
              data := BitVec.ofNat 8 ((content.length + 17) / 18) :: (content.drop (18 * r.byte 2)).take 18 })
      else (s, .refuse .value) := by
  rw [readItemBody, h]; rfl

end

/-! ### The content (Table 9-5) -/

theorem withIndex_val {n : Nat} (i : Fin n) (f : Fin n → List Byte) : withIndex n i.val f = some (f i) := by
  rw [withIndex, readFin_val i rfl]; rfl

/-- A port item: priority, ceiling, slot state, skip count. -/
theorem portItem_carries (s : State) (q : PortId) :
    Carries (encodePort (look s.sets.working.ports q) ++ num1 (s.port q).slot.code ++ num1 (s.port q).skip)
      [(1, (look s.sets.working.ports q).priority), (1, (look s.sets.working.ports q).ceiling),
        slotField (s.port q).slot, (1, (s.port q).skip)] :=
  carries_append (carries_append (carries_append (carries_num1 _) (carries_num1 _)) (slotCode_carries _)) (carries_num1 _)

/-! ### The pages (R172) -/

/-- The first `k` pages of a content, put together, are its first `n * k` bytes. -/
theorem pages_flatten {α : Type} (n : Nat) (l : List α) (k : Nat) :
    ((List.range k).map (fun i => (l.drop (n * i)).take n)).flatten = l.take (n * k) := by
  induction k with
  | zero => simp
  | succ k ih => rw [List.range_succ, List.map_append, List.flatten_append, ih, Nat.mul_succ, List.take_add]; simp

/-- Settles O43: the checks, the content kind by kind, and the pages. -/
theorem readItemReads : Obligations.ReadItemReads := by
  refine ⟨?_, fun s => ?_, fun content => ?_⟩
  · intro s p r hs hk answered
    have hrow := row_readItem hk
    have hanswered : ∀ a, readItemBody p r s = (s, a) → answered a := fun a hb => complete_effect hs hrow hb rfl
    refine ⟨fun h => hanswered _ (readItemBody_noContent p h), fun content h => ?_⟩
    have hbody := readItemBody_content p h
    exact ⟨fun hpage => hanswered _ (hbody.trans (if_neg (Nat.not_lt.mpr hpage))),
      fun hpage => hanswered _ (hbody.trans (if_pos hpage))⟩
  · exact ⟨fun c => ⟨_, withIndex_val c _, carries_append (encodeChannel_carries _) (channelLive_carries s c)⟩,
      fun z => ⟨_, withIndex_val z _, carries_append (encodeZone_carries _) (zoneLive_carries s z)⟩,
      fun l => ⟨_, withIndex_val l _, encodeLink_carries _⟩,
      fun b => ⟨_, withIndex_val b _, carries_append (encodeBreaker_carries _) (breakerLive_carries s b)⟩,
      fun u => ⟨_, withIndex_val u _, utItem_carries s u⟩,
      ⟨_, withIndex_val (n := 1) 0 _, lockoutItem_carries s⟩, ⟨_, withIndex_val (n := 1) 0 _, batchItem_carries s⟩,
      ⟨_, withIndex_val (n := 1) 0 _, timeItem_carries s⟩, fun q => ⟨_, withIndex_val q _, portItem_carries s q⟩,
      ⟨_, withIndex_val (n := 1) 0 _, carries_flag1 _⟩, ⟨_, withIndex_val (n := 1) 0 _, storeItem_carries s⟩,
      ⟨_, withIndex_val (n := 1) 0 _, supervisionItem_carries s⟩, itemContent_none s⟩
  · rw [pages_flatten, List.take_of_length_le (by omega)]

end Sys2Proof.Machine
end

section
/-! PROOF. The settings fields of each item, encoded for Read Item and read back from a Write Item (R170, R171, Table 9-5). -/

namespace Sys2Proof.Machine

open Sys2Proof Sys2Proof.Safety

/-! ### Values read back from their codes (R170, R171) -/

theorem toNat_byte_of_lt {x : Nat} (h : x < 256) : (BitVec.ofNat 8 x).toNat = x := Nat.mod_eq_of_lt h

/-- A two-byte number, read most significant byte first (R170). -/
theorem toNat_twoBytes {x : Nat} (h : x < 65536) :
    (BitVec.ofNat 8 (x / 256)).toNat * 256 + (BitVec.ofNat 8 x).toNat = x := by
  simp only [BitVec.toNat_ofNat]; omega

theorem readFlag_code (b : Bool) : readFlag (BitVec.ofNat 8 (if b then 1 else 0)).toNat = some b := by
  cases b <;> rfl

theorem readFin_code {n : Nat} (hn : n ≤ 256) (i : Fin n) : readFin n (BitVec.ofNat 8 i.val).toNat = some i :=
  readFin_val i (toNat_byte_of_lt (by omega))

/-- 0xFF stands for an absent number, and no number below `n` is 0xFF. -/
theorem readOptional_code {n : Nat} (hn : n ≤ 255) (x : Option (Fin n)) :
    readOptional n (BitVec.ofNat 8 ((x.map (·.val)).getD 0xFF)).toNat = some x := by
  cases x with
  | none => rfl
  | some i =>
    have hi : (BitVec.ofNat 8 i.val).toNat = i.val := toNat_byte_of_lt (by omega)
    simp only [Option.map_some, Option.getD_some, readOptional, hi, if_neg (show i.val ≠ 255 by omega),
      readFin_val i rfl]

theorem readRole_code (x : Role) : readRole (BitVec.ofNat 8 x.code).toNat = some x := by cases x <;> rfl

/-- The external source is read back at an INCOMER only (log 11). -/
theorem readSide_code {role : Role} {x : Side} (h : ¬ (role = .coupler ∧ x = .external)) :
    readSide role (BitVec.ofNat 8 x.code).toNat = some x := by
  cases x with
  | external =>
    cases role with
    | incomer => rfl
    | coupler => exact absurd ⟨rfl, rfl⟩ h
  | zone z =>
    have hz : (BitVec.ofNat 8 (Side.zone z).code).toNat = z.val := toNat_byte_of_lt (by simp only [Side.code]; omega)
    rw [hz, readSide, if_neg (by omega), readFin_val z rfl]; rfl

theorem sortedPair_of_le {y z : ZoneId} (h : y ≤ z) : sortedPair y z = (y, z) := if_neg (not_lt.mpr h)

/-! ### The records read back -/

section
variable {r : Request} {a b : Byte} {rest : List Byte}

theorem channelRecord_encodeChannel {x : ChannelRecord} (hr : r.data = a :: b :: (encodeChannel x ++ rest))
    (hta : x.ta < 65536) (hg : x.g < 256) (hm : x.m < 65536) (hk : x.k < 256) (hn : x.n < 256) (href : x.ref < 65536) :
    r.channelRecord = some x := by
  simp [Request.channelRecord, Request.byte2, Request.byte, hr, encodeChannel, flag1, num1, opt1, num2, -BitVec.toNat_ofNat,
    readFlag_code, readFin_code, readOptional_code, toNat_twoBytes, toNat_byte_of_lt, hta, hg, hm, hk, hn, href]

theorem zoneRecord_encodeZone {x : ZoneRecord} (hr : r.data = a :: b :: (encodeZone x ++ rest)) :
    r.zoneRecord = some x := by
  simp [Request.zoneRecord, Request.byte, hr, encodeZone, flag1, num1, -BitVec.toNat_ofNat, readFlag_code]

theorem linkSlot_encodeLink_none (hr : r.data = a :: b :: (encodeLink none ++ rest)) : r.linkSlot = some none := by
  simp [Request.linkSlot, Request.byte, hr, encodeLink, readFlag]

/-- A pair is read back with its lower zone first, in whichever order it was given (R31). -/
theorem linkSlot_encodeLink_pair {y z : ZoneId} (hr : r.data = a :: b :: (encodeLink (some (y, z)) ++ rest)) :
    r.linkSlot = some (some (min y z, max y z)) := by
  have hfilled : r.byte 2 = 1 := by rw [Request.byte, hr]; rfl
  have hlower : readFin 12 (r.byte 3) = some (min y z) := by
    rw [Request.byte, hr]; exact readFin_code (by decide) (min y z)
  have hhigher : readFin 12 (r.byte 4) = some (max y z) := by
    rw [Request.byte, hr]; exact readFin_code (by decide) (max y z)
  rw [Request.linkSlot, hfilled, hlower, hhigher, ← sortedPair_of_le (min_le_max : min y z ≤ max y z)]
  rfl

theorem breakerRecord_encodeBreaker {x : BreakerRecord} (hr : r.data = a :: b :: (encodeBreaker x ++ rest))
    (hbf : x.bfTime < 65536) (hside : ¬ (x.role = .coupler ∧ x.sideA = .external)) : r.breakerRecord = some x := by
  simp [Request.breakerRecord, Request.byte2, Request.byte, hr, encodeBreaker, flag1, num1, opt1, num2, -BitVec.toNat_ofNat,
    readFlag_code, readFin_code, readOptional_code, toNat_twoBytes, readRole_code, readSide_code hside, hbf]

theorem portRecord_encodePort {x : PortRecord} (hr : r.data = a :: b :: (encodePort x ++ rest)) (hp : x.priority < 256)
    (hc : x.ceiling < 256) : r.portRecord = x := by
  simp [Request.portRecord, Request.byte, hr, encodePort, num1, -BitVec.toNat_ofNat, toNat_byte_of_lt, hp, hc]

theorem fastFlag_flag1 {x : Bool} (hr : r.data = a :: b :: (flag1 x ++ rest)) : r.fastFlag = some x := by
  simp [Request.fastFlag, Request.byte, hr, flag1, num1, -BitVec.toNat_ofNat, readFlag_code]

end

/-- Settles O44: record by record, from the values read back from their codes. -/
theorem settingsFieldsRoundTrip : Obligations.SettingsFieldsRoundTrip := by
  intro tag a b rest write
  refine ⟨fun x hta hg hm hk hn href => channelRecord_encodeChannel rfl hta hg hm hk hn href,
    fun x => zoneRecord_encodeZone rfl, linkSlot_encodeLink_none rfl, fun y z hyz => ⟨?_, ?_⟩,
    fun x hbf hside => breakerRecord_encodeBreaker rfl hbf hside, fun x hp hc => portRecord_encodePort rfl hp hc,
    fun x => fastFlag_flag1 rfl⟩
  · rw [linkSlot_encodeLink_pair rfl, min_eq_left hyz, max_eq_right hyz]
  · rw [linkSlot_encodeLink_pair rfl, min_eq_right hyz, max_eq_left hyz]

end Sys2Proof.Machine
end

section
/-! PROOF. Write Item of a port record and of the global record (R167, R171, R176 to R178): no hold condition, and no effect
beside the settings. -/

namespace Sys2Proof.Machine

open Sys2Proof Sys2Proof.Safety

theorem row_writePort {r : Request} (h : r.kind = 0x02#8) (h0 : r.byte 0 = 9) : r.row = .writePort := by
  simp [Request.row, h, h0, writeRow]

theorem row_writeGlobal {r : Request} (h : r.kind = 0x02#8) (h0 : r.byte 0 = 10) : r.row = .writeGlobal := by
  simp [Request.row, h, h0, writeRow]

/-! ### The settings after an accepted write (R178 steps 1 and 3) -/

section
variable {s : State} (hq : QuietOk s)
include hq

theorem writePort_quiet (q : PortId) (x : PortRecord) :
    s.writePort q x = s.setSets (s.workingWritten { s.sets.working with ports := put s.sets.working.ports q x }) :=
  markWritten_quiet (s := s) (u := s.putPortRecord q x) _ hq rfl

theorem writeFast_quiet (f : Bool) :
    s.writeFast f = s.setSets (s.workingWritten { s.sets.working with fast := f }) :=
  markWritten_quiet (s := s) (u := s.putFast f) _ hq rfl

end

/-! ### The checks (R171, R176) -/

/-- The port record written: the request's, clamped (R167). -/
theorem portRecord_clamped (r : Request) :
    r.portRecord.clamped = { priority := min 3 (r.byte 2), ceiling := min 15 (r.byte 3) } := by
  simp [Request.portRecord, PortRecord.clamped, clampTo]

theorem readFlag_of_le {x : Nat} (h : x ≤ 1) : readFlag x = some (decide (x = 1)) := by
  interval_cases x <;> rfl

section
variable (p : PortId) {r : Request} {s : State}

theorem writePortBody_outOfRange (h : 3 ≤ r.byte 1) : writePortBody p r s = (s, .refuse .item) := by
  simp [writePortBody, Nat.not_lt.mpr h]

/-- A port record is taken as it is clamped, whatever its bytes (R167, R176). -/
theorem writePortBody_accepts {q : PortId} (hq : QuietOk s) (h : r.byte 1 = q.val) :
    writePortBody p r s =
      (s.setSets (s.workingWritten { s.sets.working with
          ports := put s.sets.working.ports q { priority := min 3 (r.byte 2), ceiling := min 15 (r.byte 3) } }), {
        code := if r.byte 2 ≤ 3 ∧ r.byte 3 ≤ 15 then .done else .doneClamped
        data := num1 (min 3 (r.byte 2)) ++ num1 (min 15 (r.byte 3)) }) := by
  have hlt : r.byte 1 < 3 := by omega
  have hid : (⟨r.byte 1, hlt⟩ : PortId) = q := Fin.ext h
  have hlook : ∀ x, look (put s.sets.working.ports q x) q = x := fun x => by rw [look_put, if_pos rfl]
  have hcode : (⟨min 3 (r.byte 2), min 15 (r.byte 3)⟩ : PortRecord) = r.portRecord ↔ r.byte 2 ≤ 3 ∧ r.byte 3 ≤ 15 := by
    rw [← portRecord_clamped]; exact port_clamped_iff _
  simp only [writePortBody, hlt, dif_pos, hid, writePort_quiet hq, writeAnswer, beq_iff_eq, State.setSets_sets,
    portRecord_clamped, hcode, State.workingWritten, hlook, encodePort]

theorem writeGlobalBody_outOfRange (h : r.byte 1 ≠ 0) : writeGlobalBody p r s = (s, .refuse .item) := if_neg h

theorem writeGlobalBody_badFlag (h : r.byte 1 = 0) (hf : 2 ≤ r.byte 2) :
    writeGlobalBody p r s = (s, .refuse .value) := by
  rw [writeGlobalBody, if_pos h, Request.fastFlag, (readFlag_none _).mpr hf]

theorem writeGlobalBody_accepts (hq : QuietOk s) (h : r.byte 1 = 0) (hf : r.byte 2 ≤ 1) :
    writeGlobalBody p r s =
      (s.setSets (s.workingWritten { s.sets.working with fast := decide (r.byte 2 = 1) }),
        { code := .done, data := num1 (r.byte 2) }) := by
  have hdata : flag1 (decide (r.byte 2 = 1)) = num1 (r.byte 2) := by
    rw [flag1]; interval_cases r.byte 2 <;> rfl
  rw [writeGlobalBody, if_pos h, Request.fastFlag, readFlag_of_le hf]
  simp only [writeFast_quiet hq, writeAnswer, if_true, State.setSets_sets, State.workingWritten, hdata]

end

/-- Settles O48: the checks of each record, then the working settings replaced. -/
theorem writePortAndGlobal : Obligations.WritePortAndGlobal := by
  intro s p r hs hq hk w changed
  refine ⟨fun h0 => ?_, fun h0 => ?_⟩
  · have hrow := row_writePort hk h0
    exact ⟨fun h => complete_effect hs hrow (writePortBody_outOfRange p h) rfl,
      fun q h => complete_setSets hs hrow (writePortBody_accepts p hq h)⟩
  · have hrow := row_writeGlobal hk h0
    exact ⟨fun h => complete_effect hs hrow (writeGlobalBody_outOfRange p h) rfl,
      fun h hf => complete_effect hs hrow (writeGlobalBody_badFlag p h hf) rfl,
      fun h hf => complete_setSets hs hrow (writeGlobalBody_accepts p hq h hf)⟩

end Sys2Proof.Machine
end

section
/-! PROOF. The settings store (R179 to R181): Commit Settings, the end of a commit by its completion or its timer, and the
committed settings after the next reset (R182, R183). -/

namespace Sys2Proof.Machine

open Sys2Proof Sys2Proof.Safety

theorem row_commitSettings {r : Request} (h : r.kind = 0x40#8) : r.row = .commitSettings := by simp [Request.row, h]

section
variable {s : State}

/-! ### Commit Settings (R179) -/

theorem exec_commitSettings_eq (s : State) :
    exec .commitSettings s = .next (s.complete .commitSettings commitBody) := rfl

theorem commitBody_idle (p : PortId) (r : Request) (h : s.sets.store = .idle) :
    commitBody p r s = (s.setSets { s.sets with
        store := .writing, snapshot := some (s.sets.working, (s.sets.generation + 1) % 65536)
        timer := some (s.now + 800000), writtenSince := false, image := { s.sets.image with erased := true } },
      { code := .done, data := 1#8 :: num2 s.sets.generation }) := by
  rw [commitBody, h]; rfl

theorem commitBody_writing (p : PortId) (r : Request) (h : s.sets.store = .writing) :
    commitBody p r s = (s, .refuse .busy) := by
  rw [commitBody, h]

/-! ### The end of a commit (R180) -/

/-- The image that a completed commit leaves in the store. -/
def committedImage (w : Settings) (g : Nat) : StoredImage :=
  { erased := false, settings := w, generation := g, crc := crc16 (imageBytes w g) }

/-- The settings unit after a completed commit of the settings `w` with generation `g`. -/
def SettingsUnit.committed (x : SettingsUnit) (w : Settings) (g : Nat) : SettingsUnit :=
  { x with
    store := .idle, snapshot := none, timer := none, generation := g, failed := false, dirty := x.dirty && x.writtenSince
    image := committedImage w g }

theorem exec_commitCompletion {w : Settings} {g : Nat} (h : s.sets.snapshot = some (w, g)) :
    exec .commitCompletion s = .next (s.setSets (s.sets.committed w g)) := by
  change execCommitCompletion s = _
  simp only [execCommitCompletion, h, SettingsUnit.committed, committedImage]

theorem exec_commitTimerExpiry (h : s.sets.timer.isSome = true) : exec .commitTimerExpiry s =
    .next (s.setSets { s.sets with store := .idle, snapshot := none, timer := none, failed := true }) := if_pos h

end

/-! ### The stored image (R181) -/

theorem image_valid_iff (i : StoredImage) :
    i.valid = true ↔ i.erased = false ∧ i.crc = crc16 (imageBytes i.settings i.generation) ∧ Buildable i.settings := by
  simp only [StoredImage.valid, Bool.and_eq_true, Bool.not_eq_true', beq_iff_eq, buildable_iff, and_assoc]

/-- The image of a completed commit bears its CRC, so only its settings can make it invalid. -/
theorem committedImage_valid_iff (w : Settings) (g : Nat) : (committedImage w g).valid = true ↔ Buildable w :=
  (image_valid_iff _).trans ⟨fun ⟨_, _, hw⟩ => hw, fun hw => ⟨rfl, rfl, hw⟩⟩

/-- Settles O49: the start by the store's state, the two ends, and when the image is valid. -/
theorem commitWritesSnapshot : Obligations.CommitWritesSnapshot := by
  refine ⟨fun s => ⟨fun p r he hk => ?_, fun w g hw => ⟨?_, exec_commitTimerExpiry⟩⟩, image_valid_iff, crc16_eq⟩
  · have hrow := row_commitSettings hk
    rw [exec_commitSettings_eq]
    refine ⟨fun hs => ?_, fun hs hidle => ?_, fun hs hwriting => ?_⟩
    · exact ⟨_, rfl, complete_mode hs he hrow⟩
    · obtain ⟨t, hexec, hans, hsets, hsame⟩ := complete_setSets ⟨hs, he⟩ hrow (commitBody_idle p r hidle)
      exact ⟨t, hexec, hans, hsets, image_invalid_of_erased (by rw [hsets]), hsame⟩
    · exact complete_effect ⟨hs, he⟩ hrow (commitBody_writing p r hwriting) rfl
  · exact ⟨_, exec_commitCompletion hw, rfl, committedImage_valid_iff w g,
      sameBut_setSets (SameBut.refl _ s) _ (by decide)⟩

/-! ### The committed settings after RESET_N (R182, R183) -/

/-- RESET_N keeps the stored image and the records (R151, R182, R186). -/
theorem exec_resetN_stores {s : State} (hp : s.powered = true) :
    ∃ t, exec .resetN s = .next t ∧ t.powered = true ∧ t.mode = .reset ∧ t.sets.image = s.sets.image ∧ t.ring = s.ring
      ∧ t.nextSeq = s.nextSeq := ⟨_, exec_resetN hp, rfl, rfl, rfl, rfl, rfl⟩

theorem exec_resetEnd {s : State} (hp : s.powered = true) (hm : s.mode = .reset) :
    exec .resetEnd s = .next { s with mode := .loading, loadLimit := some (s.after loadTime) } :=
  if_pos (by simp [hp, hm])

theorem exec_loadingEnd {s : State} (hm : s.mode = .loading) :
    exec .loadingEnd s = .next s.loadSettings.loadLockouts.startBlocks := if_pos hm

/-- What follows the load of the settings keeps the mode, the settings and the records. -/
theorem loadSettings_kept (s : State) :
    SameBut [.channels, .inputs, .zones, .orders, .trips, .ut, .lockout, .batch, .sup, .limits] s.loadSettings
      s.loadSettings.loadLockouts.startBlocks :=
  SameBut.trans ((loadLockouts_same _).mono (by simp)) ((startBlocks_same _).mono (by simp))

/-- A valid image is loaded into PROTECTING, and the records stay (R182, R183). -/
theorem exec_loadingEnd_valid {s : State} (hm : s.mode = .loading) (hv : s.sets.image.valid = true) :
    ∃ t, exec .loadingEnd s = .next t ∧ t.mode = .protecting ∧ t.sets.working = s.sets.image.settings
      ∧ t.sets.generation = s.sets.image.generation ∧ t.sets.dirty = false ∧ t.ring = s.ring
      ∧ t.nextSeq = s.nextSeq := by
  have hload := loadSettings_same s
  have hkept := loadSettings_kept s
  obtain ⟨hmode, hsets⟩ := loadSettings_valid s hv
  rw [← hkept.mode] at hmode
  rw [← hkept.sets] at hsets
  obtain ⟨hworking, hgeneration, hdirty⟩ := hsets
  exact ⟨_, exec_loadingEnd hm, hmode, hworking, hgeneration, hdirty, hkept.ring.trans hload.ring,
    hkept.nextSeq.trans hload.nextSeq⟩

/-- Settles O52: the completion leaves a valid image, the reset keeps it, and the load takes it. -/
theorem committedSettingsReturn : Obligations.CommittedSettingsReturn := by
  intro s w g hp hw hbuildable
  obtain ⟨t2, hreset, hp2, hm2, himage, hring2, hseq2⟩ := exec_resetN_stores (s := s.setSets (s.sets.committed w g)) hp
  have hvalid : t2.sets.image.valid = true := by rw [himage]; exact (committedImage_valid_iff w g).mpr hbuildable
  obtain ⟨t4, hload, hmode, hworking, hgeneration, hdirty, hring, hseq⟩ :=
    exec_loadingEnd_valid (s := { t2 with mode := .loading, loadLimit := some (t2.after loadTime) }) rfl hvalid
  have hsettings : t4.sets.working = w := hworking.trans (congrArg StoredImage.settings himage)
  refine ⟨_, t2, _, t4, exec_commitCompletion hw, hreset, exec_resetEnd hp2 hm2, hload, hmode, ?_, hsettings,
    hgeneration.trans (congrArg StoredImage.generation himage), hdirty, hring.trans hring2, hseq.trans hseq2⟩
  rw [State.inForce, hmode]; exact hsettings

end Sys2Proof.Machine
end

section
/-! PROOF. The state after a reset that empties the record unit, and so the state after power-on reset, meets every
invariant (R182). -/

namespace Sys2Proof.Machine

open Sys2Proof Sys2Proof.Safety

/-! ### The invariants after a reset -/

section
variable (s : State) (n : Nat) (l : List SealedRecord) (q : Nat) (up : Bool)

/-- No breaker is driven, and no lockout word update runs (R62, R102). -/
theorem resetWith_interlocked {P : State → Prop} (h : Interlocked P) : P (s.resetWith n l q up) :=
  h.reset rfl (fun b => by rw [resetWith_trip]; rfl) rfl rfl

/-- No order is active and no zone is ARC (R48, R58). -/
theorem resetWith_orderly {P : State → Prop} (h : Orderly P) : P (s.resetWith n l q up) :=
  h.empty (fun z => by rw [resetWith_zone]; decide) (resetWith_order s n l q up)

theorem resetWith_holdsOk : HoldsOk (s.resetWith n l q up) := HoldsOk.of_atReset rfl

/-- The batch is IDLE and its quiet timer is stopped (R118). -/
theorem resetWith_quietOk : QuietOk (s.resetWith n l q up) := by
  refine ⟨fun h => ?_, fun ⟨h, _⟩ => ?_⟩
  · cases h
  · cases h

/-- The batch has no current channel, and every channel is OFF (R118). -/
theorem resetWith_testingOk : TestingOk (s.resetWith n l q up) := by
  refine ⟨fun c => ⟨fun h => ?_, fun h => ?_⟩, fun h => ?_⟩
  · rw [resetWith_chan] at h; cases h
  · cases h
  · cases h

end

/-- A power-on reset finds nothing to change in the state after power-on reset. -/
theorem reset_eq_resetWith : State.reset = State.reset.resetWith 0 [] 0 true := by
  rw [State.resetWith, State.setCursors, State.enterReset]
  simp only [State.reset, Vector.map_replicate]
  rfl

/-- Settles O54: invariant by invariant, for the state that any power-on reset leaves. -/
theorem resetMeetsInvariants : Obligations.ResetMeetsInvariants := by
  unfold Obligations.ResetMeetsInvariants
  rw [reset_eq_resetWith]
  exact ⟨resetWith_interlocked _ _ _ _ _ interlocked_drivenIsLocked,
    resetWith_interlocked _ _ _ _ _ interlocked_lockoutWordOk, ported_recordsOk.emptied _ _, resetWith_holdsOk _ _ _ _ _,
    ported_portsOk.emptied _ _, resetWith_orderly _ _ _ _ _ orderly_ordersOk,
    resetWith_orderly _ _ _ _ _ orderly_levelBounded, resetWith_quietOk _ _ _ _ _, resetWith_testingOk _ _ _ _ _,
    linksOk_defaults⟩

end Sys2Proof.Machine
end

section
/-! PROOF. A reading of the trip supply, and what two readings make of the supervision state (R187). -/

namespace Sys2Proof.Machine

open Sys2Proof Sys2Proof.Safety

/-! ### A reading against the last one -/

section
variable {x : Supervision} {good : Bool}

theorem read_lastReading (x : Supervision) (good : Bool) : (x.read good).lastReading = some good := rfl

theorem read_supply_of_agreeing (h : x.lastReading = some good) : (x.read good).supply = if good then .ok else .low :=
  if_pos h

theorem read_supply_of_differing (h : x.lastReading ≠ some good) : (x.read good).supply = x.supply := if_neg h

end

/-! ### TRIP_SUPPLY_READING -/

section
variable {s : State}

theorem exec_tripSupplyReading_inService (good : Bool) (h : s.inService = true) :
    exec (.tripSupplyReading good) s = .next { s with sup := s.sup.read good } := if_pos h

theorem exec_tripSupplyReading_notInService (good : Bool) (h : s.inService = false) :
    exec (.tripSupplyReading good) s = .next s := if_neg (ne_true_of_eq_false h)

end

theorem sameBut_sup (s : State) (x : Supervision) : SameBut [.sup] s { s with sup := x } := by simp [SameBut]

/-- Settles O53: in service by whether the reading agrees with the last one, and out of service by the guard. -/
theorem tripSupplyNeedsTwoReadings : Obligations.TripSupplyNeedsTwoReadings := by
  intro s good
  refine ⟨fun hservice => ?_, exec_tripSupplyReading_notInService good⟩
  exact ⟨_, exec_tripSupplyReading_inService good hservice, read_lastReading s.sup good, read_supply_of_agreeing,
    read_supply_of_differing, sameBut_sup s _⟩

end Sys2Proof.Machine
end

section
/-! PROOF. A step over a queue that is not empty. -/

namespace Sys2Proof.Machine

open Sys2Proof

theorem step_of_front {s : State} {c : Instr} {rest : List Instr} (h : s.pending = c :: rest) :
    step s = exec c (s.setPending rest) := by rw [step, h]

/-- Settles O1: the front of the queue is the command put there, and the second setting of the queue replaces the first. -/
theorem stepRunsFrontCommand : Obligations.StepRunsFrontCommand := by
  intro c rest s
  calc step (s.setPending (c :: rest))
      = exec c ((s.setPending (c :: rest)).setPending rest) := step_of_front (State.setPending_pending s (c :: rest))
    _ = exec c (s.setPending rest) := by rw [State.setPending_setPending]

end Sys2Proof.Machine
end

section
/-! PROOF. Every step keeps the test engine's invariants (R118, R124, R134): a channel enters TESTING only as the current
channel of a RUNNING batch and leaves it as that ends, and each event that can change what the quiet timer depends on settles
the timer at its end. -/

namespace Sys2Proof.Machine

open Sys2Proof Sys2Proof.Safety

/-! ### The invariant between events, and within one -/

/-- The invariant within an event, where the quiet timer may still have to be settled: it runs only while the batch is
SUSPENDED with cause LIGHT. -/
structure Engaged (s : State) : Prop where
  testing : TestingOk s
  quiet : s.batch.quietTimer.isSome = true → s.batch.state = .suspended ∧ s.batch.cause = some .light

/-- The invariant between events. -/
def Steady (s : State) : Prop := TestingOk s ∧ QuietOk s

theorem steady_iff (s : State) : Steady s ↔ TestingOk s ∧ QuietOk s := Iff.rfl

theorem Steady.engaged {s : State} (h : Steady s) : Engaged s := by
  obtain ⟨htesting, hquiet⟩ := h
  refine ⟨htesting, fun hq => ?_⟩
  obtain ⟨hstate, hcause, -⟩ := hquiet.mp hq
  exact ⟨hstate, hcause⟩

/-- `TestingOk` reads which channels are in TESTING, and of the batch its state and its current channel. -/
theorem testingOk_congr {s t : State} (h : TestingOk s)
    (hp : ∀ c, (t.chan c).phase = .testing ↔ (s.chan c).phase = .testing) (hc : t.batch.current = s.batch.current)
    (hs : t.batch.state = s.batch.state) : TestingOk t := by
  obtain ⟨hphase, hrunning⟩ := h
  exact ⟨fun c => by rw [hp, hc]; exact hphase c, by rw [hc, hs]; exact hrunning⟩

/-- With no current channel and none in TESTING the batch may be in any state. -/
theorem testingOk_vacant {s : State} (hp : ∀ c, (s.chan c).phase ≠ .testing) (hc : s.batch.current = none) :
    TestingOk s :=
  ⟨fun c => by rw [hc]; exact iff_of_false (hp c) (by simp), by rw [hc]; intro h; cases h⟩

theorem anyBright_congr {s t : State} (h : ∀ z, (t.zone z).prot = (s.zone z).prot) : t.anyBright = s.anyBright := by
  simp only [State.anyBright, Zone.isBright, h]

/-! ### Which transitions of a channel keep it in TESTING or out of it (R5 to R9, R24 to R27) -/

/-- The channel is in TESTING after a transition exactly if it was before it. -/
def TestKept (x y : Channel) : Prop := y.phase = .testing ↔ x.phase = .testing

section
variable {x y : Channel}

theorem testKept_of_phase (h : y.phase = x.phase) : TestKept x y := by rw [TestKept, h]

theorem testKept_of_ne (hx : x.phase ≠ .testing) (hy : y.phase ≠ .testing) : TestKept x y := iff_of_false hy hx

theorem release_phase (x : Channel) (fast : Bool) : (x.release fast).phase ≠ .testing := by
  unfold Channel.release; split <;> simp [Channel.freshWarmup, Channel.toQuiet]

theorem restart_phase (x : Channel) (inUse fast : Bool) : (x.restart inUse fast).phase ≠ .testing := by
  unfold Channel.restart; split <;> simp [Channel.freshWarmup]

theorem testKept_countClear (x : Channel) : TestKept x x.countClear :=
  testKept_of_phase (by unfold Channel.countClear; split <;> rfl)

/-- Forced quiet moves a channel in PICKUP or CONFIRMED only (R25). -/
theorem testKept_forcedQuiet (x : Channel) (fast : Bool) : TestKept x (x.forcedQuiet fast) := by
  unfold Channel.forcedQuiet
  split
  · rename_i hp; exact testKept_of_ne (by simp [hp]) (by simp [Channel.toQuiet])
  · rename_i hp
    refine testKept_of_ne (by simp [hp]) ?_
    split <;> simp [Channel.freshWarmup, Channel.toQuiet]
  all_goals exact testKept_of_phase rfl

theorem okRuns_phase (x : Channel) : x.okRuns.phase = x.phase := by
  unfold Channel.okRuns; split_ifs <;> rfl

theorem quietSample_phase (r : ChannelRecord) (t : Stamp) (v : Nat) (hx : x.phase ≠ .testing) :
    (x.quietSample r t v).phase ≠ .testing := by
  unfold Channel.quietSample
  split_ifs
  · exact hx
  all_goals simp [Channel.startEpisode]

theorem pickupSample_phase (r : ChannelRecord) (v : Nat) (hx : x.phase ≠ .testing) :
    (x.pickupSample r v).phase ≠ .testing := by
  unfold Channel.pickupSample; dsimp only
  split_ifs
  case neg => exact hx
  all_goals simp [Channel.toQuiet]

theorem confirmedSample_phase (r : ChannelRecord) (v : Nat) (hx : x.phase ≠ .testing) :
    (x.confirmedSample r v).phase ≠ .testing := by
  unfold Channel.confirmedSample; dsimp only
  split
  · simp [Channel.toQuiet]
  · exact hx

theorem earlySample_phase (fast : Bool) (v : Nat) (hx : x.phase ≠ .testing) :
    (x.earlySample fast v).phase ≠ .testing := by
  unfold Channel.earlySample
  split
  · exact hx
  · simp [Channel.freshWarmup]

theorem warmupSample_phase (t : Stamp) (v : Nat) (hx : x.phase ≠ .testing) :
    (x.warmupSample t v).phase ≠ .testing := by
  unfold Channel.warmupSample; dsimp only
  split_ifs
  case neg => exact hx
  all_goals simp

/-- The detection takes no channel into TESTING. -/
theorem okDetect_phase (r : ChannelRecord) (fast : Bool) (t : Stamp) (v : Nat) (hx : x.phase ≠ .testing) :
    (x.okDetect r fast t v).phase ≠ .testing := by
  unfold Channel.okDetect
  split
  case h_4 => exact warmupSample_phase t v hx
  case h_5 => exact quietSample_phase r t v hx
  case h_6 => exact pickupSample_phase r v hx
  case h_7 =>
    split
    · exact earlySample_phase fast v hx
    · exact confirmedSample_phase r v hx
  all_goals exact hx

theorem okSample_phase (r : ChannelRecord) (fast : Bool) (t : Stamp) (v : Nat) (hx : x.phase ≠ .testing) :
    (x.okSample r fast t v).phase ≠ .testing := by
  have hruns : x.okRuns.phase ≠ .testing := by rw [okRuns_phase]; exact hx
  unfold Channel.okSample
  split
  · unfold Channel.recover
    split
    · simp [Channel.freshWarmup]
    · exact hruns
  · exact okDetect_phase r fast t v hruns

theorem nonOkDetect_phase (fast : Bool) (hx : x.phase ≠ .testing) : (x.nonOkDetect fast).phase ≠ .testing := by
  unfold Channel.nonOkDetect
  split
  case h_4 => simp [Channel.freshWarmup]
  case h_6 => simp [Channel.toQuiet]
  case h_7 => split <;> simp [Channel.freshWarmup, Channel.toQuiet]
  all_goals exact hx

/-- A non-OK sample takes no channel into TESTING (R6, R7). -/
theorem nonOkSample_phase (fast : Bool) (hx : x.phase ≠ .testing) : (x.nonOkSample fast).phase ≠ .testing := by
  have hdetect := nonOkDetect_phase fast hx
  unfold Channel.nonOkSample Channel.nonOkRuns
  split
  · exact hdetect
  · split
    · exact hdetect
    · split
      · simp [Channel.faultLine]
      · exact hdetect

/-- A non-OK sample of a channel under test is counted, and as the 200th of its run it faults the line (R7). -/
theorem nonOkSample_testing (fast : Bool) (hx : x.phase = .testing) :
    x.nonOkSample fast =
      if x.nonOkRun + 1 = nonOkRunLimit then x.faultLine else { x with nonOkRun := x.nonOkRun + 1 } := by
  simp [Channel.nonOkSample, Channel.nonOkDetect, Channel.nonOkRuns, Channel.lineFaulted, hx]

end

end Sys2Proof.Machine

/-! ### The invariant under what an event does -/

namespace Sys2Proof.Machine.Engaged

open Sys2Proof Sys2Proof.Safety

variable {s : State} (h : Engaged s)
include h

/-- The channel under test is the current one, of a RUNNING batch. -/
theorem current {c : ChanId} (hc : (s.chan c).phase = .testing) : s.batch.current = some c := by
  obtain ⟨hphase, -⟩ := h.testing
  exact (hphase c).mp hc

theorem phase {c : ChanId} (hc : s.batch.current = some c) : (s.chan c).phase = .testing := by
  obtain ⟨hphase, -⟩ := h.testing
  exact (hphase c).mpr hc

theorem running {c : ChanId} (hc : s.batch.current = some c) : s.batch.state = .running := by
  obtain ⟨-, hrunning⟩ := h.testing
  exact hrunning (by rw [hc]; rfl)

/-- A batch that is not RUNNING has no current channel. -/
theorem current_none (hs : s.batch.state ≠ .running) : s.batch.current = none := by
  refine Option.not_isSome_iff_eq_none.mp fun hc => hs ?_
  obtain ⟨-, hrunning⟩ := h.testing
  exact hrunning hc

/-- With no current channel none is in TESTING. -/
theorem phase_ne (hn : s.batch.current = none) (c : ChanId) : (s.chan c).phase ≠ .testing := fun hc => by
  have hcur := h.current hc
  rw [hn] at hcur; cases hcur

/-- A batch that is not SUSPENDED has its quiet timer stopped. -/
theorem quietTimer_none (hs : s.batch.state ≠ .suspended) : s.batch.quietTimer = none :=
  Option.not_isSome_iff_eq_none.mp fun hq => by
    obtain ⟨hsuspended, -⟩ := h.quiet hq
    exact hs hsuspended

/-- The quiet timer settled at the event's end (R134). -/
theorem settled : Steady s.settleQuiet := by
  refine ⟨testingOk_congr h.testing (fun c => by rw [settleQuiet_chan]) ?_ ?_, quietOk_settleQuiet s fun hn => ?_⟩
  · rw [settleQuiet_batch]
  · rw [settleQuiet_batch]
  · exact Option.not_isSome_iff_eq_none.mp fun hq => hn (h.quiet hq)

theorem of_eq {t : State} (hc : t.channels = s.channels) (hb : t.batch = s.batch) : Engaged t := by
  refine ⟨testingOk_congr h.testing (fun c => by rw [State.chan, hc]; exact Iff.rfl) (by rw [hb]) (by rw [hb]), ?_⟩
  rw [hb]; exact h.quiet

theorem same {ps : List Part} {t : State} (k : SameBut ps s t) (hc : Part.channels ∉ ps := by decide)
    (hb : Part.batch ∉ ps := by decide) : Engaged t := h.of_eq (k.channels hc) (k.batch hb)

theorem setChan {c : ChanId} {x : Channel} (hx : TestKept (s.chan c) x) : Engaged (s.setChan c x) := by
  refine ⟨testingOk_congr h.testing (fun d => ?_) rfl rfl, h.quiet⟩
  rw [State.setChan_chan]; split
  · rename_i hd; rw [← hd]; exact hx
  · exact Iff.rfl

/-- The batch changes, but not its state, its cause, its current channel and the quiet timer. -/
theorem setBatch {b : Batch} (hs : b.state = s.batch.state) (hk : b.cause = s.batch.cause)
    (hc : b.current = s.batch.current) (hq : b.quietTimer = s.batch.quietTimer) : Engaged (s.setBatch b) := by
  refine ⟨testingOk_congr h.testing (fun _ => Iff.rfl) hc hs, ?_⟩
  rw [State.setBatch_batch, hs, hk, hq]; exact h.quiet

/-- A batch without a current channel goes to a state, with the quiet timer stopped. -/
theorem setBatch_vacant {b : Batch} (hn : s.batch.current = none) (hc : b.current = none) (hq : b.quietTimer = none) :
    Engaged (s.setBatch b) := by
  refine ⟨testingOk_vacant (h.phase_ne hn) hc, ?_⟩
  rw [State.setBatch_batch, hq]; intro hsome; cases hsome

theorem setSets (x : SettingsUnit) : Engaged (s.setSets x) := h.of_eq rfl rfl

theorem setZone (z : ZoneId) (x : Zone) : Engaged (s.setZone z x) := h.of_eq rfl rfl

theorem setOrder (o : SlotId) (x : Option Order) : Engaged (s.setOrder o x) := h.of_eq rfl rfl

theorem setTrip (b : BreakerId) (x : Trip) : Engaged (s.setTrip b x) := h.of_eq rfl rfl

theorem setUt (u : UtId) (x : UtLine) : Engaged (s.setUt u x) := h.of_eq rfl rfl

theorem sealed (b : RecordBody) : Engaged (s.seal b) := h.same (seal_same s b)

theorem modifyOrder (o : SlotId) (f : Order → Order) : Engaged (s.modifyOrder o f) := h.same (modifyOrder_same s o f)

/-! ### Suspension by light, and entries to the protection states (R131, R133) -/

/-- A suspension of an active batch: the current channel is released from TESTING. -/
theorem suspend {k : SuspendCause} (hs : s.batch.state ≠ .suspended) : Engaged (s.suspend k) := by
  refine ⟨testingOk_vacant (fun c => ?_) (by rw [suspend_batch]), ?_⟩
  · rw [suspend_chan]; split
    · exact release_phase _ _
    · rename_i hc; exact mt h.current hc
  · rw [suspend_batch]; dsimp only
    rw [h.quietTimer_none hs]; intro hsome; cases hsome

theorem noteLit (z : ZoneId) : Engaged (s.noteLit z) := by
  by_cases hl : LitSuspends s z
  · rw [noteLit_suspends hl]
    refine h.suspend fun hs => ?_
    rcases hl with hg | ⟨hr, -⟩
    · rw [hg] at hs; cases hs
    · rw [hr] at hs; cases hs
  · rw [noteLit_keeps hl]; exact h

theorem noteArc : Engaged s.noteArc := by
  unfold State.noteArc; split
  · rename_i hs; exact h.suspend (by rw [hs]; decide)
  · rename_i hs; exact h.suspend (by rw [hs]; decide)
  all_goals exact h

theorem countClear (z : ZoneId) : Engaged (s.countClear z) :=
  holds_foldl (f := fun s c => s.setChan c (s.chan c).countClear) h (fun _ hs => hs.setChan (testKept_countClear _))
    (s.watchers z)

theorem enterDark (z : ZoneId) : Engaged (s.enterDark z) := h.setZone z _

theorem enterLit (z : ZoneId) : Engaged (s.enterLit z) := (h.setZone z _).noteLit z

theorem enterHeld (z : ZoneId) : Engaged (s.enterHeld z) := (h.setZone z _).countClear z

theorem enterArc (z : ZoneId) (o : SlotId) : Engaged (s.enterArc z o) := (h.setZone z _).noteArc

/-! ### Resolution and close (R69 to R71) -/

theorem leaveArc (z : ZoneId) : Engaged (s.leaveArc z) := by
  unfold State.leaveArc; split
  · exact h.enterHeld z
  · split
    · exact h.enterDark z
    · exact h.enterLit z

theorem closeOrder (o : SlotId) : Engaged (s.closeOrder o) := by
  unfold State.closeOrder; split
  · exact h
  · rename_i x _
    have hclaims := holds_foldl h (f := fun s u => s.withdrawClaim o u) (fun _ hs => hs.setUt _ _) x.ut.members
    have hsealed := hclaims.sealed (.arc ((x.ut.members.foldl (fun s u => s.withdrawClaim o u) s).arcRecord o x))
    have hdemands := holds_foldl hsealed
      (f := fun s (e : Entry) => s.dropDemand o e.breaker) (fun {s} e hs => hs.setTrip e.breaker _) x.entries
    exact (holds_foldl hdemands (fun z hs => hs.leaveArc z) x.zones).setOrder o none

theorem testResolved (o : SlotId) : Engaged (s.testResolved o) := by
  unfold State.testResolved; split
  · exact h
  · split
    · dsimp only; split
      · exact (h.setOrder o _).closeOrder o
      · exact (h.setOrder o _).setOrder o _
    · exact h

theorem testDarkClose (o : SlotId) : Engaged (s.testDarkClose o) := by
  unfold State.testDarkClose; split
  · exact h
  · split
    · exact h.closeOrder o
    · exact h

theorem writeOutcome (b : BreakerId) (v : BreakerOutcome) (o : SlotId) : Engaged (s.writeOutcome b v o) :=
  (h.modifyOrder o _).testResolved o

theorem writeOutcomes (b : BreakerId) (v : BreakerOutcome) : Engaged (s.writeOutcomes b v) :=
  holds_foldl h (fun o hs => hs.writeOutcome b v o) (s.trip b).demands.members

/-! ### Demands and escalation (R74, R80, R86) -/

theorem demand (o : SlotId) (b : BreakerId) : Engaged (s.demand o b).1 := by
  have hadd : Engaged (s.addDemand o b) := h.setTrip b _
  have hdrive : Engaged ((s.addDemand o b).drive b) := hadd.setTrip b _
  have hlock : Engaged (((s.addDemand o b).drive b).lock b) := hdrive.of_eq (lock_channels _ b) (lock_batch _ b)
  unfold State.demand; dsimp only
  split
  · exact hlock.same (clearOutcomes_same _ b)
  · exact hadd
  · exact hadd.writeOutcome b _ o
  · exact hadd.same (escalate_same _ o b)
  · split
    · exact hadd.writeOutcome b _ o
    · exact hdrive.same (clearOutcomes_same _ b)
  · exact (hadd.same (escalate_same _ o b)).writeOutcome b _ o

theorem demandAll (o : SlotId) (q : List BreakerId) : Engaged (s.demandAll o q).1 := by
  induction q generalizing s with
  | nil => exact h
  | cons b bs ih => exact ih (h.demand o b)

theorem runQueue (o : SlotId) (n : Nat) (q : List BreakerId) : Engaged (s.runQueue o n q) := by
  induction n generalizing s q with
  | zero => exact h.demandAll o q
  | succ n ih =>
    unfold State.runQueue; dsimp only
    split
    · exact h.demandAll o q
    · exact ih (h.demandAll o q) _

theorem demandQueue (o : SlotId) (q : List BreakerId) : Engaged (s.demandQueue o q) := h.runQueue o 2 q

theorem demandMissing (o : SlotId) : Engaged (s.demandMissing o) := by
  unfold State.demandMissing; split
  · exact h
  · exact (h.setOrder o _).demandQueue o _

theorem closeOnto (b : BreakerId) (o : SlotId) : Engaged (s.closeOnto b o) := by
  unfold State.closeOnto; split
  · exact h
  · split
    · exact (h.setOrder o _).demandQueue o _
    · exact h

/-! ### The evaluation of a LIT zone (R55 to R59) -/

theorem createOrder (z : ZoneId) (trip : List BreakerId) : Engaged (s.createOrder z trip) := by
  unfold State.createOrder; split
  · exact h
  · exact ((h.setOrder _ _).enterArc z _).demandQueue _ _

theorem joinOrder (z : ZoneId) (o : SlotId) : Engaged (s.joinOrder z o) := by
  unfold State.joinOrder; split
  · exact h
  · dsimp only; split
    · exact (h.setOrder o _).enterArc z o
    · exact ((h.setOrder o _).enterArc z o).demandQueue o _

theorem noSource (z : ZoneId) : Engaged (s.noSource z) := by
  unfold State.noSource; split
  · exact h
  · exact (h.sealed _).setZone z _

theorem evaluate (z : ZoneId) : Engaged (s.evaluate z) := by
  unfold State.evaluate; split
  · split
    · split
      · exact h.noSource z
      · split
        · exact h.joinOrder z _
        · exact h.createOrder z _
    · exact h
  · exact h

theorem evaluateWhere (p : State → ZoneId → Bool) : Engaged (s.evaluateWhere p) :=
  holds_foldl h (fun z hs => by
    split
    · exact hs.evaluate z
    · exact hs) (ids 12)

/-! ### Reports of channels (R22, R49 to R51, R110) -/

theorem confirmedAt (c : ChanId) (z : ZoneId) : Engaged (s.confirmedAt c z) := by
  unfold State.confirmedAt; split
  · exact (h.enterLit z).evaluate z
  · exact h
  · split
    · exact h
    · exact h.modifyOrder _ _
  · split
    · exact h
    · exact (h.sealed _).setZone z _

theorem confirmReport (c : ChanId) (z : ZoneId) : Engaged (s.confirmReport c z) := by
  unfold State.confirmReport; split
  · exact h
  · dsimp only; split
    · exact (h.setZone z _).confirmedAt c z
    · exact h.setZone z _

theorem darkenedAt (z : ZoneId) : Engaged (s.darkenedAt z) := by
  unfold State.darkenedAt; split
  · exact h.enterDark z
  · split
    · exact h
    · exact h.testDarkClose _
  all_goals exact h

theorem dropReport (c : ChanId) (z : ZoneId) : Engaged (s.dropReport c z) := by
  unfold State.dropReport; split
  · dsimp only; split
    · exact (h.setZone z _).darkenedAt z
    · exact h.setZone z _
  · exact h

theorem putChannel {c : ChanId} (zs : List ZoneId) {x : Channel} (hx : TestKept (s.chan c) x) :
    Engaged (s.putChannel c zs x) := by
  unfold State.putChannel; dsimp only; split
  · exact holds_foldl (h.setChan hx) (fun z hs => hs.confirmReport c z) zs
  · split
    · exact holds_foldl (h.setChan hx) (fun z hs => hs.dropReport c z) zs
    · exact h.setChan hx

/-! ### Reports and timers of breakers (R37, R42, R64 to R68, R74 to R77, R84) -/

theorem tripReport (b : BreakerId) : Engaged (s.tripReport b) := by
  have hopened : Engaged (s.breakerOpened b) := (h.setTrip b _).writeOutcomes b _
  unfold State.tripReport; split
  · split
    · exact hopened
    · exact h
  · split
    · exact hopened
    · exact h
  · split
    · exact h
    · exact (h.setTrip b _).same (clearOutcomes_same _ b)
  all_goals exact h

theorem leftOpen (b : BreakerId) : Engaged (s.leftOpen b) := by
  unfold State.leftOpen; dsimp only
  refine evaluateWhere ?_ _
  split
  · exact holds_foldl (f := fun s o => s.closeOnto b o) h (fun o hs => hs.closeOnto b o) (ids 12)
  · exact h

theorem currentSettled (b : BreakerId) : Engaged (s.currentSettled b) := by
  have hset : Engaged (s.setInput b (s.currentTaken b)) := h.of_eq rfl rfl
  rw [currentSettled_eq]
  split
  · exact hset
  · split
    · exact (hset.evaluateWhere _).tripReport b
    · exact hset.tripReport b

theorem positionSettled (b : BreakerId) : Engaged (s.positionSettled b) := by
  have hmoved : Engaged (s.positionMoved b) := h.same (positionMoved_same s b)
  rw [positionSettled_eq]
  split
  · exact h.of_eq rfl rfl
  · split
    · exact (hmoved.tripReport b).leftOpen b
    · exact hmoved.tripReport b

theorem breakerFailed (b : BreakerId) : Engaged (s.breakerFailed b) := by
  have hfailed : Engaged (s.failBreaker b) := h.setTrip b _
  exact holds_foldl hfailed (fun o hs => (hs.same (escalate_same _ o b)).demandQueue o _) (s.trip b).demands.members

theorem breakerSpent (b : BreakerId) : Engaged (s.breakerSpent b) := (h.setTrip b _).writeOutcomes b _

theorem utMinimumEnded (u : UtId) : Engaged (s.utMinimumEnded u) := by
  have htested := holds_foldl (h.setUt u { s.utLine u with minimum := .runOut }) (f := fun s o => s.testResolved o)
    (fun o hs => hs.testResolved o) (s.utLine u).claims.members
  unfold State.utMinimumEnded State.releaseIfFree; dsimp only
  split
  · exact htested.setUt u _
  · exact htested

/-! ### The running order (R121, R124, R129, R130, R136) -/

/-- A RUNNING batch between two tests takes up its next channel, or is IDLE. -/
theorem takeUp (hr : s.batch.state = .running) (hn : s.batch.current = none) : Engaged s.takeUp := by
  have hstopped := h.quietTimer_none (by rw [hr]; decide)
  have hout := h.phase_ne hn
  obtain ⟨-, hidle, hnext⟩ := takeUp_spec s
  rcases takeUp_or s with hnone | ⟨c, hpending, hpasses, hfirst⟩
  · obtain ⟨hbatch, hsame⟩ := hidle hnone
    refine ⟨testingOk_vacant (fun c => by rw [hsame.chan]; exact hout c) (by rw [hbatch]; exact hn), ?_⟩
    rw [hbatch]; dsimp only
    rw [hstopped]; intro hsome; cases hsome
  · obtain ⟨hbatch, hchan, hothers, -, -⟩ := hnext c hpending hpasses hfirst
    refine ⟨⟨fun d => ?_, fun _ => by rw [hbatch]; exact hr⟩, ?_⟩
    · rw [hbatch]; dsimp only
      by_cases hd : d = c
      · subst hd; rw [hchan]; exact iff_of_true rfl rfl
      · rw [hothers d hd]
        exact iff_of_false (hout d) fun he => hd (Option.some.inj he).symm
    · rw [hbatch]; dsimp only
      rw [hstopped]; intro hsome; cases hsome

/-- The test of the current channel `c` ends, as seen from the state before the channel left TESTING. -/
theorem testEnded_takeUp {u : State} {c : ChanId} (hc : s.batch.current = some c) (r : TestResult)
    (hb : u.batch = s.batch) (hu : (u.chan c).phase ≠ .testing) (ho : OnlyChan s u c) :
    Engaged (u.testEnded c r).takeUp := by
  obtain ⟨-, -, hbatch⟩ := testEnded_batch (s := s) (w := u) (by rw [hb]) c r
  have hr := h.running hc
  have hcur : (u.testEnded c r).batch.current = none := by rw [hbatch]; rfl
  have hended : Engaged (u.testEnded c r) := by
    refine ⟨testingOk_vacant (fun d => ?_) hcur, ?_⟩
    · rw [(testEnded_same u c r).chan d]
      by_cases hd : d = c
      · rw [hd]; exact hu
      · rw [ho d hd]
        exact fun hp => hd (Option.some.inj ((h.current hp).symm.trans hc))
    · rw [hbatch]; exact h.quiet
  exact hended.takeUp (by rw [hbatch]; exact hr) hcur

theorem giveVerdict {c : ChanId} (hc : s.batch.current = some c) (v : Verdict) (r : Nat) :
    Engaged (s.giveVerdict c v r) := by
  rw [giveVerdict_eq]
  refine h.testEnded_takeUp hc _ (verdictReleased_batch s c v r) ?_ (verdictReleased_onlyChan s c v r)
  by_cases hv : v = .fail ∨ v = .stuck
  · obtain ⟨hchan, -⟩ := verdictReleased_fault (s := s) (c := c) (r := r) hv
    rw [hchan]; simp
  · obtain ⟨hchan, -⟩ := verdictReleased_released (s := s) (c := c) (r := r) hv
    rw [hchan]; exact release_phase (s.chan c) _

theorem darkVerdict {c : ChanId} (hc : s.batch.current = some c) : Engaged (s.darkVerdict c) := by
  rw [darkVerdict_eq]
  have hwritten := referenceWritten_same s c (s.testResponse c)
    (darkVerdictOf s.batch.learn (s.testResponse c) (s.reference c))
  exact (h.same hwritten).giveVerdict (by rw [hwritten.batch]; exact hc) _ _

theorem resume (hs : s.batch.state = .suspended) : Engaged s.resume := by
  have hn := h.current_none (by rw [hs]; decide)
  have hset : Engaged (s.setBatch { s.batch with state := .running, cause := none, quietTimer := none }) :=
    h.setBatch_vacant hn hn rfl
  exact hset.takeUp rfl hn

theorem windowEnded (hs : s.batch.state = .gathering) : Engaged s.windowEnded := by
  have hn := h.current_none (by rw [hs]; decide)
  have hstopped := h.quietTimer_none (by rw [hs]; decide)
  have hrunning : Engaged (s.setBatch { s.batch with
      state := .running, gatherStart := none, windowExpiry := none, windowLimit := none }) :=
    h.setBatch_vacant hn hn hstopped
  unfold State.windowEnded; dsimp only; split
  · exact h.setBatch_vacant hn hn hstopped
  · exact hrunning.takeUp rfl hn

/-! ### Samples (R5 to R9, R125, R126) -/

theorem testSample (c : ChanId) (v : Nat) : Engaged (s.testSample c v) := by
  have hsecond : Engaged (s.setBatch { s.batch with darkenCount := s.batch.darkenCount + 1, darkenTimer := none }) :=
    h.setBatch rfl rfl rfl rfl
  unfold State.testSample; dsimp only
  split
  · rename_i hc
    split
    · split
      · exact h
      · split <;> exact h.setBatch rfl rfl rfl rfl
    · split
      · split
        · exact hsecond.darkVerdict hc
        · exact h.setBatch rfl rfl rfl rfl
      · exact h.setBatch rfl rfl rfl rfl
    · exact h
  · exact h

theorem okArrival (c : ChanId) (v : Nat) : Engaged (s.okArrival c v) := by
  unfold State.okArrival; dsimp only; split
  · exact (h.setChan (testKept_of_phase (okRuns_phase _))).testSample c v
  · rename_i hp; exact h.putChannel _ (testKept_of_ne hp (okSample_phase _ _ _ _ hp))

/-- A channel under test stays in it, but for the 200th non-OK sample of a run: then its test ends (R130). -/
theorem nonOkArrival (c : ChanId) : Engaged (s.nonOkArrival c) := by
  by_cases hp : (s.chan c).phase = .testing
  · have hput : ∀ {y : Channel}, y.phase ≠ .confirmed →
        s.putChannel c (s.chanRec c).zones y = s.setChan c y := fun hy =>
      putChannel_setChan (by simp [Channel.isConfirmed, hp, hy])
    unfold State.nonOkArrival; dsimp only
    rw [nonOkSample_testing _ hp]
    by_cases hlimit : (s.chan c).nonOkRun + 1 = nonOkRunLimit
    · have hentered : (s.chan c).enteredLineFault (s.chan c).faultLine = true := by
        simp [Channel.enteredLineFault, Channel.lineFaulted, hp, Channel.faultLine]
      rw [if_pos hlimit, hput (by simp [Channel.faultLine]), if_pos hentered, if_pos hp]
      have hc := h.current hp
      have hsame := seal_same (s.setChan c (s.chan c).faultLine) (.channelFault c .line none)
      rw [channelTaken_eq (by rw [hsame.batch]; exact hc)]
      refine h.testEnded_takeUp hc _ hsame.batch ?_ fun d hd => ?_
      · rw [hsame.chan]; simp [Channel.faultLine]
      · rw [hsame.chan]; simp [Ne.symm hd]
    · have hstays : (s.chan c).enteredLineFault { s.chan c with nonOkRun := (s.chan c).nonOkRun + 1 } = false := by
        simp [Channel.enteredLineFault, Channel.lineFaulted, hp]
      rw [if_neg hlimit, hput (by simp [hp]), hstays]
      exact h.setChan (testKept_of_phase rfl)
  · have hput := h.putChannel (s.chanRec c).zones (testKept_of_ne hp (nonOkSample_phase s.inForce.fast hp))
    unfold State.nonOkArrival; dsimp only
    rw [if_neg hp]
    split
    · exact hput.sealed _
    · exact hput

/-! ### Holds (R107, R108, R113) -/

theorem placeHold (z : ZoneId) (p : PortId) (e : Nat) : Engaged (s.placeHold z p e) := by
  have hset : Engaged (s.setHold z p (some e)) := h.setZone z _
  unfold State.placeHold State.acknowledgeHold; dsimp only
  split
  · exact hset
  · split
    · exact hset.enterHeld z
    · exact hset.enterHeld z
    all_goals exact hset

theorem holdsEnded (z : ZoneId) : Engaged (s.holdsEnded z) := by
  unfold State.holdsEnded; split
  · exact holds_foldl (h.enterDark z) (fun c hs => hs.putChannel _ (testKept_forcedQuiet _ _)) (s.watchers z)
  all_goals exact h

theorem expireZone (e : Nat) (z : ZoneId) : Engaged (s.expireZone e z) := by
  have hgone := holds_foldl h (f := fun s p => s.expireEntry z p) (fun _ hs => (hs.setZone z _).sealed _)
    ((ids 3).filter (fun p => s.holdOf z p == some e))
  unfold State.expireZone; dsimp only; split
  · exact h
  · split
    · exact hgone
    · exact hgone.holdsEnded z

/-! ### Settings writes (R3, R130, R178) -/

/-- A restart ends the test of a channel under test (R3, R130). -/
theorem restartChannel (c : ChanId) (zs : List ZoneId) : Engaged (s.restartChannel c zs) := by
  have hout := restart_phase (s.chan c) (s.chanRec c).inUse s.inForce.fast
  unfold State.restartChannel; dsimp only
  split
  · rename_i hp
    have hc := h.current hp
    rw [putChannel_setChan (by unfold Channel.restart; split <;> simp [Channel.isConfirmed, Channel.freshWarmup, hp]),
      channelTaken_eq (s := s.setChan c _) hc]
    refine h.testEnded_takeUp hc _ rfl ?_ fun d hd => ?_
    · rw [State.setChan_chan, if_pos rfl]; exact hout
    · rw [State.setChan_chan, if_neg (Ne.symm hd)]
  · rename_i hp; exact h.putChannel zs (testKept_of_ne hp hout)

theorem mapWritten : Engaged s.mapWritten := by
  have hdemanded := holds_foldl h (f := fun s o => s.demandMissing o) (fun o hs => hs.demandMissing o) (ids 12)
  exact hdemanded.evaluateWhere _

theorem zoneEntersUse (z : ZoneId) : Engaged (s.zoneEntersUse z) := by
  unfold State.zoneEntersUse; split
  · exact (h.enterLit z).evaluate z
  · exact h

theorem markWritten : Steady s.markWritten := (h.setSets _).settled

theorem writeChannel (c : ChanId) (r : ChannelRecord) : Steady (s.writeChannel c r) :=
  ((h.setSets _).restartChannel c _).markWritten

theorem writeZone (z : ZoneId) (x : ZoneRecord) : Steady (s.writeZone z x) := by
  have hput : Engaged (s.putZoneRecord z x) := h.setSets _
  refine markWritten (holds_inProtecting hput (mapWritten ?_))
  split
  · exact hput.zoneEntersUse z
  · exact hput

theorem writeLink (l : LinkId) (x : Option (ZoneId × ZoneId)) : Steady (s.writeLink l x) :=
  (holds_inProtecting (h.setSets _) (h.setSets _).mapWritten).markWritten

theorem writeBreaker (b : BreakerId) (x : BreakerRecord) : Steady (s.writeBreaker b x) := by
  have hput : Engaged (s.putBreakerRecord b x) := h.setSets _
  exact markWritten (holds_inProtecting hput (mapWritten (hput.same (superviseBreaker_same ..))))

end Sys2Proof.Machine.Engaged

/-! ### The invariant between events under what a step does -/

namespace Sys2Proof.Machine.Steady

open Sys2Proof Sys2Proof.Safety

variable {s : State} (h : Steady s)
include h

theorem of_eq {t : State} (hc : t.channels = s.channels) (hb : t.batch = s.batch)
    (hz : ∀ z, (t.zone z).prot = (s.zone z).prot) : Steady t := by
  obtain ⟨-, hquiet⟩ := (steady_iff s).mp h
  obtain ⟨htesting, -⟩ := h.engaged.of_eq hc hb
  exact ⟨htesting, hquiet.of_eq hb (anyBright_congr hz)⟩

theorem same {ps : List Part} {t : State} (k : SameBut ps s t) (hc : Part.channels ∉ ps := by decide)
    (hb : Part.batch ∉ ps := by decide) (hz : Part.zones ∉ ps := by decide) : Steady t :=
  h.of_eq (k.channels hc) (k.batch hb) fun z => by rw [k.zone z hz]

/-- A zone changes, but not its protection state. -/
theorem setZone {z : ZoneId} {x : Zone} (hx : x.prot = (s.zone z).prot) : Steady (s.setZone z x) :=
  h.of_eq rfl rfl fun y => by
    rw [State.setZone_zone]; split
    · rename_i hy; rw [← hy, hx]
    · rfl

/-- The batch changes, but not its state, its cause, its current channel and the quiet timer. -/
theorem setBatch {b : Batch} (hs : b.state = s.batch.state) (hk : b.cause = s.batch.cause)
    (hc : b.current = s.batch.current) (hq : b.quietTimer = s.batch.quietTimer) : Steady (s.setBatch b) := by
  obtain ⟨-, hquiet⟩ := (steady_iff s).mp h
  obtain ⟨htesting, -⟩ := h.engaged.setBatch hs hk hc hq
  exact ⟨htesting, quietOk_congr hquiet hs hk hq rfl⟩

/-- A batch without a current channel goes to a state in which the quiet timer is to be stopped, as it is. -/
theorem setBatch_stopped {b : Batch} (hn : s.batch.current = none) (hc : b.current = none) (hq : b.quietTimer = none)
    (hs : ¬ (b.state = .suspended ∧ b.cause = some .light ∧ s.anyBright = false)) : Steady (s.setBatch b) := by
  obtain ⟨htesting, -⟩ := h.engaged.setBatch_vacant hn hc hq
  refine ⟨htesting, iff_of_false ?_ hs⟩
  rw [State.setBatch_batch, hq]; decide

theorem setPort (p : PortId) (x : Port) : Steady (s.setPort p x) := h.of_eq rfl rfl fun _ => rfl

theorem lightAlarm (z : ZoneId) : Steady (s.lightAlarm z) := by
  have hset : Steady (s.setZone z { s.zone z with alarmTimer := none }) := h.setZone rfl
  unfold State.lightAlarm; dsimp only; split
  · exact hset
  · exact (hset.same (seal_same _ _)).setZone rfl

theorem freeHold (z : ZoneId) (p : PortId) : Steady (s.freeHold z p) := by
  have hset : Steady (s.setHold z p none) := h.setZone rfl
  unfold State.freeHold; split
  · exact h
  · dsimp only; split
    · exact hset
    · exact (hset.engaged.holdsEnded z).settled

/-! ### The test batch's requests (R119, R132, R135) -/

/-- An IDLE batch opens, and a GATHERING one takes more channels: neither has a current channel or a quiet timer. -/
theorem testChannels (p : PortId) (r : Request) : Steady (testChannelsBody p r s).1 := by
  unfold testChannelsBody; dsimp only
  split
  · exact h
  · split
    · rename_i hidle
      have hne : s.batch.state ≠ .running ∧ s.batch.state ≠ .suspended := by rw [hidle]; decide
      obtain ⟨hrun, hsusp⟩ := hne
      have hn := h.engaged.current_none hrun
      exact h.setBatch_stopped hn hn (h.engaged.quietTimer_none hsusp) (by simp)
    · split
      · exact h.setBatch rfl rfl rfl rfl
      · exact h
    all_goals exact h

/-- Suspended by request, the batch has its quiet timer stopped (R132). -/
theorem suspendTest (p : PortId) (r : Request) : Steady (suspendBody p r s).1 := by
  have hactive : s.batch.state ≠ .suspended → Steady (s.suspend .request) := fun hs => by
    obtain ⟨htesting, -⟩ := h.engaged.suspend (k := .request) hs
    refine ⟨htesting, iff_of_false ?_ ?_⟩
    · rw [suspend_batch]; dsimp only
      rw [h.engaged.quietTimer_none hs]; decide
    · rw [suspend_batch]; simp
  unfold suspendBody
  split
  · exact h
  · rename_i hs; exact hactive (by rw [hs]; decide)
  · rename_i hs; exact hactive (by rw [hs]; decide)
  · rename_i hs
    have hn := h.engaged.current_none (by rw [hs]; decide)
    exact h.setBatch_stopped hn hn rfl (by simp)

/-- On a bright board the cause becomes LIGHT with the quiet timer stopped, on a dark one the batch resumes (R135). -/
theorem resumeTest (p : PortId) (r : Request) : Steady (resumeBody p r s).1 := by
  unfold resumeBody
  split
  · exact h
  · exact h
  · exact h
  · rename_i hs
    split
    · rename_i hrequest
      have hn := h.engaged.current_none (by rw [hs]; decide)
      have hstopped : s.batch.quietTimer = none :=
        Option.not_isSome_iff_eq_none.mp fun hq => by
          obtain ⟨-, hlight⟩ := h.engaged.quiet hq
          rw [hrequest] at hlight; cases hlight
      dsimp only; split
      · rename_i hbright; exact h.setBatch_stopped hn hn hstopped (by simp [hbright])
      · exact (h.engaged.resume hs).settled
    · exact h

/-! ### Requests -/

theorem complete {row : RequestRow} {body : PortId → Request → State → State × Answer}
    (hb : ∀ p r, Steady (body p r s).1) : Steady (s.complete row body) := by
  have hdone : ∀ {u : State} p r a, Steady u → Steady (u.answer p r a).grantNext := fun p r a hu =>
    hu.same (answer_grantNext _ p r a).2
  unfold State.complete
  split
  · exact h
  · rename_i p r _
    split
    · cases s.inService with
      | false => exact hdone _ _ _ h
      | true => exact hdone _ _ _ (hb p r)
    · exact h

/-- Every request's checks and effect. -/
theorem command (row : RequestRow) : Gives Steady (exec row.command s) := by
  cases row <;> refine gives_next.mpr (h.complete fun p r => ?_)
  case readItem =>
    unfold readItemBody
    split
    · exact h
    · dsimp only; split <;> exact h
  case writeChannel =>
    unfold writeChannelBody
    split
    · dsimp only; split
      · exact h
      · split_ifs
        exacts [h, h.engaged.writeChannel _ _, h]
    · exact h
  case writeZone =>
    unfold writeZoneBody
    split
    · dsimp only; split
      · exact h
      · split_ifs
        exacts [h, h.engaged.writeZone _ _, h]
    · exact h
  case writeLink =>
    unfold writeLinkBody
    split
    · dsimp only; split
      · exact h
      · split_ifs
        exacts [h, h.engaged.writeLink _ _, h]
    · exact h
  case writeBreaker =>
    unfold writeBreakerBody
    split
    · dsimp only; split
      · exact h
      · split_ifs
        exacts [h, h.engaged.writeBreaker _ _, h]
    · exact h
  case writePort =>
    unfold writePortBody
    split
    · exact (h.engaged.setSets _).markWritten
    · exact h
  case writeGlobal =>
    unfold writeGlobalBody
    split
    · split
      · exact h
      · exact (h.engaged.setSets _).markWritten
    · exact h
  case holdZone =>
    unfold holdBody
    split
    · dsimp only; split
      · exact (h.engaged.placeHold _ _ _).settled
      · exact h
    · exact h
  case freeZone =>
    unfold freeBody
    split
    · exact h.freeHold _ _
    · exact h
  case releaseLockout =>
    unfold releaseBody
    split
    · dsimp only
      split_ifs
      case pos | pos | pos | neg => exact h
      exact h.same (releaseBreaker_same s _)
    · exact h
  case testChannels => exact h.testChannels p r
  case suspendTest => exact h.suspendTest p r
  case resumeTest => exact h.resumeTest p r
  case fetchRecord =>
    unfold fetchBody
    split
    · exact h
    · split
      · exact h
      · split
        · exact h.setPort _ _
        · exact h
  case peekOrder =>
    unfold peekBody
    split
    · exact h
    · split <;> exact h
  case commitSettings =>
    unfold commitBody
    split
    · exact h
    · exact h.of_eq rfl rfl fun _ => rfl
  case setSeconds => exact h.of_eq rfl rfl fun _ => rfl
  case unknown => exact h

/-! ### Every command -/

theorem sampleArrival (c : ChanId) (v : Nat) (line : LineStatus) : Gives Steady (execSampleArrival c v line s) := by
  have hbroken := (h.engaged.nonOkArrival c).settled
  refine gives_ite (gives_fault _) (gives_ite ?_ (gives_next.mpr h))
  cases line with
  | ok => exact gives_next.mpr (h.engaged.okArrival c v).settled
  | openLoop | short => exact gives_next.mpr hbroken

theorem holdExpiry (z : ZoneId) (p : PortId) : Gives Steady (execHoldExpiry z p s) := by
  unfold execHoldExpiry
  split
  · exact gives_next.mpr h
  · rename_i e _
    exact gives_effect h (holds_foldl h.engaged (fun z hs => hs.expireZone e z) (ids 12)).settled

theorem gatheringWindowExpiry : Gives Steady (execGatheringWindowExpiry s) := by
  unfold execGatheringWindowExpiry
  split
  · rename_i hguard
    simp only [Bool.and_eq_true, beq_iff_eq] at hguard
    obtain ⟨⟨-, hgathering⟩, -⟩ := hguard
    exact gives_next.mpr (h.engaged.windowEnded hgathering).settled
  · exact gives_next.mpr h

theorem quietTimerExpiry : Gives Steady (execQuietTimerExpiry s) := by
  unfold execQuietTimerExpiry
  split
  · rename_i hguard
    simp only [Bool.and_eq_true, beq_iff_eq] at hguard
    obtain ⟨⟨-, hsuspended⟩, -⟩ := hguard
    exact gives_next.mpr (h.engaged.resume hsuspended).settled
  · exact gives_next.mpr h

theorem darkenTimerExpiry : Gives Steady (execDarkenTimerExpiry s) := by
  unfold execDarkenTimerExpiry
  split
  · exact gives_next.mpr h
  · rename_i c hc
    have hstopped : Engaged (s.setBatch { s.batch with darkenTimer := none }) := h.engaged.setBatch rfl rfl rfl rfl
    exact gives_effect h (hstopped.giveVerdict hc _ _).settled

theorem syncPulse : Gives Steady (execSyncPulse s) := by
  have htime : ∀ x, Gives Steady (.next (s.setTime x)) := fun _ => gives_next.mpr (h.of_eq rfl rfl fun _ => rfl)
  refine gives_ite ?_ (gives_next.mpr h)
  exact gives_ite (htime _) (gives_ite (htime _) (gives_ite (gives_next.mpr (h.same (stepTime_same s))) (htime _)))

theorem setLockout (x : Lockout) : Steady (s.setLockout x) := h.of_eq rfl rfl fun _ => rfl

theorem lockoutUpdateCompletion : Gives Steady (execLockoutUpdateCompletion s) := by
  unfold execLockoutUpdateCompletion
  split
  · exact gives_next.mpr h
  · exact gives_ite (gives_next.mpr h) (gives_next.mpr ((h.setLockout _).same (updateEnded_same _)))

theorem commitCompletion : Gives Steady (execCommitCompletion s) := by
  unfold execCommitCompletion
  split
  · exact gives_next.mpr h
  · exact gives_next.mpr (h.of_eq rfl rfl fun _ => rfl)

/-- A transaction's start moves the port's line and fixes its frame (R159, R161). -/
theorem transactionStart (p : PortId) : Gives Steady (execTransactionStart p s) := by
  have hstatus : ∀ {u : State}, Steady u → Steady (u.fixStatus p) := fun hu => by
    unfold State.fixStatus; dsimp only
    split
    · exact (hu.setPort p _).setPort p _
    · exact hu.setPort p _
  refine gives_ite (gives_next.mpr h) (gives_next.mpr ?_)
  dsimp only
  split
  · exact h.setPort p _
  · unfold State.fixFrame
    split
    · exact (h.setPort p _).setPort p _
    all_goals exact hstatus (h.setPort p _)

/-- A transaction's end frees or fills the port's slot (R162 to R165). -/
theorem transactionEnd (p : PortId) (bytes : List Byte) (extraBits : Nat) :
    Gives Steady (execTransactionEnd p bytes extraBits s) := by
  have htake : ∀ {u : State} r, Steady u → Steady (u.takeRequest p r) := fun r hu => by
    unfold State.takeRequest; dsimp only
    split
    · exact (hu.setPort p _).same (grantTo_same _ p)
    · exact hu.setPort p _
  refine gives_ite (gives_fault _) ?_
  split
  · exact gives_next.mpr (h.setPort p _)
  · refine gives_next.mpr ?_
    unfold State.endTransaction State.examine
    dsimp only
    split
    · split
      · exact h.setPort p _
      · split
        · exact htake _ (h.setPort p _)
        all_goals exact (h.setPort p _).setPort p _
    · exact (h.setPort p _).setPort p _

omit h in
/-- The test engine starts IDLE, with no channel in TESTING (R4, R118). -/
theorem of_atReset {t : State} (hc : ∀ c, (t.chan c).phase ≠ .testing) (hb : t.batch = Batch.atReset) : Steady t := by
  refine ⟨testingOk_vacant hc (by rw [hb]; rfl), ?_⟩
  unfold QuietOk
  rw [hb]; exact iff_of_false (by decide) (by simp [Batch.atReset])

omit h in
theorem resetWith (n : Nat) (l : List SealedRecord) (q : Nat) (up : Bool) : Steady (s.resetWith n l q up) :=
  of_atReset (fun c => by rw [resetWith_chan]; decide) rfl

omit h in
theorem startBlocks : Steady s.startBlocks :=
  of_atReset (fun c => by
    rw [startBlocks_chan]
    unfold Channel.atEntry
    dsimp only; split <;> decide) rfl

/-- Every command. -/
theorem exec (c : Instr) : Gives Steady (exec c s) := by
  have keep : ∀ {t : State}, t.channels = s.channels → t.batch = s.batch → t.zones = s.zones → Steady t :=
    fun hc hb hz => h.of_eq hc hb fun z => by rw [State.zone, State.zone, hz]
  cases c with
  | sampleArrival c v line => exact h.sampleArrival c v line
  | lineFault c => exact gives_effect h (h.engaged.nonOkArrival c).settled
  | lineRecovery c => exact gives_effect h (h.engaged.okArrival c 0).settled
  | contactLineChange b bpc bpo => exact gives_ite (gives_next.mpr h) (gives_next.mpr (keep rfl rfl rfl))
  | positionChange b => exact gives_effect h (h.engaged.positionSettled b).settled
  | positionFaultTimerExpiry b => exact gives_effect h (keep rfl rfl rfl)
  | currentLineChange b level => exact gives_ite (gives_next.mpr h) (gives_next.mpr (keep rfl rfl rfl))
  | filteredCurrentChange b => exact gives_effect h (h.engaged.currentSettled b).settled
  | lightAlarmTimerExpiry z => exact gives_effect h (h.lightAlarm z)
  | closeTimerExpiry o => exact gives_effect h (h.engaged.closeOrder o).settled
  | bfTimerExpiry b => exact gives_effect h (h.engaged.breakerFailed b).settled
  | minimumPulseTimerExpiry b =>
    refine gives_effect h ?_
    unfold State.pulseEnded; dsimp only
    split <;> exact keep rfl rfl rfl
  | pulseCeilingTimerExpiry b => exact gives_effect h (h.engaged.breakerSpent b).settled
  | utMinimumTimerExpiry u => exact gives_effect h (h.engaged.utMinimumEnded u).settled
  | lockoutUpdateCompletion => exact h.lockoutUpdateCompletion
  | lockoutUpdateTimerExpiry => exact gives_effect h ((h.setLockout _).same (updateEnded_same _))
  | holdExpiry z p => exact h.holdExpiry z p
  | gatheringWindowExpiry => exact h.gatheringWindowExpiry
  | settleTimerExpiry => exact gives_effect h (h.setBatch rfl rfl rfl rfl)
  | darkenTimerExpiry => exact h.darkenTimerExpiry
  | quietTimerExpiry => exact h.quietTimerExpiry
  | rollover => exact gives_effect h (keep rfl rfl rfl)
  | syncPulse => exact h.syncPulse
  | freewheelTimerExpiry => exact gives_effect h (keep rfl rfl rfl)
  | transactionStart p => exact h.transactionStart p
  | transactionEnd p bytes extraBits => exact h.transactionEnd p bytes extraBits
  | readItem => exact h.command .readItem
  | writeChannelRecord => exact h.command .writeChannel
  | writeZoneRecord => exact h.command .writeZone
  | writeLinkSlot => exact h.command .writeLink
  | writeBreakerRecord => exact h.command .writeBreaker
  | writePortRecord => exact h.command .writePort
  | writeGlobalRecord => exact h.command .writeGlobal
  | holdZone => exact h.command .holdZone
  | freeZone => exact h.command .freeZone
  | releaseLockout => exact h.command .releaseLockout
  | testChannels => exact h.command .testChannels
  | suspendTest => exact h.command .suspendTest
  | resumeTest => exact h.command .resumeTest
  | fetchRecord => exact h.command .fetchRecord
  | peekOrder => exact h.command .peekOrder
  | commitSettings => exact h.command .commitSettings
  | setSeconds => exact h.command .setSeconds
  | unknownRequest => exact h.command .unknown
  | commitCompletion => exact h.commitCompletion
  | commitTimerExpiry => exact gives_effect h (keep rfl rfl rfl)
  | powerOnReset => exact gives_next.mpr (resetWith (s := s) 0 [] 0 true)
  | resetN => exact gives_effect h (resetWith (s := s) s.oldestSeq s.ring s.nextSeq s.powered)
  | resetEnd => exact gives_effect h (keep rfl rfl rfl)
  | loadingEnd => exact gives_effect h startBlocks
  | tripSupplyReading good => exact gives_effect h (keep rfl rfl rfl)
  | lossOfPower => exact gives_next.mpr (resetWith (s := s) 0 [] 0 false)

theorem advance : Steady s.advance := by
  unfold State.advance; split
  · exact h.of_eq rfl rfl fun _ => rfl
  · exact h

/-- Every step: a command that waits, and on an empty queue the command of a due timer or one microsecond. -/
theorem step : Gives Steady (step s) := by
  unfold Machine.step
  split
  · unfold tick
    split
    · exact gives_next.mpr h.advance
    · exact exec (s := s.tieTaken) (h.of_eq rfl rfl fun _ => rfl) _
  · rename_i c rest _
    exact exec (s := s.setPending rest) (h.of_eq rfl rfl fun _ => rfl) c

end Sys2Proof.Machine.Steady

namespace Sys2Proof.Machine

open Sys2Proof Sys2Proof.Safety

/-- Settles O59: both invariants together stand between events under every step. -/
theorem stepKeepsTestEngine : Obligations.StepKeepsTestEngine := fun _ t hstep htesting hquiet =>
  Steady.step ⟨htesting, hquiet⟩ t hstep

end Sys2Proof.Machine
end

section
/-! PROOF. The test engine (chapter 7): Test Channels, the EMIT step and Resume Test. -/

namespace Sys2Proof.Machine

open Sys2Proof Sys2Proof.Safety

/-! ### Test Channels (R119) -/

theorem row_testChannels {r : Request} (h : r.kind = 0x20#8) : r.row = .testChannels := by simp [Request.row, h]

theorem Marks.has_and_not {n : Nat} (a b : Marks n) (i : Fin n) : (a &&& ~~~ b).has i = (a.has i && !b.has i) := by
  simp [Marks.has]

/-- A batch that opens has its set PENDING and nothing else found. -/
theorem openBatch_result (s : State) (set : Marks 24) (learn : Bool) (c : ChanId) :
    (s.openBatch set learn).result c = if set.has c then .pending else .none := by
  have hmem := Marks.mem_members set c
  simp only [State.result, State.openBatch, State.setBatch_batch, look_markPending, hmem, look_replicate]

/-- A channel that joins becomes PENDING, and one selected before keeps its result. -/
theorem joinBatch_result (s : State) (set : Marks 24) (c : ChanId) :
    (s.joinBatch set).result c = if set.has c && !s.batch.selected.has c then .pending else s.result c := by
  have hmem := Marks.mem_members (set &&& ~~~ s.batch.selected) c
  rw [Marks.has_and_not] at hmem
  simp only [State.result, State.joinBatch, State.setBatch_batch, look_markPending, hmem]

section
variable {s : State} {r : Request} {set : Marks 24} {learn : Bool}
  (hset : set.toNat = r.byte 0 * 65536 + r.byte 1 * 256 + r.byte 2) (hlearn : learn = true ↔ r.byte 3 ≠ 0)

include hset in
theorem request_set : BitVec.ofNat 24 (r.byte 0 * 65536 + r.byte 1 * 256 + r.byte 2) = set := by
  rw [← hset, BitVec.ofNat_toNat, BitVec.setWidth_eq]

include hlearn in
theorem request_learn : (r.byte 3 != 0) = learn := by rw [Bool.eq_iff_iff, hlearn, bne_iff_ne]

include hset in
theorem testChannelsBody_empty (p : PortId) (h0 : set = 0#24) : testChannelsBody p r s = (s, .refuse .value) := by
  simp [testChannelsBody, request_set hset, h0]

include hset in
theorem testChannelsBody_busy (p : PortId) (h0 : set ≠ 0#24)
    (hactive : s.batch.state = .running ∨ s.batch.state = .suspended) :
    testChannelsBody p r s = (s, .refuse .busy) := by
  rcases hactive with h | h <;> simp [testChannelsBody, request_set hset, h0, h]

include hset hlearn

theorem testChannelsBody_idle (p : PortId) (h0 : set ≠ 0#24) (hidle : s.batch.state = .idle) :
    testChannelsBody p r s = (s.openBatch set learn, { code := .done, data := [1#8] }) := by
  simp [testChannelsBody, request_set hset, request_learn hlearn, h0, hidle, State.batchAnswer, State.openBatch,
    BatchState.code, num1]

theorem testChannelsBody_joins (p : PortId) (h0 : set ≠ 0#24) (hgathering : s.batch.state = .gathering)
    (hsame : s.batch.learn = learn) :
    testChannelsBody p r s = (s.joinBatch set, { code := .done, data := [1#8] }) := by
  simp [testChannelsBody, request_set hset, request_learn hlearn, h0, hgathering, hsame, State.batchAnswer,
    State.joinBatch, BatchState.code, num1]

theorem testChannelsBody_otherFlag (p : PortId) (h0 : set ≠ 0#24) (hgathering : s.batch.state = .gathering)
    (hother : s.batch.learn ≠ learn) : testChannelsBody p r s = (s, .refuse .state) := by
  simp [testChannelsBody, request_set hset, request_learn hlearn, h0, hgathering, hother]

end

/-- Settles O28: the request by its data bytes, and the batch that its effect leaves. -/
theorem testChannelsGathers : Obligations.TestChannelsGathers := by
  intro s p r set learn he hk hset hlearn refused
  have hrow := row_testChannels hk
  have hrefused : ∀ c, s.inService = true → testChannelsBody p r s = (s, .refuse c) → refused c := fun c hs hb =>
    complete_effect ⟨hs, he⟩ hrow hb rfl
  have heffect : ∀ b t, SameBut [.ports, .limits] (s.setBatch b) t → (∀ c, t.result c = (s.setBatch b).result c)
      ∧ SameBut [.batch, .ports, .limits] s t := fun b t hrest =>
    ⟨fun c => by rw [State.result, State.result, hrest.batch],
      SameBut.trans (sameBut_setBatch (SameBut.refl _ _) _ (by decide)) (hrest.mono (by simp))⟩
  refine ⟨fun hn => ⟨_, rfl, complete_mode hn he hrow⟩,
    fun hs h0 => hrefused _ hs (testChannelsBody_empty hset p h0), fun hs h0 hidle => ?_,
    fun hs h0 hgathering hsame l hl => ?_,
    fun hs h0 hgathering hother => hrefused _ hs (testChannelsBody_otherFlag hset hlearn p h0 hgathering hother),
    fun hs h0 hactive => hrefused _ hs (testChannelsBody_busy hset p h0 hactive)⟩
  · obtain ⟨t, hexec, hans, hrest⟩ :=
      complete_effect ⟨hs, he⟩ hrow (testChannelsBody_idle hset hlearn p h0 hidle) rfl
    obtain ⟨hresult, hsame⟩ := heffect _ t hrest
    exact ⟨t, hexec, hans, fun c => (hresult c).trans (openBatch_result s set learn c), by rw [hrest.batch]; rfl, hsame⟩
  · obtain ⟨t, hexec, hans, hrest⟩ :=
      complete_effect ⟨hs, he⟩ hrow (testChannelsBody_joins hset hlearn p h0 hgathering hsame) rfl
    obtain ⟨hresult, hsame⟩ := heffect _ t hrest
    refine ⟨t, hexec, hans, fun c => (hresult c).trans (joinBatch_result s set c), ?_, hsame⟩
    rw [hrest.batch]
    simp [State.joinBatch, hl, State.after, gatherStep, ms]

/-! ### The EMIT step (R125) -/

/-- The batch with a sample summed, and after the eighth in the DARKEN step. -/
theorem testSample_emit {s : State} {c : ChanId} {v : Nat} (hc : s.batch.current = some c)
    (he : s.batch.step = some .emit) (hsettled : s.batch.settleTimer = none) :
    s.testSample c v = s.setBatch
      (if s.batch.emitCount + 1 = 8 then
        { s.batch with
          emitSum := s.batch.emitSum + v, emitCount := s.batch.emitCount + 1, step := some .darken
          darkenTimer := some (s.now + 20000), darkenCount := 0 }
      else { s.batch with emitSum := s.batch.emitSum + v, emitCount := s.batch.emitCount + 1 }) := by
  simp only [State.testSample, hc, he, hsettled, if_true, Option.isSome_none, Bool.false_eq_true, if_false, emitSamples]
  split <;> rfl

/-- A sample handed while the settle timer runs is discarded. -/
theorem testSample_settling {s : State} {c : ChanId} {v : Nat} (hc : s.batch.current = some c)
    (he : s.batch.step = some .emit) (hsettling : s.batch.settleTimer.isSome = true) : s.testSample c v = s := by
  simp [State.testSample, hc, he, hsettling]

/-- An OK sample of a channel under test with no non-OK run to end goes to the test engine, and nothing else changes. -/
theorem exec_testSample_ok {s : State} {c : ChanId} {v : Nat} (hs : s.inService = true)
    (ht : (s.chan c).phase = .testing) (hrun : (s.chan c).nonOkRun = 0) (hv : v ≤ 4095) :
    exec (.sampleArrival c v .ok) s = .next (s.testSample c v).settleQuiet := by
  have hsame : { s.chan c with nonOkRun := 0 } = s.chan c := by rw [← hrun]
  rw [exec_testSample hs ht hv, hsame, State.setChan_self]

/-- Settles O30: by the settle timer, and the state that each sample leaves has nothing to settle. -/
theorem emitStepSumsEight : Obligations.EmitStepSumsEight := by
  intro s c v hs hq hc he ht hrun hv
  have hexec := exec_testSample_ok (v := v) hs ht hrun hv
  refine ⟨fun hsettling => ⟨if_pos hsettling, ?_⟩, fun hsettled => ?_⟩
  · rw [hexec, testSample_settling hc he hsettling, settleQuiet_of_quietOk s hq]
  · rw [hexec, testSample_emit hc he hsettled, settleQuiet_of_quietOk]
    refine quietOk_congr hq ?_ ?_ ?_ rfl
    all_goals rw [State.setBatch_batch]; split <;> rfl

/-! ### Resume Test (R135, R136) -/

theorem row_resumeTest {r : Request} (h : r.kind = 0x22#8) : r.row = .resumeTest := by simp [Request.row, h]

/-- A RUNNING batch with no step under way is RUNNING or IDLE once it has taken up a channel (R121). -/
theorem takeUp_state_cases {s : State} (h : s.batch.state = .running) :
    s.takeUp.batch.state = .running ∨ s.takeUp.batch.state = .idle := by
  obtain ⟨-, hidle, hnext⟩ := takeUp_spec s
  rcases takeUp_or s with hnone | ⟨c, hpending, hpasses, hfirst⟩
  · obtain ⟨hbatch, -⟩ := hidle hnone
    exact .inr (by rw [hbatch])
  · obtain ⟨hbatch, -⟩ := hnext c hpending hpasses hfirst
    exact .inl (by rw [hbatch]; exact h)

/-- The resumed batch's answer shows whether a channel was taken up. -/
theorem resume_answer (s : State) :
    s.resume.batchAnswer = { code := .done, data := [if s.resume.batch.state = .idle then 0#8 else 2#8] } := by
  have hcases : s.resume.batch.state = .running ∨ s.resume.batch.state = .idle := takeUp_state_cases rfl
  rcases hcases with h | h <;> simp [State.batchAnswer, h, BatchState.code, num1]

section
variable (p : PortId) (r : Request) (s : State)

theorem resumeBody_refused (h : ¬ (s.batch.state = .suspended ∧ s.batch.cause = some .request)) :
    resumeBody p r s = (s, .refuse .state) := by
  unfold resumeBody
  split
  case h_4 hs =>
    exact if_neg fun hc => h ⟨hs, hc⟩
  all_goals rfl

variable (hs : s.batch.state = .suspended) (hc : s.batch.cause = some .request)
include hs hc

theorem resumeBody_bright (hb : s.anyBright = true) :
    resumeBody p r s = (s.setBatch { s.batch with cause := some .light }, { code := .done, data := [3#8] }) := by
  simp [resumeBody, hs, hc, hb, State.batchAnswer, BatchState.code, num1]

/-- On a dark board the batch is not SUSPENDED after it, and there is no quiet timer to settle. -/
theorem resumeBody_dark (hb : s.anyBright = false) :
    resumeBody p r s =
      (s.resume, { code := .done, data := [if s.resume.batch.state = .idle then 0#8 else 2#8] }) := by
  have hsettled : s.resume.settleQuiet = s.resume := settleQuiet_takeUp rfl
  simp only [resumeBody, hs, hc, hb, if_true, Bool.false_eq_true, if_false, hsettled, resume_answer]

end

/-- Settles O33: by the checks and the board, and on a dark one by what the batch takes up. -/
theorem resumeTestResumes : Obligations.ResumeTestResumes := by
  intro s p r he _ hk refused
  have hrow := row_resumeTest hk
  have hports : s.resume.ports = s.ports := takeUp_ports _
  refine ⟨fun hn => ⟨_, rfl, complete_mode hn he hrow⟩,
    fun hs hno => complete_effect ⟨hs, he⟩ hrow (resumeBody_refused p r s hno) rfl, fun hs hsusp hc hb => ?_,
    fun hs hsusp hc hb c hnext => ?_, fun hs hsusp hc hb => ?_⟩
  · obtain ⟨t, hexec, hans, hrest⟩ := complete_effect ⟨hs, he⟩ hrow (resumeBody_bright p r s hsusp hc hb) rfl
    exact ⟨t, hexec, hans, hrest.batch, SameBut.trans (sameBut_setBatch (SameBut.refl _ _) _ (by decide))
      (hrest.mono (by simp))⟩
  · obtain ⟨t, hexec, hans, hrest⟩ := complete_effect ⟨hs, he⟩ hrow (resumeBody_dark p r s hsusp hc hb) hports
    have hresume : s.resume = (s.setChan c (inTesting (s.chan c))).setBatch
        (testing { s.batch with cause := none, quietTimer := none } c s.now) := takeUp_running hnext rfl rfl
    rw [hresume] at hrest hans
    refine ⟨t, hexec, hans, ?_, fun d hd => ?_, hrest.batch, ?_⟩
    · rw [hrest.chan]; simp
    · rw [hrest.chan]; simp [Ne.symm hd]
    · exact SameBut.trans (sameBut_setBatch (sameBut_setChan (SameBut.refl _ _) _ _ (by decide)) _ (by decide))
        (hrest.mono (by simp))
  · obtain ⟨t, hexec, hans, hrest⟩ := complete_effect ⟨hs, he⟩ hrow (resumeBody_dark p r s hsusp hc hb) hports
    exact ⟨s.resume, t, hexec, takeUp_spec _, hans.of_ports hports.symm, hrest⟩

end Sys2Proof.Machine
end

section
/-! PROOF. A transaction's start (section 9.2): the RESPONSE and the STATUS frame, byte by byte (Tables 9-3, 9-4). -/

namespace Sys2Proof.Machine

open Sys2Proof Sys2Proof.Safety

/-! ### Numbers and flags packed in a byte -/

theorem toNat_byte {x : Nat} (h : x < 256) : (BitVec.ofNat 8 x).toNat = x := by
  rw [BitVec.toNat_ofNat]; exact Nat.mod_eq_of_lt h

/-- Six flags from bit 0 on. -/
theorem flagByte_bits : ∀ a b c d e f : Bool,
    let x : Byte := BitVec.ofNat 8 ((if a then 1 else 0) + (if b then 2 else 0) + (if c then 4 else 0)
      + (if d then 8 else 0) + (if e then 16 else 0) + (if f then 32 else 0))
    x.getLsbD 0 = a ∧ x.getLsbD 1 = b ∧ x.getLsbD 2 = c ∧ x.getLsbD 3 = d ∧ x.getLsbD 4 = e ∧ x.getLsbD 5 = f
      ∧ x.getLsbD 6 = false ∧ x.getLsbD 7 = false := by decide

/-- A bit of a byte as a digit of its number. -/
theorem byte_bit (x i : Nat) (hi : i < 8) : (BitVec.ofNat 8 x).getLsbD i = decide (x / 2 ^ i % 2 = 1) := by
  rw [BitVec.getLsbD_ofNat, Nat.testBit_eq_decide_div_mod_eq]; simp [hi]

theorem marks_bit {n : Nat} (m : Marks n) (i : Fin n) : m.has i = decide (m.toNat / 2 ^ i.val % 2 = 1) := by
  rw [Marks.has, ← BitVec.testBit_toNat, Nat.testBit_eq_decide_div_mod_eq]

/-- Four marks in bits 0 to 3, a number below 4 in bits 5 and 4, and two flags above (Table 9-4, byte 11). -/
theorem packed_byte (m : Marks 4) (k : Nat) (hk : k < 4) (a b : Bool) :
    let x : Byte := BitVec.ofNat 8 (m.toNat + k * 16 + (if a then 64 else 0) + (if b then 128 else 0))
    (∀ i : Fin 4, x.getLsbD i.val = m.has i) ∧ x.toNat / 16 % 4 = k ∧ x.getLsbD 6 = a ∧ x.getLsbD 7 = b := by
  have hm : m.toNat < 16 := m.isLt
  intro x
  refine ⟨fun i => ?_, ?_, ?_, ?_⟩
  · rw [byte_bit _ _ (by omega), marks_bit, decide_eq_decide]
    have hi : i.val = 0 ∨ i.val = 1 ∨ i.val = 2 ∨ i.val = 3 := by omega
    rcases hi with h | h | h | h <;> rw [h] <;> split_ifs <;> omega
  · rw [toNat_byte (by split_ifs <;> omega)]; split_ifs <;> omega
  · rw [byte_bit _ _ (by decide)]
    cases a <;> simp only [Bool.false_eq_true, if_false, if_true, decide_eq_true_eq, decide_eq_false_iff_not] <;>
      split_ifs <;> omega
  · rw [byte_bit _ _ (by decide)]
    cases b <;> simp only [Bool.false_eq_true, if_false, if_true, decide_eq_true_eq, decide_eq_false_iff_not] <;>
      split_ifs <;> omega

/-- Bits past the last mark of a map of two bytes are 0. -/
theorem high_bit_past (m : Marks 12) (j : Nat) (hj : 4 ≤ j) : (BitVec.ofNat 8 (m.toNat / 256)).getLsbD j = false := by
  rw [high_bit, BitVec.getLsbD_of_ge _ _ (by omega), Bool.and_false]

theorem collect_ne_zero {n : Nat} (f : Fin n → Bool) : Marks.collect f ≠ 0 ↔ ∃ i, f i = true := by
  constructor
  · intro h
    by_contra hn
    push Not at hn
    refine h (Marks.ext fun i => ?_)
    rw [Marks.has_collect, Marks.has_zero]
    exact Bool.eq_false_iff.mpr (hn i)
  · rintro ⟨i, hi⟩ h
    have hhas := Marks.has_collect f i
    rw [h, Marks.has_zero, hi] at hhas
    cases hhas

/-! ### The status data bytes (Table 9-4) -/

/-- Data byte `i` of the STATUS frame. -/
def State.statusByte (s : State) (p : PortId) (i : Nat) : Byte := (s.statusFrame p).getD (4 + i) 0#8

theorem statusByte_def (s : State) (p : PortId) (i : Nat) : s.statusByte p i = (s.statusFrame p).getD (4 + i) 0#8 := rfl

/-- The 19 status data bytes, one after another (Table 9-4). -/
def State.statusBytes (s : State) (p : PortId) : List Byte :=
  [.ofNat 8 s.statusMode, s.reasons, .ofNat 8 (s.fourZones 0 1 2 3), .ofNat 8 (s.fourZones 4 5 6 7),
    .ofNat 8 (s.fourZones 8 9 10 11), .ofNat 8 (s.heldMap.toNat % 256), .ofNat 8 (s.heldMap.toNat / 256),
    .ofNat 8 (s.orderMap.toNat % 256), .ofNat 8 (s.orderMap.toNat / 256), .ofNat 8 s.lockout.marks.toNat,
    .ofNat 8 s.busyMap.toNat, .ofNat 8 (s.statusBatch p), .ofNat 8 s.statusChannel, .ofNat 8 s.statusStores,
    .ofNat 8 (s.sets.generation / 256), .ofNat 8 s.sets.generation, .ofNat 8 (s.statusPort p),
    .ofNat 8 (s.uncoveredMap.toNat % 256), .ofNat 8 (s.uncoveredMap.toNat / 256)]

theorem prot_code_lt (x : Prot) : x.code < 4 := by cases x <;> decide

theorem batchState_code_lt (x : BatchState) : x.code < 4 := by cases x <;> decide

theorem timeStatus_code_le (x : TimeStatus) : x.code ≤ 2 := by cases x <;> decide

/-- The protection states of four zones, two bits each. -/
theorem fourZones_digits (s : State) (a b c d : ZoneId) :
    let x := (BitVec.ofNat 8 (s.fourZones a b c d)).toNat
    x / 4 ^ 0 % 4 = (s.zone a).prot.code ∧ x / 4 ^ 1 % 4 = (s.zone b).prot.code
      ∧ x / 4 ^ 2 % 4 = (s.zone c).prot.code ∧ x / 4 ^ 3 % 4 = (s.zone d).prot.code := by
  have ha := prot_code_lt (s.zone a).prot
  have hb := prot_code_lt (s.zone b).prot
  have hc := prot_code_lt (s.zone c).prot
  have hd := prot_code_lt (s.zone d).prot
  intro x
  have hx : x = s.fourZones a b c d := toNat_byte (by unfold State.fourZones; omega)
  rw [hx]
  unfold State.fourZones
  omega

section
variable {s : State} (p : PortId)

/-- The port's byte: its unfetched count and three flags. -/
theorem statusPort_lt : s.statusPort p < 256 := by
  unfold State.statusPort; split_ifs <;> omega

theorem statusData_eq : s.statusData p = s.statusBytes p := by
  simp only [State.statusData, State.statusBytes, num1, num2, lowHigh, List.cons_append, List.nil_append]

section
variable (hs : s.inService = true)
include hs

/-- A data byte read off the list of all of them. -/
theorem statusByte_service {i : Nat} {x : Byte} (hx : (s.statusBytes p)[i]? = some x) : s.statusByte p i = x := by
  obtain ⟨hi, -⟩ := List.getElem?_eq_some_iff.mp hx
  rw [statusByte_def, statusFrame_data s p hs i hi, statusData_eq, List.getD_eq_getElem?_getD, hx]; rfl

theorem mode_inService : s.mode = .protecting ∨ s.mode = .backstop := by
  simpa [State.inService] using hs

theorem statusByte_mode : (s.statusByte p 0).toNat =
    (if s.mode = .protecting then 1 else 2) + (if s.healthy then 4 else 0) + s.time.status.code * 8 := by
  have hbyte : s.statusByte p 0 = BitVec.ofNat 8 s.statusMode := statusByte_service p hs rfl
  have htime := timeStatus_code_le s.time.status
  have hmode : s.statusMode =
      (if s.mode = .protecting then 1 else 2) + (if s.healthy then 4 else 0) + s.time.status.code * 8 := by
    rcases mode_inService hs with h | h <;> simp [State.statusMode, h, UnitMode.statusCode]
  rw [hbyte, hmode, toNat_byte (by split_ifs <;> omega)]

/-- The HEALTHY reasons (R190). -/
theorem statusByte_reasons :
    ((s.statusByte p 1).getLsbD 0 = true ↔ ∃ z, s.uncovered z = true)
      ∧ (s.statusByte p 1).getLsbD 1 = s.lockout.fault ∧ (s.statusByte p 1).getLsbD 2 = s.sets.failed
      ∧ (s.statusByte p 1).getLsbD 3 = decide (s.sup.supply = .low)
      ∧ (s.statusByte p 1).getLsbD 4 = decide (s.sup.supply = .unknown)
      ∧ ((s.statusByte p 1).getLsbD 5 = true ↔ ∃ b, (s.input b).positionFault = true)
      ∧ (s.statusByte p 1).getLsbD 6 = false ∧ (s.statusByte p 1).getLsbD 7 = false := by
  have hbyte : s.statusByte p 1 = s.reasons := statusByte_service p hs rfl
  have hflags : s.reasons = BitVec.ofNat 8 ((if decide (s.uncoveredMap ≠ 0) then 1 else 0)
      + (if s.lockout.fault then 2 else 0) + (if s.sets.failed then 4 else 0)
      + (if decide (s.sup.supply = .low) then 8 else 0) + (if decide (s.sup.supply = .unknown) then 16 else 0)
      + (if (ids 8).any (fun b => (s.input b).positionFault) then 32 else 0)) := by
    simp only [State.reasons, hs, if_true, decide_eq_true_eq, ne_eq, ite_not]
  obtain ⟨h0, h1, h2, h3, h4, h5, h6, h7⟩ := flagByte_bits (decide (s.uncoveredMap ≠ 0)) s.lockout.fault s.sets.failed
    (decide (s.sup.supply = .low)) (decide (s.sup.supply = .unknown)) ((ids 8).any fun b => (s.input b).positionFault)
  rw [hbyte, hflags]
  refine ⟨?_, h1, h2, h3, h4, ?_, h6, h7⟩
  · rw [h0, decide_eq_true_eq]; exact collect_ne_zero _
  · rw [h5]; simp

theorem statusByte_zone (z : ZoneId) :
    (s.statusByte p (2 + z.val / 4)).toNat / 4 ^ (z.val % 4) % 4 = (s.zone z).prot.code := by
  have h2 : s.statusByte p 2 = BitVec.ofNat 8 (s.fourZones 0 1 2 3) := statusByte_service p hs rfl
  have h3 : s.statusByte p 3 = BitVec.ofNat 8 (s.fourZones 4 5 6 7) := statusByte_service p hs rfl
  have h4 : s.statusByte p 4 = BitVec.ofNat 8 (s.fourZones 8 9 10 11) := statusByte_service p hs rfl
  obtain ⟨z0, z1, z2, z3⟩ := fourZones_digits s 0 1 2 3
  obtain ⟨z4, z5, z6, z7⟩ := fourZones_digits s 4 5 6 7
  obtain ⟨z8, z9, z10, z11⟩ := fourZones_digits s 8 9 10 11
  rw [← h2] at z0 z1 z2 z3
  rw [← h3] at z4 z5 z6 z7
  rw [← h4] at z8 z9 z10 z11
  fin_cases z
  exacts [z0, z1, z2, z3, z4, z5, z6, z7, z8, z9, z10, z11]

omit hs in
/-- A map of two bytes, from data byte `i` on. -/
theorem statusByte_map {i : Nat} {f : Fin 12 → Bool}
    (hlow : s.statusByte p i = BitVec.ofNat 8 ((Marks.collect f).toNat % 256))
    (hhigh : s.statusByte p (i + 1) = BitVec.ofNat 8 ((Marks.collect f).toNat / 256)) (j : Fin 12) :
    (s.statusByte p (i + j.val / 8)).getLsbD (j.val % 8) = f j := by
  have hbits := map_bits (Marks.collect f) (s.statusFrame p) (4 + i) hlow hhigh j
  rw [Marks.has_collect, Nat.add_assoc] at hbits
  exact hbits

theorem statusByte_held (z : ZoneId) :
    (s.statusByte p (5 + z.val / 8)).getLsbD (z.val % 8) = (s.zone z).hasHold :=
  statusByte_map (f := fun z => (s.zone z).hasHold) p (statusByte_service p hs rfl)
    (statusByte_service p hs rfl) z

theorem statusByte_order (o : SlotId) :
    (s.statusByte p (7 + o.val / 8)).getLsbD (o.val % 8) = (s.order o).isSome :=
  statusByte_map (f := fun o => (s.order o).isSome) p (statusByte_service p hs rfl)
    (statusByte_service p hs rfl) o

theorem statusByte_uncovered (z : ZoneId) :
    (s.statusByte p (17 + z.val / 8)).getLsbD (z.val % 8) = s.uncovered z :=
  statusByte_map (f := fun z => s.uncovered z) p (statusByte_service p hs rfl)
    (statusByte_service p hs rfl) z

/-- The three maps of 12 marks leave the upper half of their second bytes 0. -/
theorem statusByte_spare (j : Nat) (hj : 4 ≤ j) : (s.statusByte p 6).getLsbD j = false
    ∧ (s.statusByte p 8).getLsbD j = false ∧ (s.statusByte p 18).getLsbD j = false := by
  have h6 : s.statusByte p 6 = BitVec.ofNat 8 (s.heldMap.toNat / 256) := statusByte_service p hs rfl
  have h8 : s.statusByte p 8 = BitVec.ofNat 8 (s.orderMap.toNat / 256) := statusByte_service p hs rfl
  have h18 : s.statusByte p 18 = BitVec.ofNat 8 (s.uncoveredMap.toNat / 256) := statusByte_service p hs rfl
  rw [h6, h8, h18]
  exact ⟨high_bit_past _ j hj, high_bit_past _ j hj, high_bit_past _ j hj⟩

theorem statusByte_breaker (b : BreakerId) :
    (s.statusByte p 9).getLsbD b.val = s.locked b
      ∧ (s.statusByte p 10).getLsbD b.val = decide ((s.trip b).phase ≠ .idle) := by
  have h9 : s.statusByte p 9 = BitVec.ofNat 8 s.lockout.marks.toNat := statusByte_service p hs rfl
  have h10 : s.statusByte p 10 = BitVec.ofNat 8 s.busyMap.toNat := statusByte_service p hs rfl
  rw [h9, h10, BitVec.ofNat_toNat, BitVec.ofNat_toNat, BitVec.setWidth_eq, BitVec.setWidth_eq]
  refine ⟨rfl, ?_⟩
  have hbusy : s.busyMap.has b = ((s.trip b).phase != .idle) := Marks.has_collect _ b
  rw [Marks.has] at hbusy
  rw [hbusy]; exact Bool.eq_iff_iff.mpr (by simp)

theorem statusByte_batch :
    (∀ u : UtId, (s.statusByte p 11).getLsbD u.val = s.utLevel u)
      ∧ (s.statusByte p 11).toNat / 16 % 4 = s.batch.state.code ∧ (s.statusByte p 11).getLsbD 6 = (s.port p).run
      ∧ (s.statusByte p 11).getLsbD 7 = (s.port p).halt := by
  have hbyte : s.statusByte p 11 = BitVec.ofNat 8 (s.statusBatch p) := statusByte_service p hs rfl
  obtain ⟨hut, hstate, hrun, hhalt⟩ :=
    packed_byte s.utMap s.batch.state.code (batchState_code_lt _) (s.port p).run (s.port p).halt
  rw [hbyte]
  exact ⟨fun u => (hut u).trans (Marks.has_collect _ u), hstate, hrun, hhalt⟩

theorem statusByte_channel : (s.statusByte p 12).toNat = s.statusChannel := by
  have hbyte : s.statusByte p 12 = BitVec.ofNat 8 s.statusChannel := statusByte_service p hs rfl
  rw [hbyte, toNat_byte]
  unfold State.statusChannel; split <;> omega

theorem statusByte_stores : (s.statusByte p 13).toNat = s.statusStores := by
  have hbyte : s.statusByte p 13 = BitVec.ofNat 8 s.statusStores := statusByte_service p hs rfl
  have hlockout : s.lockout.store.code ≤ 2 := by cases s.lockout.store <;> decide
  have hsets : s.sets.store.code ≤ 1 := by cases s.sets.store <;> decide
  rw [hbyte, toNat_byte]
  unfold State.statusStores; split_ifs <;> omega

theorem statusByte_generation :
    (s.statusByte p 14).toNat * 256 + (s.statusByte p 15).toNat = s.sets.generation % 65536 := by
  have hhigh : s.statusByte p 14 = BitVec.ofNat 8 (s.sets.generation / 256) := statusByte_service p hs rfl
  have hlow : s.statusByte p 15 = BitVec.ofNat 8 s.sets.generation := statusByte_service p hs rfl
  rw [hhigh, hlow, BitVec.toNat_ofNat, BitVec.toNat_ofNat]
  omega

theorem statusByte_port : (s.statusByte p 16).toNat = s.statusPort p := by
  have hbyte : s.statusByte p 16 = BitVec.ofNat 8 (s.statusPort p) := statusByte_service p hs rfl
  rw [hbyte, toNat_byte (statusPort_lt p)]

end

/-! While LOADING (R161). -/

/-- Out of service and not in RESET, the unit mode's code is 0, and HEALTHY is not asserted. -/
theorem statusMode_loading (hs : s.inService = false) : s.statusMode = s.time.status.code * 8 := by
  have hmode : s.mode.statusCode = 0 ∧ s.healthy = false := by
    unfold State.inService at hs
    unfold State.healthy
    cases h : s.mode <;> simp [h, UnitMode.statusCode] at hs ⊢
  simp [State.statusMode, hmode]

theorem statusByte_loading (hs : s.inService = false) :
    (s.statusByte p 0).toNat = s.time.status.code * 8 ∧ (s.statusByte p 16).toNat = s.statusPort p
      ∧ ∀ i, i < 19 → i ≠ 0 → i ≠ 16 → (s.statusByte p i).toNat = 0 := by
  have hbyte : ∀ i, i < 19 → s.statusByte p i = (s.loadingData p).getD i 0#8 := statusFrame_loading s p hs
  have hmode : s.statusByte p 0 = BitVec.ofNat 8 s.statusMode := hbyte 0 (by decide)
  have hport : s.statusByte p 16 = BitVec.ofNat 8 (s.statusPort p) := hbyte 16 (by decide)
  have htime := timeStatus_code_le s.time.status
  refine ⟨?_, ?_, fun i hi h0 h16 => ?_⟩
  · rw [hmode, statusMode_loading hs, toNat_byte (by omega)]
  · rw [hport, toNat_byte (statusPort_lt p)]
  · rw [hbyte i hi]
    have hspare : (1 ≤ i ∧ i ≤ 15) ∨ (17 ≤ i ∧ i ≤ 18) := by omega
    rcases hspare with ⟨hlow, hhigh⟩ | ⟨hlow, hhigh⟩ <;> interval_cases i <;> rfl

end

/-! ### The frame fixed (R138, R161) -/

/-- The port once the toggles have flipped, before its frame is fixed. -/
def State.toggled (s : State) (p : PortId) : Port :=
  { s.port p with
    selected := true
    run := if s.inService = true ∧ (s.batch.state = .gathering ∨ s.batch.state = .running) then !(s.port p).run
      else (s.port p).run
    halt := if s.inService = true ∧ s.batch.state = .suspended then !(s.port p).halt else (s.port p).halt }

theorem toggled_def (s : State) (p : PortId) : s.toggled p =
    { s.port p with
      selected := true
      run := if s.inService = true ∧ (s.batch.state = .gathering ∨ s.batch.state = .running) then !(s.port p).run
        else (s.port p).run
      halt := if s.inService = true ∧ s.batch.state = .suspended then !(s.port p).halt else (s.port p).halt } := rfl

section
variable {s : State} {p : PortId}

theorem exec_transactionStart_reset (hsel : (s.port p).selected = false) (hm : s.mode = .reset) :
    exec (.transactionStart p) s = .next (s.setPort p { s.port p with selected := true }) := by
  have hexec : exec (.transactionStart p) s = execTransactionStart p s := rfl
  simp [hexec, execTransactionStart, hsel, hm]

theorem exec_transactionStart_fixes (hsel : (s.port p).selected = false) (hm : s.mode ≠ .reset) :
    exec (.transactionStart p) s = .next ((s.setPort p { s.port p with selected := true }).fixFrame p) := by
  have hexec : exec (.transactionStart p) s = execTransactionStart p s := rfl
  simp [hexec, execTransactionStart, hsel, hm]

theorem fixFrame_response {r : Request} {a : Answer} (h : (s.port p).slot = .answered r a) :
    s.fixFrame p = s.setPort p { s.port p with outgoing := some (.response (responseFrame r a)) } := by
  simp [State.fixFrame, h]

theorem fixFrame_status (h : (s.port p).slot.isAnswered = false) : s.fixFrame p = s.fixStatus p := by
  unfold State.fixFrame
  split
  · rename_i hslot; rw [hslot] at h; cases h
  all_goals rfl

/-- The RUN toggle flips under GATHERING and RUNNING (R138). -/
theorem toggled_run (hs : s.inService = true) :
    (s.toggled p).run = ((s.port p).run != (s.batch.state == .gathering || s.batch.state == .running)) := by
  rw [toggled_def, hs]
  cases s.batch.state <;> cases (s.port p).run <;> rfl

/-- The HALT toggle flips under SUSPENDED (R138). -/
theorem toggled_halt (hs : s.inService = true) :
    (s.toggled p).halt = ((s.port p).halt != (s.batch.state == .suspended)) := by
  rw [toggled_def, hs]
  cases s.batch.state <;> cases (s.port p).halt <;> rfl

/-- The flip of the toggles, by the batch's state. -/
theorem flipped_selected (hs : s.inService = true) :
    Port.flipped { s.port p with selected := true } s.batch.state = s.toggled p := by
  rw [toggled_def, hs]
  cases h : s.batch.state <;> simp [Port.flipped]

/-- A STATUS frame shows the state with the toggles flipped. -/
theorem fixStatus_selected (s : State) (p : PortId) :
    (s.setPort p { s.port p with selected := true }).fixStatus p = s.setPort p { s.toggled p with
      outgoing := some (.status (s.port p).frameError (s.port p).dropped ((s.setPort p (s.toggled p)).statusFrame p)) } := by
  unfold State.fixStatus
  cases hs : s.inService with
  | true =>
    have hin : (s.setPort p { s.port p with selected := true }).inService = true := hs
    rw [hin, if_pos rfl]
    simp only [State.setPort_port, if_true, State.setPort_setPort, State.setPort_batch, flipped_selected hs]
    rfl
  | false =>
    have hin : (s.setPort p { s.port p with selected := true }).inService = false := hs
    have hkept : s.toggled p = { s.port p with selected := true } := by simp [toggled_def, hs]
    rw [hin, hkept]
    simp

end

/-- The slot's state with the port number, and its request's tag and kind (Table 9-3). -/
theorem statusFrame_slot (s : State) (p : PortId) :
    let bs := s.statusFrame p
    (bs.getD 1 0#8).toNat = p.val + (s.port p).slot.code * 16
      ∧ bs.getD 2 0#8 = ((s.port p).slot.request.map (·.tag)).getD 0#8
      ∧ bs.getD 3 0#8 = ((s.port p).slot.request.map (·.kind)).getD 0#8 := by
  obtain ⟨-, h1, h2, h3⟩ := statusFrame_head s p
  have hslot : (s.port p).slot.code ≤ 3 := by cases (s.port p).slot <;> simp [Slot.code]
  exact ⟨by rw [h1, toNat_byte (by omega)], h2, h3⟩

/-- The codes of Table 9-2b. -/
theorem resultCode_byte (c : ResultCode) : BitVec.ofNat 8 c.code =
    (match c with
      | .done => 0x00#8 | .doneClamped => 0x01#8 | .doneLost => 0x02#8 | .busy => 0x10#8 | .notHeld => 0x11#8
      | .notOwner => 0x12#8 | .state => 0x13#8 | .item => 0x14#8 | .value => 0x15#8 | .mode => 0x16#8
      | .empty => 0x17#8) := by cases c <;> rfl

/-- Of a port, its status byte reads the cursor and three flags. -/
theorem statusPort_congr {s t : State} (p : PortId) (hn : t.nextSeq = s.nextSeq)
    (hc : (t.port p).cursor = (s.port p).cursor) (he : (t.port p).frameError = (s.port p).frameError)
    (hd : (t.port p).dropped = (s.port p).dropped) (hl : (t.port p).lost = (s.port p).lost) :
    t.statusPort p = s.statusPort p := by
  simp only [State.statusPort, State.unfetched, hn, hc, he, hd, hl]

/-- Settles O38: the frame that the start fixes, and its bytes one after another. -/
theorem transactionStartFixesFrame : Obligations.TransactionStartFixesFrame := by
  intro s p hsel
  refine ⟨exec_transactionStart_reset hsel, fun hm r a hslot => ?_, fun hm hslot => ?_⟩
  · obtain ⟨h0, h1, h2, h3⟩ := responseFrame_head r a
    refine ⟨responseFrame r a, responseFrame_length r a, responseFrame_crcOk r a, ?_, h0, h1, h2,
      h3.trans (resultCode_byte a.code), responseFrame_data r a⟩
    rw [exec_transactionStart_fixes hsel hm, fixFrame_response (r := r) (a := a) (by simp [hslot])]
    simp
  · have hport : (s.setPort p (s.toggled p)).port p = s.toggled p := by simp
    obtain ⟨hlen, hcrc, -⟩ := statusFrame_spec (s.setPort p (s.toggled p)) p
    obtain ⟨hmark, -⟩ := statusFrame_head (s.setPort p (s.toggled p)) p
    have hkept : ((s.setPort p (s.toggled p)).port p).slot = (s.port p).slot := by rw [hport]; rfl
    obtain ⟨hcode, htag, hkind⟩ := statusFrame_slot (s.setPort p (s.toggled p)) p
    rw [hkept] at hcode htag hkind
    refine ⟨_, hlen, hcrc, ?_, hmark, ?_, ?_⟩
    · rw [exec_transactionStart_fixes hsel hm, fixFrame_status (by simp [hslot]), fixStatus_selected]
      rfl
    · cases hx : (s.port p).slot with
      | answered => rw [hx] at hslot; cases hslot
      | empty | queued | executing => rw [hx] at hcode htag hkind; exact ⟨hcode, htag, hkind⟩
    · intro d bit timeBits fetchByte
      have htime : timeBits = s.time.status.code * 8 := by
        change (match s.time.status with | .unset => 0 | .synced => 8 | .freewheel => 16) = _
        cases s.time.status <;> rfl
      have hfetch : (s.setPort p (s.toggled p)).statusPort p = fetchByte :=
        statusPort_congr p rfl (by rw [hport]; rfl) (by rw [hport]; rfl) (by rw [hport]; rfl) (by rw [hport]; rfl)
      refine ⟨fun hn => ?_, fun hs => ?_⟩
      · obtain ⟨hmode, hflags, hzero⟩ := statusByte_loading (s := s.setPort p (s.toggled p)) p hn
        exact ⟨hmode.trans htime.symm, hflags.trans hfetch, hzero⟩
      · have hservice : (s.setPort p (s.toggled p)).inService = true := hs
        obtain ⟨hmap, hfault, hfailed, hlow, hunknown, hposition, h6, h7⟩ :=
          statusByte_reasons p hservice
        obtain ⟨hut, hstate, hrun, hhalt⟩ := statusByte_batch p hservice
        rw [hport] at hrun hhalt
        refine ⟨(statusByte_mode p hservice).trans (congrArg _ htime.symm), (statusByte_port p hservice).trans hfetch,
          hmap, hfault, hfailed, hlow, hunknown, hposition, h6, h7, fun z => (statusByte_zone p hservice z).trans ?_,
          fun z => ⟨statusByte_held p hservice z, statusByte_uncovered p hservice z⟩, statusByte_order p hservice,
          statusByte_spare p hservice, statusByte_breaker p hservice, hut, hstate.trans ?_,
          hrun.trans (toggled_run hs), hhalt.trans (toggled_halt hs), statusByte_channel p hservice,
          (statusByte_stores p hservice).trans ?_, statusByte_generation p hservice⟩
        · change (s.zone z).prot.code = _
          cases (s.zone z).prot <;> rfl
        · change s.batch.state.code = _
          cases s.batch.state <;> rfl
        · change s.statusStores = _
          unfold State.statusStores
          cases s.lockout.store <;> cases s.sets.store <;> rfl

end Sys2Proof.Machine
end
